-- ==== Sys2Proof/Word.lean ====
section
/-!
DEFINITION. The word types of the Zudra-256 model: a byte, a 32-bit register or index word, a 64-bit address or
check value, and a string of bytes as it stands on the wire or in memory, first byte first (spec/00_scope.md R3, R4).
-/

namespace Sys2Proof

/-- One byte, bit 0 least significant (R3). -/
abbrev Byte := BitVec 8

/-- A 32-bit word: a register value (R8) or a free-running descriptor index (R50). -/
abbrev Word := BitVec 32

/-- A 64-bit quantity: a memory address, a tag or a check value. -/
abbrev DWord := BitVec 64

/-- Bytes in wire or memory order, lowest address or first on the wire first. -/
abbrev Bytes := List Byte

end Sys2Proof
end

