-- ==== Sys2Proof/Config.lean ====
section
/-!
DEFINITION. Free values: results that spec/ leaves open although the machine goes on. Each is a constant without a
body, applied to State.freeCount, which counts the values drawn, or to the operands it depends on.
-/

namespace Sys2Proof.Config

/-- Whether the part of a unit that a bucket refill leaves over is rounded up (R290, R305 state no rounding): applied
to the rate and the elapsed time. -/
opaque roundUp : Nat → Nat → Bool

/-- Whether a percentage that is not whole is shown rounded up (PRS_CLK_STAT.use_pct): applied to both counts. -/
opaque pctUp : Nat → Nat → Bool

/-- The state of the generator that chooses what an insertion evicts (R231, TBL_EVICT_CFG). -/
opaque evictDraw : Nat → BitVec 32

/-- A nonce from the engine's internal random source (R445). -/
opaque nonce : Nat → BitVec 128

/-- The free LPM row that an insertion or a move takes, chosen among the free ones (R264, R265). -/
opaque freeRow : Nat → Nat

/-- The busiest thread's share of cycles in a window (MGT_LOAD_IND.busy_pct). -/
opaque busyPct : Nat → BitVec 7

/-- The low 48 bits that a learn event shows for a host key evicted by hardware learning, which has no address of a
station (R236, R239). -/
opaque hostEvictMac : Nat → BitVec 48

/-- PCP and DEI of the tag that routing gives a frame that carries none (R228 step 6). -/
opaque routedPri : Nat → BitVec 4

/-- The four bytes of result that a RESPONSE carries (R444 names them; no command is given one). -/
opaque response : Nat → BitVec 32

/-- The code of an ERROR for a PROOF, COMMAND or CLOSE that names a session which is not in the state it needs
(R446 gives none). -/
opaque sessionError : Nat → BitVec 8

/-- A word of MGT_MBOX_ARG beyond the end of the response that op 3 fetches (R448). -/
opaque mboxFill : Nat → BitVec 32

/-- The free lock slot that a LOCK takes, chosen among the free ones (R258). -/
opaque lockSlot : Nat → Nat

/-- The event code that counter 720 reads: R454 gives DCLK cycles none. -/
opaque dclkCode : BitVec 8

end Sys2Proof.Config
end

