-- ==== Sys2Proof/Machine/Fields.lean ====
section
/-!
DEFINITION. Every register and register field of the block by its name in spec/: the window offset that
spec/16_register_index.md gives it (R470), its reset value and the bit range of its field table. Instances take
the manual's indices; PRT registers take the global port number g = row x 8 + port (R5).
-/

namespace Sys2Proof.Machine

/-- A register: its offset in the 4 MiB window (R470) and its reset value. -/
structure Reg where
  off : Nat
  rst : Word

/-- A register field: its register and its bit range (R3). -/
structure Fld where
  reg : Reg
  hi : Nat
  lo : Nat

/-- FAB_CTX_BASE_LO (spec/02_channels_and_rings.md). -/
def FAB_CTX_BASE_LO.reg : Reg := ⟨0x20008, 0x0⟩
def FAB_CTX_BASE_LO.base_lo : Fld := ⟨FAB_CTX_BASE_LO.reg, 31, 12⟩
/-- FAB_CTX_BASE_HI (spec/02_channels_and_rings.md). -/
def FAB_CTX_BASE_HI.reg : Reg := ⟨0x2000C, 0x0⟩
def FAB_CTX_BASE_HI.base_hi : Fld := ⟨FAB_CTX_BASE_HI.reg, 31, 0⟩
/-- FAB_CCTX_BASE_LO (spec/02_channels_and_rings.md). -/
def FAB_CCTX_BASE_LO.reg : Reg := ⟨0x20010, 0x0⟩
def FAB_CCTX_BASE_LO.base_lo : Fld := ⟨FAB_CCTX_BASE_LO.reg, 31, 12⟩
/-- FAB_CCTX_BASE_HI (spec/02_channels_and_rings.md). -/
def FAB_CCTX_BASE_HI.reg : Reg := ⟨0x20014, 0x0⟩
def FAB_CCTX_BASE_HI.base_hi : Fld := ⟨FAB_CCTX_BASE_HI.reg, 31, 0⟩
/-- FAB_CTX_INVAL (spec/02_channels_and_rings.md). -/
def FAB_CTX_INVAL.reg : Reg := ⟨0x20018, 0x0⟩
def FAB_CTX_INVAL.go : Fld := ⟨FAB_CTX_INVAL.reg, 31, 31⟩
def FAB_CTX_INVAL.busy : Fld := ⟨FAB_CTX_INVAL.reg, 30, 30⟩
def FAB_CTX_INVAL.ring_reset : Fld := ⟨FAB_CTX_INVAL.reg, 17, 17⟩
def FAB_CTX_INVAL.kind : Fld := ⟨FAB_CTX_INVAL.reg, 16, 16⟩
def FAB_CTX_INVAL.index : Fld := ⟨FAB_CTX_INVAL.reg, 12, 0⟩
/-- FAB_DB_CFG (spec/02_channels_and_rings.md). -/
def FAB_DB_CFG.reg : Reg := ⟨0x20020, 0x0⟩
def FAB_DB_CFG.db_drop_cnt : Fld := ⟨FAB_DB_CFG.reg, 31, 16⟩
def FAB_DB_CFG.poll_en : Fld := ⟨FAB_DB_CFG.reg, 1, 1⟩
def FAB_DB_CFG.db_en : Fld := ⟨FAB_DB_CFG.reg, 0, 0⟩
/-- FAB_CHN_SEL (spec/02_channels_and_rings.md). -/
def FAB_CHN_SEL.reg : Reg := ⟨0x20030, 0x0⟩
def FAB_CHN_SEL.channel : Fld := ⟨FAB_CHN_SEL.reg, 12, 0⟩
/-- FAB_CHN_CTL (spec/02_channels_and_rings.md). -/
def FAB_CHN_CTL.reg : Reg := ⟨0x20034, 0x0⟩
def FAB_CHN_CTL.cmd : Fld := ⟨FAB_CHN_CTL.reg, 2, 0⟩
/-- FAB_CHN_STAT (spec/02_channels_and_rings.md). -/
def FAB_CHN_STAT.reg : Reg := ⟨0x20038, 0x0⟩
def FAB_CHN_STAT.backlog : Fld := ⟨FAB_CHN_STAT.reg, 20, 8⟩
def FAB_CHN_STAT.inflight_full : Fld := ⟨FAB_CHN_STAT.reg, 7, 7⟩
def FAB_CHN_STAT.tx_held : Fld := ⟨FAB_CHN_STAT.reg, 6, 6⟩
def FAB_CHN_STAT.cmd_rejected : Fld := ⟨FAB_CHN_STAT.reg, 5, 5⟩
def FAB_CHN_STAT.busy : Fld := ⟨FAB_CHN_STAT.reg, 4, 4⟩
def FAB_CHN_STAT.state : Fld := ⟨FAB_CHN_STAT.reg, 2, 0⟩
/-- FAB_CHN_FENCE_INFO (spec/02_channels_and_rings.md). -/
def FAB_CHN_FENCE_INFO.reg : Reg := ⟨0x2003C, 0x0⟩
def FAB_CHN_FENCE_INFO.dir : Fld := ⟨FAB_CHN_FENCE_INFO.reg, 12, 12⟩
def FAB_CHN_FENCE_INFO.reason : Fld := ⟨FAB_CHN_FENCE_INFO.reg, 11, 8⟩
def FAB_CHN_FENCE_INFO.status : Fld := ⟨FAB_CHN_FENCE_INFO.reg, 7, 0⟩
/-- AUX_BOOK_STAT (spec/03_cellar_book.md). -/
def AUX_BOOK_STAT.reg : Reg := ⟨0x90010, 0x30000000⟩
def AUX_BOOK_STAT.image_valid : Fld := ⟨AUX_BOOK_STAT.reg, 31, 31⟩
def AUX_BOOK_STAT.drain_busy : Fld := ⟨AUX_BOOK_STAT.reg, 30, 30⟩
def AUX_BOOK_STAT.source : Fld := ⟨AUX_BOOK_STAT.reg, 29, 28⟩
def AUX_BOOK_STAT.mirror_fault : Fld := ⟨AUX_BOOK_STAT.reg, 27, 27⟩
def AUX_BOOK_STAT.pfail_seen : Fld := ⟨AUX_BOOK_STAT.reg, 26, 26⟩
def AUX_BOOK_STAT.pending_cnt : Fld := ⟨AUX_BOOK_STAT.reg, 25, 14⟩
def AUX_BOOK_STAT.indet_cnt : Fld := ⟨AUX_BOOK_STAT.reg, 13, 0⟩
/-- ROW_TWIN_CFG (spec/03_cellar_book.md). -/
def ROW_TWIN_CFG.reg (r : Nat) : Reg := ⟨0x200018 + r * 0x4000, 0x2000200A⟩
def ROW_TWIN_CFG.twin_en (r : Nat) : Fld := ⟨ROW_TWIN_CFG.reg r, 31, 31⟩
def ROW_TWIN_CFG.anchor (r : Nat) : Fld := ⟨ROW_TWIN_CFG.reg r, 30, 30⟩
def ROW_TWIN_CFG.strip_rtag (r : Nat) : Fld := ⟨ROW_TWIN_CFG.reg r, 29, 29⟩
def ROW_TWIN_CFG.untagged_pass (r : Nat) : Fld := ⟨ROW_TWIN_CFG.reg r, 28, 28⟩
def ROW_TWIN_CFG.partner_port (r : Nat) : Fld := ⟨ROW_TWIN_CFG.reg r, 27, 20⟩
def ROW_TWIN_CFG.local_port (r : Nat) : Fld := ⟨ROW_TWIN_CFG.reg r, 19, 17⟩
def ROW_TWIN_CFG.history_len (r : Nat) : Fld := ⟨ROW_TWIN_CFG.reg r, 15, 8⟩
def ROW_TWIN_CFG.reset_ms (r : Nat) : Fld := ⟨ROW_TWIN_CFG.reg r, 7, 0⟩
/-- ROW_TWIN_STAT (spec/03_cellar_book.md). -/
def ROW_TWIN_STAT.reg (r : Nat) : Reg := ⟨0x20001C + r * 0x4000, 0x0⟩
def ROW_TWIN_STAT.pair_up (r : Nat) : Fld := ⟨ROW_TWIN_STAT.reg r, 31, 31⟩
def ROW_TWIN_STAT.cfg_err (r : Nat) : Fld := ⟨ROW_TWIN_STAT.reg r, 30, 30⟩
def ROW_TWIN_STAT.local_up (r : Nat) : Fld := ⟨ROW_TWIN_STAT.reg r, 29, 29⟩
def ROW_TWIN_STAT.partner_up (r : Nat) : Fld := ⟨ROW_TWIN_STAT.reg r, 28, 28⟩
def ROW_TWIN_STAT.rcvy_reset (r : Nat) : Fld := ⟨ROW_TWIN_STAT.reg r, 27, 27⟩
def ROW_TWIN_STAT.rogue_seen (r : Nat) : Fld := ⟨ROW_TWIN_STAT.reg r, 26, 26⟩
def ROW_TWIN_STAT.single_copy (r : Nat) : Fld := ⟨ROW_TWIN_STAT.reg r, 25, 25⟩
def ROW_TWIN_STAT.tx_seq (r : Nat) : Fld := ⟨ROW_TWIN_STAT.reg r, 15, 0⟩
/-- GLB_ROW_EN (spec/04_rows_and_framing.md). -/
def GLB_ROW_EN.reg : Reg := ⟨0x1C, 0x0⟩
def GLB_ROW_EN.row_en : Fld := ⟨GLB_ROW_EN.reg, 31, 0⟩
/-- ROW_CFG (spec/04_rows_and_framing.md). -/
def ROW_CFG.reg (r : Nat) : Reg := ⟨0x200000 + r * 0x4000, 0x0⟩
def ROW_CFG.port_speed (r : Nat) : Fld := ⟨ROW_CFG.reg r, 23, 0⟩
/-- ROW_STAT (spec/04_rows_and_framing.md). -/
def ROW_STAT.reg (r : Nat) : Reg := ⟨0x200004 + r * 0x4000, 0x0⟩
def ROW_STAT.state (r : Nat) : Fld := ⟨ROW_STAT.reg r, 31, 30⟩
def ROW_STAT.refuse_reason (r : Nat) : Fld := ⟨ROW_STAT.reg r, 29, 27⟩
def ROW_STAT.en_refused (r : Nat) : Fld := ⟨ROW_STAT.reg r, 26, 26⟩
def ROW_STAT.staging_ovr (r : Nat) : Fld := ⟨ROW_STAT.reg r, 25, 25⟩
def ROW_STAT.internal_fcs (r : Nat) : Fld := ⟨ROW_STAT.reg r, 24, 24⟩
def ROW_STAT.link_up (r : Nat) : Fld := ⟨ROW_STAT.reg r, 23, 16⟩
def ROW_STAT.tx_queued (r : Nat) : Fld := ⟨ROW_STAT.reg r, 15, 0⟩
/-- ROW_CAL_CFG (spec/04_rows_and_framing.md). -/
def ROW_CAL_CFG.reg (r : Nat) : Reg := ⟨0x200008 + r * 0x4000, 0x80000000⟩
def ROW_CAL_CFG.cal_valid (r : Nat) : Fld := ⟨ROW_CAL_CFG.reg r, 31, 31⟩
def ROW_CAL_CFG.manual (r : Nat) : Fld := ⟨ROW_CAL_CFG.reg r, 0, 0⟩
/-- ROW_CAL (spec/04_rows_and_framing.md). -/
def ROW_CAL.reg (r i : Nat) : Reg := ⟨0x200040 + r * 0x4000 + i * 4, 0x0⟩
def ROW_CAL.entry7 (r i : Nat) : Fld := ⟨ROW_CAL.reg r i, 31, 28⟩
def ROW_CAL.entry6 (r i : Nat) : Fld := ⟨ROW_CAL.reg r i, 27, 24⟩
def ROW_CAL.entry5 (r i : Nat) : Fld := ⟨ROW_CAL.reg r i, 23, 20⟩
def ROW_CAL.entry4 (r i : Nat) : Fld := ⟨ROW_CAL.reg r i, 19, 16⟩
def ROW_CAL.entry3 (r i : Nat) : Fld := ⟨ROW_CAL.reg r i, 15, 12⟩
def ROW_CAL.entry2 (r i : Nat) : Fld := ⟨ROW_CAL.reg r i, 11, 8⟩
def ROW_CAL.entry1 (r i : Nat) : Fld := ⟨ROW_CAL.reg r i, 7, 4⟩
def ROW_CAL.entry0 (r i : Nat) : Fld := ⟨ROW_CAL.reg r i, 3, 0⟩
/-- ROW_IF_ERR (spec/04_rows_and_framing.md). -/
def ROW_IF_ERR.reg (r : Nat) : Reg := ⟨0x20000C + r * 0x4000, 0x0⟩
def ROW_IF_ERR.ctl_err_mask (r : Nat) : Fld := ⟨ROW_IF_ERR.reg r, 31, 24⟩
def ROW_IF_ERR.stray_word (r : Nat) : Fld := ⟨ROW_IF_ERR.reg r, 16, 16⟩
def ROW_IF_ERR.err_words (r : Nat) : Fld := ⟨ROW_IF_ERR.reg r, 15, 0⟩
/-- ROW_LPI_CFG (spec/04_rows_and_framing.md). -/
def ROW_LPI_CFG.reg (r : Nat) : Reg := ⟨0x200024 + r * 0x4000, 0x32006400⟩
def ROW_LPI_CFG.wake_100ns (r : Nat) : Fld := ⟨ROW_LPI_CFG.reg r, 31, 24⟩
def ROW_LPI_CFG.idle_us (r : Nat) : Fld := ⟨ROW_LPI_CFG.reg r, 23, 8⟩
def ROW_LPI_CFG.lpi_en (r : Nat) : Fld := ⟨ROW_LPI_CFG.reg r, 7, 0⟩
/-- PRT_MAC_CFG (spec/04_rows_and_framing.md). -/
def PRT_MAC_CFG.reg (g : Nat) : Reg := ⟨0x200800 + g / 8 * 0x4000 + g % 8 * 0x400, 0xC0A⟩
def PRT_MAC_CFG.rx_en (g : Nat) : Fld := ⟨PRT_MAC_CFG.reg g, 31, 31⟩
def PRT_MAC_CFG.tx_en (g : Nat) : Fld := ⟨PRT_MAC_CFG.reg g, 30, 30⟩
def PRT_MAC_CFG.loopback (g : Nat) : Fld := ⟨PRT_MAC_CFG.reg g, 29, 29⟩
def PRT_MAC_CFG.ifg (g : Nat) : Fld := ⟨PRT_MAC_CFG.reg g, 15, 8⟩
def PRT_MAC_CFG.link_hold (g : Nat) : Fld := ⟨PRT_MAC_CFG.reg g, 7, 0⟩
/-- PRT_MAC_STAT (spec/04_rows_and_framing.md). -/
def PRT_MAC_STAT.reg (g : Nat) : Reg := ⟨0x200804 + g / 8 * 0x4000 + g % 8 * 0x400, 0x0⟩
def PRT_MAC_STAT.link_up (g : Nat) : Fld := ⟨PRT_MAC_STAT.reg g, 31, 31⟩
def PRT_MAC_STAT.local_fault (g : Nat) : Fld := ⟨PRT_MAC_STAT.reg g, 30, 30⟩
def PRT_MAC_STAT.remote_fault (g : Nat) : Fld := ⟨PRT_MAC_STAT.reg g, 29, 29⟩
def PRT_MAC_STAT.link_chg (g : Nat) : Fld := ⟨PRT_MAC_STAT.reg g, 28, 28⟩
def PRT_MAC_STAT.tx_active (g : Nat) : Fld := ⟨PRT_MAC_STAT.reg g, 27, 27⟩
def PRT_MAC_STAT.staging_ovr (g : Nat) : Fld := ⟨PRT_MAC_STAT.reg g, 7, 7⟩
def PRT_MAC_STAT.mii_err (g : Nat) : Fld := ⟨PRT_MAC_STAT.reg g, 6, 6⟩
def PRT_MAC_STAT.align_err (g : Nat) : Fld := ⟨PRT_MAC_STAT.reg g, 5, 5⟩
def PRT_MAC_STAT.oversize (g : Nat) : Fld := ⟨PRT_MAC_STAT.reg g, 4, 4⟩
def PRT_MAC_STAT.runt (g : Nat) : Fld := ⟨PRT_MAC_STAT.reg g, 3, 3⟩
def PRT_MAC_STAT.fcs_err (g : Nat) : Fld := ⟨PRT_MAC_STAT.reg g, 2, 2⟩
def PRT_MAC_STAT.len_err (g : Nat) : Fld := ⟨PRT_MAC_STAT.reg g, 1, 1⟩
/-- PRT_FRAME_CFG (spec/04_rows_and_framing.md). -/
def PRT_FRAME_CFG.reg (g : Nat) : Reg := ⟨0x200808 + g / 8 * 0x4000 + g % 8 * 0x400, 0x5F2⟩
def PRT_FRAME_CFG.len_check (g : Nat) : Fld := ⟨PRT_FRAME_CFG.reg g, 16, 16⟩
def PRT_FRAME_CFG.max_frame (g : Nat) : Fld := ⟨PRT_FRAME_CFG.reg g, 15, 0⟩
/-- PRT_FILTER_CFG (spec/04_rows_and_framing.md). -/
def PRT_FILTER_CFG.reg (g : Nat) : Reg := ⟨0x20080C + g / 8 * 0x4000 + g % 8 * 0x400, 0x47800001⟩
def PRT_FILTER_CFG.promisc (g : Nat) : Fld := ⟨PRT_FILTER_CFG.reg g, 31, 31⟩
def PRT_FILTER_CFG.bc_en (g : Nat) : Fld := ⟨PRT_FILTER_CFG.reg g, 30, 30⟩
def PRT_FILTER_CFG.mc_mode (g : Nat) : Fld := ⟨PRT_FILTER_CFG.reg g, 29, 28⟩
def PRT_FILTER_CFG.uc_table (g : Nat) : Fld := ⟨PRT_FILTER_CFG.reg g, 27, 27⟩
def PRT_FILTER_CFG.acc_untagged (g : Nat) : Fld := ⟨PRT_FILTER_CFG.reg g, 26, 26⟩
def PRT_FILTER_CFG.acc_prio (g : Nat) : Fld := ⟨PRT_FILTER_CFG.reg g, 25, 25⟩
def PRT_FILTER_CFG.acc_tagged (g : Nat) : Fld := ⟨PRT_FILTER_CFG.reg g, 24, 24⟩
def PRT_FILTER_CFG.tpid_mode (g : Nat) : Fld := ⟨PRT_FILTER_CFG.reg g, 23, 22⟩
def PRT_FILTER_CFG.default_pcp (g : Nat) : Fld := ⟨PRT_FILTER_CFG.reg g, 14, 12⟩
def PRT_FILTER_CFG.pvid (g : Nat) : Fld := ⟨PRT_FILTER_CFG.reg g, 11, 0⟩
/-- PRT_MC_HASH_LO (spec/04_rows_and_framing.md). -/
def PRT_MC_HASH_LO.reg (g : Nat) : Reg := ⟨0x200810 + g / 8 * 0x4000 + g % 8 * 0x400, 0x0⟩
def PRT_MC_HASH_LO.hash_lo (g : Nat) : Fld := ⟨PRT_MC_HASH_LO.reg g, 31, 0⟩
/-- PRT_MC_HASH_HI (spec/04_rows_and_framing.md). -/
def PRT_MC_HASH_HI.reg (g : Nat) : Reg := ⟨0x200814 + g / 8 * 0x4000 + g % 8 * 0x400, 0x0⟩
def PRT_MC_HASH_HI.hash_hi (g : Nat) : Fld := ⟨PRT_MC_HASH_HI.reg g, 31, 0⟩
/-- PRT_LPI_STAT (spec/04_rows_and_framing.md). -/
def PRT_LPI_STAT.reg (g : Nat) : Reg := ⟨0x200840 + g / 8 * 0x4000 + g % 8 * 0x400, 0x0⟩
def PRT_LPI_STAT.lpi_entries (g : Nat) : Fld := ⟨PRT_LPI_STAT.reg g, 31, 16⟩
def PRT_LPI_STAT.rx_lpi (g : Nat) : Fld := ⟨PRT_LPI_STAT.reg g, 3, 3⟩
def PRT_LPI_STAT.lpi_capable (g : Nat) : Fld := ⟨PRT_LPI_STAT.reg g, 2, 2⟩
def PRT_LPI_STAT.tx_state (g : Nat) : Fld := ⟨PRT_LPI_STAT.reg g, 1, 0⟩
/-- CEL_CFG (spec/05_cellar_and_flow_control.md). -/
def CEL_CFG.reg : Reg := ⟨0x70000, 0x2000000⟩
def CEL_CFG.tx_units : Fld := ⟨CEL_CFG.reg, 28, 16⟩
def CEL_CFG.headroom_units : Fld := ⟨CEL_CFG.reg, 12, 0⟩
/-- CEL_STAT (spec/05_cellar_and_flow_control.md). -/
def CEL_STAT.reg : Reg := ⟨0x70004, 0x0⟩
def CEL_STAT.overcommit : Fld := ⟨CEL_STAT.reg, 31, 31⟩
def CEL_STAT.tx_wait : Fld := ⟨CEL_STAT.reg, 30, 30⟩
def CEL_STAT.shared_free : Fld := ⟨CEL_STAT.reg, 18, 0⟩
/-- CEL_SHARED_CFG (spec/05_cellar_and_flow_control.md). -/
def CEL_SHARED_CFG.reg : Reg := ⟨0x70008, 0x800040⟩
def CEL_SHARED_CFG.xon_units : Fld := ⟨CEL_SHARED_CFG.reg, 28, 16⟩
def CEL_SHARED_CFG.xoff_units : Fld := ⟨CEL_SHARED_CFG.reg, 12, 0⟩
/-- CEL_WAIT_LIMIT (spec/05_cellar_and_flow_control.md). -/
def CEL_WAIT_LIMIT.reg : Reg := ⟨0x7000C, 0x3E8⟩
def CEL_WAIT_LIMIT.limit_us : Fld := ⟨CEL_WAIT_LIMIT.reg, 13, 0⟩
/-- CEL_BANK_STAT (spec/05_cellar_and_flow_control.md). -/
def CEL_BANK_STAT.reg : Reg := ⟨0x70010, 0x0⟩
def CEL_BANK_STAT.uncorr_seen : Fld := ⟨CEL_BANK_STAT.reg, 31, 31⟩
def CEL_BANK_STAT.corr_seen : Fld := ⟨CEL_BANK_STAT.reg, 30, 30⟩
def CEL_BANK_STAT.last_bank : Fld := ⟨CEL_BANK_STAT.reg, 29, 24⟩
def CEL_BANK_STAT.corr_cnt : Fld := ⟨CEL_BANK_STAT.reg, 15, 0⟩
/-- CEL_SPARE_CTL (spec/05_cellar_and_flow_control.md). -/
def CEL_SPARE_CTL.reg : Reg := ⟨0x70014, 0x80000010⟩
def CEL_SPARE_CTL.auto_spare : Fld := ⟨CEL_SPARE_CTL.reg, 31, 31⟩
def CEL_SPARE_CTL.copy_busy : Fld := ⟨CEL_SPARE_CTL.reg, 30, 30⟩
def CEL_SPARE_CTL.copy_bank : Fld := ⟨CEL_SPARE_CTL.reg, 29, 24⟩
def CEL_SPARE_CTL.spare1_used : Fld := ⟨CEL_SPARE_CTL.reg, 23, 23⟩
def CEL_SPARE_CTL.spare1_bank : Fld := ⟨CEL_SPARE_CTL.reg, 21, 16⟩
def CEL_SPARE_CTL.spare0_used : Fld := ⟨CEL_SPARE_CTL.reg, 15, 15⟩
def CEL_SPARE_CTL.spare0_bank : Fld := ⟨CEL_SPARE_CTL.reg, 13, 8⟩
def CEL_SPARE_CTL.spare_thresh : Fld := ⟨CEL_SPARE_CTL.reg, 7, 0⟩
/-- CEL_HEADROOM_STAT (spec/05_cellar_and_flow_control.md). -/
def CEL_HEADROOM_STAT.reg : Reg := ⟨0x70018, 0x0⟩
def CEL_HEADROOM_STAT.peak_units : Fld := ⟨CEL_HEADROOM_STAT.reg, 31, 19⟩
def CEL_HEADROOM_STAT.used : Fld := ⟨CEL_HEADROOM_STAT.reg, 18, 0⟩
/-- CEL_PROF_GUAR (spec/05_cellar_and_flow_control.md). -/
def CEL_PROF_GUAR.reg (j q : Nat) : Reg := ⟨0x70100 + (j * 8 + q) * 16, 0x40⟩
def CEL_PROF_GUAR.guar (j q : Nat) : Fld := ⟨CEL_PROF_GUAR.reg j q, 17, 0⟩
/-- CEL_PROF_HIGH (spec/05_cellar_and_flow_control.md). -/
def CEL_PROF_HIGH.reg (j q : Nat) : Reg := ⟨0x70104 + (j * 8 + q) * 16, 0x800⟩
def CEL_PROF_HIGH.high (j q : Nat) : Fld := ⟨CEL_PROF_HIGH.reg j q, 17, 0⟩
/-- CEL_PROF_LOW (spec/05_cellar_and_flow_control.md). -/
def CEL_PROF_LOW.reg (j q : Nat) : Reg := ⟨0x70108 + (j * 8 + q) * 16, 0x600⟩
def CEL_PROF_LOW.low (j q : Nat) : Fld := ⟨CEL_PROF_LOW.reg j q, 17, 0⟩
/-- CEL_PROF_MODE (spec/05_cellar_and_flow_control.md). -/
def CEL_PROF_MODE.reg (j q : Nat) : Reg := ⟨0x7010C + (j * 8 + q) * 16, 0x0⟩
def CEL_PROF_MODE.mode (j q : Nat) : Fld := ⟨CEL_PROF_MODE.reg j q, 31, 31⟩
def CEL_PROF_MODE.headroom (j q : Nat) : Fld := ⟨CEL_PROF_MODE.reg j q, 17, 0⟩
/-- ROW_PAUSE_SA_LO (spec/05_cellar_and_flow_control.md). -/
def ROW_PAUSE_SA_LO.reg (r : Nat) : Reg := ⟨0x200010 + r * 0x4000, 0x0⟩
def ROW_PAUSE_SA_LO.sa_lo (r : Nat) : Fld := ⟨ROW_PAUSE_SA_LO.reg r, 31, 0⟩
/-- ROW_PAUSE_SA_HI (spec/05_cellar_and_flow_control.md). -/
def ROW_PAUSE_SA_HI.reg (r : Nat) : Reg := ⟨0x200014 + r * 0x4000, 0x0⟩
def ROW_PAUSE_SA_HI.add_port (r : Nat) : Fld := ⟨ROW_PAUSE_SA_HI.reg r, 16, 16⟩
def ROW_PAUSE_SA_HI.sa_hi (r : Nat) : Fld := ⟨ROW_PAUSE_SA_HI.reg r, 15, 0⟩
/-- PRT_ADM_CFG (spec/05_cellar_and_flow_control.md). -/
def PRT_ADM_CFG.reg (g : Nat) : Reg := ⟨0x200818 + g / 8 * 0x4000 + g % 8 * 0x400, 0x0⟩
def PRT_ADM_CFG.profile (g : Nat) : Fld := ⟨PRT_ADM_CFG.reg g, 3, 0⟩
/-- PRT_PFC_CFG (spec/05_cellar_and_flow_control.md). -/
def PRT_PFC_CFG.reg (g : Nat) : Reg := ⟨0x20081C + g / 8 * 0x4000 + g % 8 * 0x400, 0xFFFF0000⟩
def PRT_PFC_CFG.quanta (g : Nat) : Fld := ⟨PRT_PFC_CFG.reg g, 31, 16⟩
def PRT_PFC_CFG.pfc_tx_en (g : Nat) : Fld := ⟨PRT_PFC_CFG.reg g, 15, 8⟩
def PRT_PFC_CFG.tx_mode (g : Nat) : Fld := ⟨PRT_PFC_CFG.reg g, 7, 6⟩
def PRT_PFC_CFG.rx_pfc_en (g : Nat) : Fld := ⟨PRT_PFC_CFG.reg g, 5, 5⟩
def PRT_PFC_CFG.rx_pause_en (g : Nat) : Fld := ⟨PRT_PFC_CFG.reg g, 4, 4⟩
/-- PRT_PFC_STAT (spec/05_cellar_and_flow_control.md). -/
def PRT_PFC_STAT.reg (g : Nat) : Reg := ⟨0x200820 + g / 8 * 0x4000 + g % 8 * 0x400, 0x0⟩
def PRT_PFC_STAT.xoff (g : Nat) : Fld := ⟨PRT_PFC_STAT.reg g, 31, 24⟩
def PRT_PFC_STAT.rx_paused (g : Nat) : Fld := ⟨PRT_PFC_STAT.reg g, 23, 16⟩
def PRT_PFC_STAT.hold (g : Nat) : Fld := ⟨PRT_PFC_STAT.reg g, 15, 8⟩
def PRT_PFC_STAT.link_paused (g : Nat) : Fld := ⟨PRT_PFC_STAT.reg g, 7, 7⟩
def PRT_PFC_STAT.hr_drop (g : Nat) : Fld := ⟨PRT_PFC_STAT.reg g, 6, 6⟩
def PRT_PFC_STAT.rx_pause_bad (g : Nat) : Fld := ⟨PRT_PFC_STAT.reg g, 5, 5⟩
/-- PRS_CFG (spec/06_press_parsing.md). -/
def PRS_CFG.reg (k : Nat) : Reg := ⟨0x100000 + k * 0x10000, 0x0⟩
def PRS_CFG.slow_host (k : Nat) : Fld := ⟨PRS_CFG.reg k, 31, 31⟩
def PRS_CFG.lane_dis (k : Nat) : Fld := ⟨PRS_CFG.reg k, 23, 16⟩
def PRS_CFG.exc_channel (k : Nat) : Fld := ⟨PRS_CFG.reg k, 12, 0⟩
/-- PRS_STAT (spec/06_press_parsing.md). -/
def PRS_STAT.reg (k : Nat) : Reg := ⟨0x100004 + k * 0x10000, 0x0⟩
def PRS_STAT.role (k : Nat) : Fld := ⟨PRS_STAT.reg k, 31, 30⟩
def PRS_STAT.exc_drop_seen (k : Nat) : Fld := ⟨PRS_STAT.reg k, 29, 29⟩
def PRS_STAT.slow_q_drop (k : Nat) : Fld := ⟨PRS_STAT.reg k, 15, 0⟩
/-- PRS_CLK_STAT (spec/06_press_parsing.md). -/
def PRS_CLK_STAT.reg (k : Nat) : Reg := ⟨0x100008 + k * 0x10000, 0x0⟩
def PRS_CLK_STAT.div (k : Nat) : Fld := ⟨PRS_CLK_STAT.reg k, 31, 30⟩
def PRS_CLK_STAT.use_pct (k : Nat) : Fld := ⟨PRS_CLK_STAT.reg k, 23, 16⟩
def PRS_CLK_STAT.steps (k : Nat) : Fld := ⟨PRS_CLK_STAT.reg k, 15, 0⟩
/-- PRS_PARSE_CFG (spec/06_press_parsing.md). -/
def PRS_PARSE_CFG.reg (k : Nat) : Reg := ⟨0x10000C + k * 0x10000, 0x80000100⟩
def PRS_PARSE_CFG.llc_snap_en (k : Nat) : Fld := ⟨PRS_PARSE_CFG.reg k, 31, 31⟩
def PRS_PARSE_CFG.depth (k : Nat) : Fld := ⟨PRS_PARSE_CFG.reg k, 9, 0⟩
/-- PRS_TAG_CFG (spec/06_press_parsing.md). -/
def PRS_TAG_CFG.reg (k : Nat) : Reg := ⟨0x100010 + k * 0x10000, 0x91000441⟩
def PRS_TAG_CFG.extra_tpid (k : Nat) : Fld := ⟨PRS_TAG_CFG.reg k, 31, 16⟩
def PRS_TAG_CFG.extra_tpid_en (k : Nat) : Fld := ⟨PRS_TAG_CFG.reg k, 15, 15⟩
def PRS_TAG_CFG.max_vlan (k : Nat) : Fld := ⟨PRS_TAG_CFG.reg k, 10, 8⟩
def PRS_TAG_CFG.max_mpls (k : Nat) : Fld := ⟨PRS_TAG_CFG.reg k, 6, 4⟩
def PRS_TAG_CFG.mpls_guess (k : Nat) : Fld := ⟨PRS_TAG_CFG.reg k, 0, 0⟩
/-- PRS_TUNNEL_CFG (spec/06_press_parsing.md). -/
def PRS_TUNNEL_CFG.reg (k : Nat) : Reg := ⟨0x100014 + k * 0x10000, 0x8000000F⟩
def PRS_TUNNEL_CFG.levels (k : Nat) : Fld := ⟨PRS_TUNNEL_CFG.reg k, 31, 30⟩
def PRS_TUNNEL_CFG.vxlan_en (k : Nat) : Fld := ⟨PRS_TUNNEL_CFG.reg k, 3, 3⟩
def PRS_TUNNEL_CFG.geneve_en (k : Nat) : Fld := ⟨PRS_TUNNEL_CFG.reg k, 2, 2⟩
def PRS_TUNNEL_CFG.gre_en (k : Nat) : Fld := ⟨PRS_TUNNEL_CFG.reg k, 1, 1⟩
def PRS_TUNNEL_CFG.nvgre_en (k : Nat) : Fld := ⟨PRS_TUNNEL_CFG.reg k, 0, 0⟩
/-- PRS_TUNNEL_PORTS (spec/06_press_parsing.md). -/
def PRS_TUNNEL_PORTS.reg (k : Nat) : Reg := ⟨0x100018 + k * 0x10000, 0x12B517C1⟩
def PRS_TUNNEL_PORTS.vxlan_port (k : Nat) : Fld := ⟨PRS_TUNNEL_PORTS.reg k, 31, 16⟩
def PRS_TUNNEL_PORTS.geneve_port (k : Nat) : Fld := ⟨PRS_TUNNEL_PORTS.reg k, 15, 0⟩
/-- PRS_CSUM_CFG (spec/06_press_parsing.md). -/
def PRS_CSUM_CFG.reg (k : Nat) : Reg := ⟨0x10001C + k * 0x10000, 0xC0000000⟩
def PRS_CSUM_CFG.verify_l3 (k : Nat) : Fld := ⟨PRS_CSUM_CFG.reg k, 31, 31⟩
def PRS_CSUM_CFG.verify_l4 (k : Nat) : Fld := ⟨PRS_CSUM_CFG.reg k, 30, 30⟩
def PRS_CSUM_CFG.drop_bad (k : Nat) : Fld := ⟨PRS_CSUM_CFG.reg k, 29, 29⟩
def PRS_CSUM_CFG.udp6_zero_ok (k : Nat) : Fld := ⟨PRS_CSUM_CFG.reg k, 28, 28⟩
def PRS_CSUM_CFG.outer_udp_mode (k : Nat) : Fld := ⟨PRS_CSUM_CFG.reg k, 27, 27⟩
/-- PRS_SLOW_CFG (spec/06_press_parsing.md). -/
def PRS_SLOW_CFG.reg (k : Nat) : Reg := ⟨0x100020 + k * 0x10000, 0x4400000⟩
def PRS_SLOW_CFG.disp_ptp (k : Nat) : Fld := ⟨PRS_SLOW_CFG.reg k, 27, 26⟩
def PRS_SLOW_CFG.disp_arp (k : Nat) : Fld := ⟨PRS_SLOW_CFG.reg k, 23, 22⟩
def PRS_SLOW_CFG.disp_lldp (k : Nat) : Fld := ⟨PRS_SLOW_CFG.reg k, 21, 20⟩
def PRS_SLOW_CFG.disp_stack (k : Nat) : Fld := ⟨PRS_SLOW_CFG.reg k, 15, 14⟩
def PRS_SLOW_CFG.disp_etype (k : Nat) : Fld := ⟨PRS_SLOW_CFG.reg k, 13, 12⟩
def PRS_SLOW_CFG.disp_depth (k : Nat) : Fld := ⟨PRS_SLOW_CFG.reg k, 11, 10⟩
def PRS_SLOW_CFG.disp_hop (k : Nat) : Fld := ⟨PRS_SLOW_CFG.reg k, 9, 8⟩
def PRS_SLOW_CFG.disp_ttl (k : Nat) : Fld := ⟨PRS_SLOW_CFG.reg k, 7, 6⟩
def PRS_SLOW_CFG.disp_ext3 (k : Nat) : Fld := ⟨PRS_SLOW_CFG.reg k, 5, 4⟩
def PRS_SLOW_CFG.disp_opt (k : Nat) : Fld := ⟨PRS_SLOW_CFG.reg k, 3, 2⟩
def PRS_SLOW_CFG.disp_frag (k : Nat) : Fld := ⟨PRS_SLOW_CFG.reg k, 1, 0⟩
/-- PRS_LANE_STAT (spec/06_press_parsing.md). -/
def PRS_LANE_STAT.reg (k : Nat) : Reg := ⟨0x100024 + k * 0x10000, 0xFF0000⟩
def PRS_LANE_STAT.lane_err (k : Nat) : Fld := ⟨PRS_LANE_STAT.reg k, 31, 24⟩
def PRS_LANE_STAT.in_service (k : Nat) : Fld := ⟨PRS_LANE_STAT.reg k, 23, 16⟩
def PRS_LANE_STAT.max_latency (k : Nat) : Fld := ⟨PRS_LANE_STAT.reg k, 5, 0⟩
/-- PRS_REORDER_CFG (spec/06_press_parsing.md). -/
def PRS_REORDER_CFG.reg (k : Nat) : Reg := ⟨0x100028 + k * 0x10000, 0x8000000A⟩
def PRS_REORDER_CFG.auto_lane_dis (k : Nat) : Fld := ⟨PRS_REORDER_CFG.reg k, 31, 31⟩
def PRS_REORDER_CFG.timeout_us (k : Nat) : Fld := ⟨PRS_REORDER_CFG.reg k, 7, 0⟩
/-- PRS_REORDER_STAT (spec/06_press_parsing.md). -/
def PRS_REORDER_STAT.reg (k : Nat) : Reg := ⟨0x10002C + k * 0x10000, 0x0⟩
def PRS_REORDER_STAT.window_full (k : Nat) : Fld := ⟨PRS_REORDER_STAT.reg k, 31, 31⟩
def PRS_REORDER_STAT.timeout_seen (k : Nat) : Fld := ⟨PRS_REORDER_STAT.reg k, 30, 30⟩
def PRS_REORDER_STAT.peak (k : Nat) : Fld := ⟨PRS_REORDER_STAT.reg k, 24, 16⟩
def PRS_REORDER_STAT.occupancy (k : Nat) : Fld := ⟨PRS_REORDER_STAT.reg k, 8, 0⟩
/-- PRS_ETYPE_CFG (spec/06_press_parsing.md). -/
def PRS_ETYPE_CFG.reg (k i : Nat) : Reg := ⟨0x100040 + k * 0x10000 + i * 4, 0x20000⟩
def PRS_ETYPE_CFG.en (k i : Nat) : Fld := ⟨PRS_ETYPE_CFG.reg k i, 31, 31⟩
def PRS_ETYPE_CFG.action (k i : Nat) : Fld := ⟨PRS_ETYPE_CFG.reg k i, 30, 29⟩
def PRS_ETYPE_CFG.hdr_len (k i : Nat) : Fld := ⟨PRS_ETYPE_CFG.reg k i, 23, 16⟩
def PRS_ETYPE_CFG.etype (k i : Nat) : Fld := ⟨PRS_ETYPE_CFG.reg k i, 15, 0⟩
/-- TBL_CTL (spec/07_tables_and_learning.md). -/
def TBL_CTL.reg : Reg := ⟨0x80000, 0xA0000⟩
def TBL_CTL.en : Fld := ⟨TBL_CTL.reg, 31, 31⟩
def TBL_CTL.cmd_ring_en : Fld := ⟨TBL_CTL.reg, 30, 30⟩
def TBL_CTL.lock_timeout_ms : Fld := ⟨TBL_CTL.reg, 23, 16⟩
/-- TBL_STAT (spec/07_tables_and_learning.md). -/
def TBL_STAT.reg : Reg := ⟨0x80004, 0x0⟩
def TBL_STAT.busy : Fld := ⟨TBL_STAT.reg, 31, 31⟩
def TBL_STAT.ring_fault : Fld := ⟨TBL_STAT.reg, 30, 30⟩
def TBL_STAT.learn_fault : Fld := ⟨TBL_STAT.reg, 29, 29⟩
def TBL_STAT.lock_broken : Fld := ⟨TBL_STAT.reg, 28, 28⟩
def TBL_STAT.age_pending : Fld := ⟨TBL_STAT.reg, 27, 27⟩
def TBL_STAT.sweep_busy : Fld := ⟨TBL_STAT.reg, 26, 26⟩
def TBL_STAT.copy_busy : Fld := ⟨TBL_STAT.reg, 25, 25⟩
def TBL_STAT.shadow_on : Fld := ⟨TBL_STAT.reg, 24, 24⟩
def TBL_STAT.locks_held : Fld := ⟨TBL_STAT.reg, 20, 16⟩
def TBL_STAT.age_stretched : Fld := ⟨TBL_STAT.reg, 15, 0⟩
/-- TBL_CMD_BASE_LO (spec/07_tables_and_learning.md). -/
def TBL_CMD_BASE_LO.reg : Reg := ⟨0x80008, 0x0⟩
def TBL_CMD_BASE_LO.base_lo : Fld := ⟨TBL_CMD_BASE_LO.reg, 31, 6⟩
/-- TBL_CMD_BASE_HI (spec/07_tables_and_learning.md). -/
def TBL_CMD_BASE_HI.reg : Reg := ⟨0x8000C, 0x0⟩
def TBL_CMD_BASE_HI.base_hi : Fld := ⟨TBL_CMD_BASE_HI.reg, 31, 0⟩
/-- TBL_CMD_SIZE (spec/07_tables_and_learning.md). -/
def TBL_CMD_SIZE.reg : Reg := ⟨0x80010, 0x6⟩
def TBL_CMD_SIZE.size_log2 : Fld := ⟨TBL_CMD_SIZE.reg, 4, 0⟩
/-- TBL_CMD_DB (spec/07_tables_and_learning.md). -/
def TBL_CMD_DB.reg : Reg := ⟨0x80014, 0x0⟩
def TBL_CMD_DB.db : Fld := ⟨TBL_CMD_DB.reg, 31, 0⟩
/-- TBL_LEARN_BASE_LO (spec/07_tables_and_learning.md). -/
def TBL_LEARN_BASE_LO.reg : Reg := ⟨0x80018, 0x0⟩
def TBL_LEARN_BASE_LO.base_lo : Fld := ⟨TBL_LEARN_BASE_LO.reg, 31, 6⟩
/-- TBL_LEARN_BASE_HI (spec/07_tables_and_learning.md). -/
def TBL_LEARN_BASE_HI.reg : Reg := ⟨0x8001C, 0x0⟩
def TBL_LEARN_BASE_HI.base_hi : Fld := ⟨TBL_LEARN_BASE_HI.reg, 31, 0⟩
/-- TBL_LEARN_CFG (spec/07_tables_and_learning.md). -/
def TBL_LEARN_CFG.reg : Reg := ⟨0x80020, 0x800A03E8⟩
def TBL_LEARN_CFG.mode : Fld := ⟨TBL_LEARN_CFG.reg, 31, 31⟩
def TBL_LEARN_CFG.learn_en : Fld := ⟨TBL_LEARN_CFG.reg, 30, 30⟩
def TBL_LEARN_CFG.notify : Fld := ⟨TBL_LEARN_CFG.reg, 29, 29⟩
def TBL_LEARN_CFG.sm_drop : Fld := ⟨TBL_LEARN_CFG.reg, 28, 28⟩
def TBL_LEARN_CFG.ring_en : Fld := ⟨TBL_LEARN_CFG.reg, 27, 27⟩
def TBL_LEARN_CFG.size_log2 : Fld := ⟨TBL_LEARN_CFG.reg, 20, 16⟩
def TBL_LEARN_CFG.holdoff_us : Fld := ⟨TBL_LEARN_CFG.reg, 15, 0⟩
/-- TBL_LEARN_STAT (spec/07_tables_and_learning.md). -/
def TBL_LEARN_STAT.reg : Reg := ⟨0x80024, 0x0⟩
def TBL_LEARN_STAT.forced_coord : Fld := ⟨TBL_LEARN_STAT.reg, 31, 31⟩
def TBL_LEARN_STAT.diverged : Fld := ⟨TBL_LEARN_STAT.reg, 30, 30⟩
def TBL_LEARN_STAT.ring_full : Fld := ⟨TBL_LEARN_STAT.reg, 29, 29⟩
def TBL_LEARN_STAT.mode_refused : Fld := ⟨TBL_LEARN_STAT.reg, 28, 28⟩
def TBL_LEARN_STAT.lock_deferred : Fld := ⟨TBL_LEARN_STAT.reg, 27, 27⟩
def TBL_LEARN_STAT.learn_drop : Fld := ⟨TBL_LEARN_STAT.reg, 15, 0⟩
/-- TBL_AGE_CFG (spec/07_tables_and_learning.md). -/
def TBL_AGE_CFG.reg : Reg := ⟨0x80028, 0x80001E⟩
def TBL_AGE_CFG.age_en : Fld := ⟨TBL_AGE_CFG.reg, 31, 31⟩
def TBL_AGE_CFG.host_sweep : Fld := ⟨TBL_AGE_CFG.reg, 30, 30⟩
def TBL_AGE_CFG.max_age : Fld := ⟨TBL_AGE_CFG.reg, 23, 20⟩
def TBL_AGE_CFG.tick_s : Fld := ⟨TBL_AGE_CFG.reg, 15, 0⟩
/-- TBL_EVICT_CFG (spec/07_tables_and_learning.md). -/
def TBL_EVICT_CFG.reg : Reg := ⟨0x8002C, 0x80000000⟩
def TBL_EVICT_CFG.evict_en : Fld := ⟨TBL_EVICT_CFG.reg, 31, 31⟩
def TBL_EVICT_CFG.policy : Fld := ⟨TBL_EVICT_CFG.reg, 30, 30⟩
def TBL_EVICT_CFG.evict_cnt : Fld := ⟨TBL_EVICT_CFG.reg, 15, 0⟩
/-- TBL_HASH_CFG (spec/07_tables_and_learning.md). -/
def TBL_HASH_CFG.reg : Reg := ⟨0x80030, 0x0⟩
def TBL_HASH_CFG.seed : Fld := ⟨TBL_HASH_CFG.reg, 15, 0⟩
/-- TBL_VINTAGE (spec/07_tables_and_learning.md). -/
def TBL_VINTAGE.reg (i : Nat) : Reg := ⟨0x80040 + i * 4, 0x0⟩
def TBL_VINTAGE.vintage (i : Nat) : Fld := ⟨TBL_VINTAGE.reg i, 31, 0⟩
/-- TBL_OCC (spec/07_tables_and_learning.md). -/
def TBL_OCC.reg (i : Nat) : Reg := ⟨0x80060 + i * 4, 0x0⟩
def TBL_OCC.occ (i : Nat) : Fld := ⟨TBL_OCC.reg i, 20, 0⟩
/-- TBL_OVF_OCC (spec/07_tables_and_learning.md). -/
def TBL_OVF_OCC.reg (i : Nat) : Reg := ⟨0x80080 + i * 4, 0x0⟩
def TBL_OVF_OCC.full (i : Nat) : Fld := ⟨TBL_OVF_OCC.reg i, 31, 31⟩
def TBL_OVF_OCC.occ (i : Nat) : Fld := ⟨TBL_OVF_OCC.reg i, 14, 0⟩
/-- PRS_LPM_CFG (spec/07_tables_and_learning.md). -/
def PRS_LPM_CFG.reg (k : Nat) : Reg := ⟨0x100030 + k * 0x10000, 0x10000⟩
def PRS_LPM_CFG.v4_en (k : Nat) : Fld := ⟨PRS_LPM_CFG.reg k, 31, 31⟩
def PRS_LPM_CFG.v6_en (k : Nat) : Fld := ⟨PRS_LPM_CFG.reg k, 30, 30⟩
def PRS_LPM_CFG.move_busy (k : Nat) : Fld := ⟨PRS_LPM_CFG.reg k, 29, 29⟩
def PRS_LPM_CFG.zones_valid (k : Nat) : Fld := ⟨PRS_LPM_CFG.reg k, 28, 28⟩
def PRS_LPM_CFG.free_rows (k : Nat) : Fld := ⟨PRS_LPM_CFG.reg k, 16, 0⟩
/-- PRS_CLS_CFG (spec/08_classification_and_policing.md). -/
def PRS_CLS_CFG.reg (k : Nat) : Reg := ⟨0x100034 + k * 0x10000, 0x0⟩
def PRS_CLS_CFG.en (k : Nat) : Fld := ⟨PRS_CLS_CFG.reg k, 31, 31⟩
def PRS_CLS_CFG.tx_en (k : Nat) : Fld := ⟨PRS_CLS_CFG.reg k, 30, 30⟩
def PRS_CLS_CFG.key_level (k : Nat) : Fld := ⟨PRS_CLS_CFG.reg k, 29, 29⟩
def PRS_CLS_CFG.rows_valid (k : Nat) : Fld := ⟨PRS_CLS_CFG.reg k, 14, 0⟩
/-- PRS_DEFAULT_ACTION (spec/08_classification_and_policing.md). -/
def PRS_DEFAULT_ACTION.reg (k : Nat) : Reg := ⟨0x100038 + k * 0x10000, 0x0⟩
def PRS_DEFAULT_ACTION.verdict (k : Nat) : Fld := ⟨PRS_DEFAULT_ACTION.reg k, 31, 29⟩
def PRS_DEFAULT_ACTION.police_en (k : Nat) : Fld := ⟨PRS_DEFAULT_ACTION.reg k, 28, 28⟩
def PRS_DEFAULT_ACTION.policer (k : Nat) : Fld := ⟨PRS_DEFAULT_ACTION.reg k, 27, 14⟩
def PRS_DEFAULT_ACTION.mirror_en (k : Nat) : Fld := ⟨PRS_DEFAULT_ACTION.reg k, 13, 13⟩
def PRS_DEFAULT_ACTION.mirror_session (k : Nat) : Fld := ⟨PRS_DEFAULT_ACTION.reg k, 12, 12⟩
/-- PRS_MIRROR_CFG (spec/08_classification_and_policing.md). -/
def PRS_MIRROR_CFG.reg (k : Nat) : Reg := ⟨0x10003C + k * 0x10000, 0x0⟩
def PRS_MIRROR_CFG.en1 (k : Nat) : Fld := ⟨PRS_MIRROR_CFG.reg k, 31, 31⟩
def PRS_MIRROR_CFG.kind1 (k : Nat) : Fld := ⟨PRS_MIRROR_CFG.reg k, 30, 29⟩
def PRS_MIRROR_CFG.index1 (k : Nat) : Fld := ⟨PRS_MIRROR_CFG.reg k, 28, 16⟩
def PRS_MIRROR_CFG.en0 (k : Nat) : Fld := ⟨PRS_MIRROR_CFG.reg k, 15, 15⟩
def PRS_MIRROR_CFG.kind0 (k : Nat) : Fld := ⟨PRS_MIRROR_CFG.reg k, 14, 13⟩
def PRS_MIRROR_CFG.index0 (k : Nat) : Fld := ⟨PRS_MIRROR_CFG.reg k, 12, 0⟩
/-- PRS_RANGE_CFG (spec/08_classification_and_policing.md). -/
def PRS_RANGE_CFG.reg (k i : Nat) : Reg := ⟨0x100100 + k * 0x10000 + i * 4, 0x0⟩
def PRS_RANGE_CFG.en (k i : Nat) : Fld := ⟨PRS_RANGE_CFG.reg k i, 31, 31⟩
def PRS_RANGE_CFG.invert (k i : Nat) : Fld := ⟨PRS_RANGE_CFG.reg k i, 30, 30⟩
def PRS_RANGE_CFG.field (k i : Nat) : Fld := ⟨PRS_RANGE_CFG.reg k i, 2, 0⟩
/-- PRS_RANGE_BOUNDS (spec/08_classification_and_policing.md). -/
def PRS_RANGE_BOUNDS.reg (k i : Nat) : Reg := ⟨0x100180 + k * 0x10000 + i * 4, 0xFFFF0000⟩
def PRS_RANGE_BOUNDS.hi (k i : Nat) : Fld := ⟨PRS_RANGE_BOUNDS.reg k i, 31, 16⟩
def PRS_RANGE_BOUNDS.lo (k i : Nat) : Fld := ⟨PRS_RANGE_BOUNDS.reg k i, 15, 0⟩
/-- PRS_POL_SEL (spec/08_classification_and_policing.md). -/
def PRS_POL_SEL.reg (k : Nat) : Reg := ⟨0x100200 + k * 0x10000, 0x0⟩
def PRS_POL_SEL.policer (k : Nat) : Fld := ⟨PRS_POL_SEL.reg k, 13, 0⟩
/-- PRS_POL_CIR (spec/08_classification_and_policing.md). -/
def PRS_POL_CIR.reg (k : Nat) : Reg := ⟨0x100204 + k * 0x10000, 0x0⟩
def PRS_POL_CIR.cir (k : Nat) : Fld := ⟨PRS_POL_CIR.reg k, 31, 0⟩
/-- PRS_POL_PIR (spec/08_classification_and_policing.md). -/
def PRS_POL_PIR.reg (k : Nat) : Reg := ⟨0x100208 + k * 0x10000, 0x0⟩
def PRS_POL_PIR.pir (k : Nat) : Fld := ⟨PRS_POL_PIR.reg k, 31, 0⟩
/-- PRS_POL_CBS (spec/08_classification_and_policing.md). -/
def PRS_POL_CBS.reg (k : Nat) : Reg := ⟨0x10020C + k * 0x10000, 0x0⟩
def PRS_POL_CBS.cbs (k : Nat) : Fld := ⟨PRS_POL_CBS.reg k, 24, 0⟩
/-- PRS_POL_PBS (spec/08_classification_and_policing.md). -/
def PRS_POL_PBS.reg (k : Nat) : Reg := ⟨0x100210 + k * 0x10000, 0x0⟩
def PRS_POL_PBS.pbs (k : Nat) : Fld := ⟨PRS_POL_PBS.reg k, 24, 0⟩
/-- PRS_POL_CTL (spec/08_classification_and_policing.md). -/
def PRS_POL_CTL.reg (k : Nat) : Reg := ⟨0x100214 + k * 0x10000, 0x8000000⟩
def PRS_POL_CTL.en (k : Nat) : Fld := ⟨PRS_POL_CTL.reg k, 31, 31⟩
def PRS_POL_CTL.count_ipg (k : Nat) : Fld := ⟨PRS_POL_CTL.reg k, 30, 30⟩
def PRS_POL_CTL.yellow_act (k : Nat) : Fld := ⟨PRS_POL_CTL.reg k, 29, 28⟩
def PRS_POL_CTL.red_act (k : Nat) : Fld := ⟨PRS_POL_CTL.reg k, 27, 26⟩
def PRS_POL_CTL.yellow_dscp (k : Nat) : Fld := ⟨PRS_POL_CTL.reg k, 25, 20⟩
def PRS_POL_CTL.red_dscp (k : Nat) : Fld := ⟨PRS_POL_CTL.reg k, 19, 14⟩
/-- PRS_POL_STAT (spec/08_classification_and_policing.md). -/
def PRS_POL_STAT.reg (k : Nat) : Reg := ⟨0x100218 + k * 0x10000, 0x0⟩
def PRS_POL_STAT.tc_level (k : Nat) : Fld := ⟨PRS_POL_STAT.reg k, 31, 16⟩
def PRS_POL_STAT.tp_level (k : Nat) : Fld := ⟨PRS_POL_STAT.reg k, 15, 0⟩
/-- PRT_SCHED_CFG (spec/09_transmit_scheduling_and_gates.md). -/
def PRT_SCHED_CFG.reg (g : Nat) : Reg := ⟨0x200824 + g / 8 * 0x4000 + g % 8 * 0x400, 0x1800000⟩
def PRT_SCHED_CFG.fwd_weight (g : Nat) : Fld := ⟨PRT_SCHED_CFG.reg g, 31, 24⟩
def PRT_SCHED_CFG.fwd_burst_log2 (g : Nat) : Fld := ⟨PRT_SCHED_CFG.reg g, 23, 20⟩
/-- PRT_GATE_CFG (spec/09_transmit_scheduling_and_gates.md). -/
def PRT_GATE_CFG.reg (g : Nat) : Reg := ⟨0x200828 + g / 8 * 0x4000 + g % 8 * 0x400, 0xFF0000⟩
def PRT_GATE_CFG.gate_en (g : Nat) : Fld := ⟨PRT_GATE_CFG.reg g, 31, 31⟩
def PRT_GATE_CFG.commit (g : Nat) : Fld := ⟨PRT_GATE_CFG.reg g, 30, 30⟩
def PRT_GATE_CFG.cancel (g : Nat) : Fld := ⟨PRT_GATE_CFG.reg g, 29, 29⟩
def PRT_GATE_CFG.init_states (g : Nat) : Fld := ⟨PRT_GATE_CFG.reg g, 23, 16⟩
def PRT_GATE_CFG.exempt (g : Nat) : Fld := ⟨PRT_GATE_CFG.reg g, 15, 8⟩
/-- PRT_GATE_CYCLE (spec/09_transmit_scheduling_and_gates.md). -/
def PRT_GATE_CYCLE.reg (g : Nat) : Reg := ⟨0x20082C + g / 8 * 0x4000 + g % 8 * 0x400, 0xC3500⟩
def PRT_GATE_CYCLE.cycle (g : Nat) : Fld := ⟨PRT_GATE_CYCLE.reg g, 31, 0⟩
/-- PRT_GATE_BASE_SEC_LO (spec/09_transmit_scheduling_and_gates.md). -/
def PRT_GATE_BASE_SEC_LO.reg (g : Nat) : Reg := ⟨0x200830 + g / 8 * 0x4000 + g % 8 * 0x400, 0x0⟩
def PRT_GATE_BASE_SEC_LO.sec_lo (g : Nat) : Fld := ⟨PRT_GATE_BASE_SEC_LO.reg g, 31, 0⟩
/-- PRT_GATE_BASE_SEC_HI (spec/09_transmit_scheduling_and_gates.md). -/
def PRT_GATE_BASE_SEC_HI.reg (g : Nat) : Reg := ⟨0x200834 + g / 8 * 0x4000 + g % 8 * 0x400, 0x0⟩
def PRT_GATE_BASE_SEC_HI.sec_hi (g : Nat) : Fld := ⟨PRT_GATE_BASE_SEC_HI.reg g, 15, 0⟩
/-- PRT_GATE_BASE_NS (spec/09_transmit_scheduling_and_gates.md). -/
def PRT_GATE_BASE_NS.reg (g : Nat) : Reg := ⟨0x200838 + g / 8 * 0x4000 + g % 8 * 0x400, 0x0⟩
def PRT_GATE_BASE_NS.ns (g : Nat) : Fld := ⟨PRT_GATE_BASE_NS.reg g, 29, 0⟩
/-- PRT_GATE_STAT (spec/09_transmit_scheduling_and_gates.md). -/
def PRT_GATE_STAT.reg (g : Nat) : Reg := ⟨0x20083C + g / 8 * 0x4000 + g % 8 * 0x400, 0xFF0000⟩
def PRT_GATE_STAT.oper_valid (g : Nat) : Fld := ⟨PRT_GATE_STAT.reg g, 31, 31⟩
def PRT_GATE_STAT.pending (g : Nat) : Fld := ⟨PRT_GATE_STAT.reg g, 30, 30⟩
def PRT_GATE_STAT.commit_err (g : Nat) : Fld := ⟨PRT_GATE_STAT.reg g, 29, 29⟩
def PRT_GATE_STAT.err_reason (g : Nat) : Fld := ⟨PRT_GATE_STAT.reg g, 28, 27⟩
def PRT_GATE_STAT.time_step (g : Nat) : Fld := ⟨PRT_GATE_STAT.reg g, 26, 26⟩
def PRT_GATE_STAT.nofit_seen (g : Nat) : Fld := ⟨PRT_GATE_STAT.reg g, 25, 25⟩
def PRT_GATE_STAT.overrun_seen (g : Nat) : Fld := ⟨PRT_GATE_STAT.reg g, 24, 24⟩
def PRT_GATE_STAT.oper_states (g : Nat) : Fld := ⟨PRT_GATE_STAT.reg g, 23, 16⟩
def PRT_GATE_STAT.oper_index (g : Nat) : Fld := ⟨PRT_GATE_STAT.reg g, 10, 0⟩
/-- ROW_GATE_IMG_LO (spec/09_transmit_scheduling_and_gates.md). -/
def ROW_GATE_IMG_LO.reg (r : Nat) : Reg := ⟨0x200028 + r * 0x4000, 0x0⟩
def ROW_GATE_IMG_LO.img_lo (r : Nat) : Fld := ⟨ROW_GATE_IMG_LO.reg r, 31, 3⟩
/-- ROW_GATE_IMG_HI (spec/09_transmit_scheduling_and_gates.md). -/
def ROW_GATE_IMG_HI.reg (r : Nat) : Reg := ⟨0x20002C + r * 0x4000, 0x0⟩
def ROW_GATE_IMG_HI.img_hi (r : Nat) : Fld := ⟨ROW_GATE_IMG_HI.reg r, 31, 0⟩
/-- ROW_GATE_LOAD (spec/09_transmit_scheduling_and_gates.md). -/
def ROW_GATE_LOAD.reg (r : Nat) : Reg := ⟨0x200030 + r * 0x4000, 0x0⟩
def ROW_GATE_LOAD.go (r : Nat) : Fld := ⟨ROW_GATE_LOAD.reg r, 31, 31⟩
def ROW_GATE_LOAD.busy (r : Nat) : Fld := ⟨ROW_GATE_LOAD.reg r, 30, 30⟩
def ROW_GATE_LOAD.fault (r : Nat) : Fld := ⟨ROW_GATE_LOAD.reg r, 29, 29⟩
def ROW_GATE_LOAD.reason (r : Nat) : Fld := ⟨ROW_GATE_LOAD.reg r, 28, 27⟩
def ROW_GATE_LOAD.port (r : Nat) : Fld := ⟨ROW_GATE_LOAD.reg r, 26, 24⟩
def ROW_GATE_LOAD.entries (r : Nat) : Fld := ⟨ROW_GATE_LOAD.reg r, 10, 0⟩
/-- CVU_CTL (spec/10_check_value_units.md). -/
def CVU_CTL.reg : Reg := ⟨0x60000, 0x80000000⟩
def CVU_CTL.en : Fld := ⟨CVU_CTL.reg, 31, 31⟩
/-- CVU_STAT (spec/10_check_value_units.md). -/
def CVU_STAT.reg : Reg := ⟨0x60004, 0x0⟩
def CVU_STAT.log_wait : Fld := ⟨CVU_STAT.reg, 31, 31⟩
def CVU_STAT.mismatch_seen : Fld := ⟨CVU_STAT.reg, 30, 30⟩
def CVU_STAT.log_wait_cnt : Fld := ⟨CVU_STAT.reg, 15, 0⟩
/-- CVU_CAPS (spec/10_check_value_units.md). -/
def CVU_CAPS.reg : Reg := ⟨0x60008, 0xFB700000⟩
def CVU_CAPS.poly_mask : Fld := ⟨CVU_CAPS.reg, 31, 28⟩
def CVU_CAPS.max_block_log2 : Fld := ⟨CVU_CAPS.reg, 27, 24⟩
def CVU_CAPS.tag_src_mask : Fld := ⟨CVU_CAPS.reg, 23, 20⟩
/-- CVU_TEST_CTL (spec/10_check_value_units.md). -/
def CVU_TEST_CTL.reg : Reg := ⟨0x6000C, 0x10000004⟩
def CVU_TEST_CTL.start : Fld := ⟨CVU_TEST_CTL.reg, 31, 31⟩
def CVU_TEST_CTL.active : Fld := ⟨CVU_TEST_CTL.reg, 30, 30⟩
def CVU_TEST_CTL.poly : Fld := ⟨CVU_TEST_CTL.reg, 29, 28⟩
def CVU_TEST_CTL.nbytes : Fld := ⟨CVU_TEST_CTL.reg, 2, 0⟩
/-- CVU_TEST_TAG_LO (spec/10_check_value_units.md). -/
def CVU_TEST_TAG_LO.reg : Reg := ⟨0x60010, 0x0⟩
def CVU_TEST_TAG_LO.tag_lo : Fld := ⟨CVU_TEST_TAG_LO.reg, 31, 0⟩
/-- CVU_TEST_TAG_HI (spec/10_check_value_units.md). -/
def CVU_TEST_TAG_HI.reg : Reg := ⟨0x60014, 0x0⟩
def CVU_TEST_TAG_HI.tag_hi : Fld := ⟨CVU_TEST_TAG_HI.reg, 31, 0⟩
/-- CVU_TEST_DATA (spec/10_check_value_units.md). -/
def CVU_TEST_DATA.reg : Reg := ⟨0x60018, 0x0⟩
def CVU_TEST_DATA.data : Fld := ⟨CVU_TEST_DATA.reg, 31, 0⟩
/-- CVU_TEST_RES_LO (spec/10_check_value_units.md). -/
def CVU_TEST_RES_LO.reg : Reg := ⟨0x6001C, 0x0⟩
def CVU_TEST_RES_LO.res_lo : Fld := ⟨CVU_TEST_RES_LO.reg, 31, 0⟩
/-- CVU_TEST_RES_HI (spec/10_check_value_units.md). -/
def CVU_TEST_RES_HI.reg : Reg := ⟨0x60020, 0x0⟩
def CVU_TEST_RES_HI.res_hi : Fld := ⟨CVU_TEST_RES_HI.reg, 31, 0⟩
/-- TIM_CTL (spec/11_time_and_timestamps.md). -/
def TIM_CTL.reg : Reg := ⟨0x50000, 0x0⟩
def TIM_CTL.load : Fld := ⟨TIM_CTL.reg, 31, 31⟩
/-- TIM_SEC_HI (spec/11_time_and_timestamps.md). -/
def TIM_SEC_HI.reg : Reg := ⟨0x50004, 0x0⟩
def TIM_SEC_HI.sec_hi : Fld := ⟨TIM_SEC_HI.reg, 15, 0⟩
/-- TIM_SEC_LO (spec/11_time_and_timestamps.md). -/
def TIM_SEC_LO.reg : Reg := ⟨0x50008, 0x0⟩
def TIM_SEC_LO.sec_lo : Fld := ⟨TIM_SEC_LO.reg, 31, 0⟩
/-- TIM_NS (spec/11_time_and_timestamps.md). -/
def TIM_NS.reg : Reg := ⟨0x5000C, 0x0⟩
def TIM_NS.ns : Fld := ⟨TIM_NS.reg, 29, 0⟩
/-- TIM_FRAC (spec/11_time_and_timestamps.md). -/
def TIM_FRAC.reg : Reg := ⟨0x50010, 0x0⟩
def TIM_FRAC.frac : Fld := ⟨TIM_FRAC.reg, 31, 16⟩
def TIM_FRAC.sub : Fld := ⟨TIM_FRAC.reg, 15, 4⟩
/-- TIM_INCR (spec/11_time_and_timestamps.md). -/
def TIM_INCR.reg : Reg := ⟨0x50014, 0x14000000⟩
def TIM_INCR.incr : Fld := ⟨TIM_INCR.reg, 31, 0⟩
/-- TIM_STEP_SEC (spec/11_time_and_timestamps.md). -/
def TIM_STEP_SEC.reg : Reg := ⟨0x50018, 0x0⟩
def TIM_STEP_SEC.step_sec : Fld := ⟨TIM_STEP_SEC.reg, 31, 0⟩
/-- TIM_STEP_NS (spec/11_time_and_timestamps.md). -/
def TIM_STEP_NS.reg : Reg := ⟨0x5001C, 0x0⟩
def TIM_STEP_NS.step_ns : Fld := ⟨TIM_STEP_NS.reg, 29, 0⟩
/-- TIM_ADJ_CTL (spec/11_time_and_timestamps.md). -/
def TIM_ADJ_CTL.reg : Reg := ⟨0x50020, 0x0⟩
def TIM_ADJ_CTL.step : Fld := ⟨TIM_ADJ_CTL.reg, 31, 31⟩
def TIM_ADJ_CTL.neg : Fld := ⟨TIM_ADJ_CTL.reg, 30, 30⟩
/-- TIM_PPS_CFG (spec/11_time_and_timestamps.md). -/
def TIM_PPS_CFG.reg : Reg := ⟨0x50024, 0x640A⟩
def TIM_PPS_CFG.pps_in_en : Fld := ⟨TIM_PPS_CFG.reg, 31, 31⟩
def TIM_PPS_CFG.in_falling : Fld := ⟨TIM_PPS_CFG.reg, 30, 30⟩
def TIM_PPS_CFG.pps_out_en : Fld := ⟨TIM_PPS_CFG.reg, 29, 29⟩
def TIM_PPS_CFG.out_low : Fld := ⟨TIM_PPS_CFG.reg, 28, 28⟩
def TIM_PPS_CFG.trig_low : Fld := ⟨TIM_PPS_CFG.reg, 27, 27⟩
def TIM_PPS_CFG.pps_width_ms : Fld := ⟨TIM_PPS_CFG.reg, 15, 8⟩
def TIM_PPS_CFG.trig_width_us : Fld := ⟨TIM_PPS_CFG.reg, 7, 0⟩
/-- TIM_CAP_SEC (spec/11_time_and_timestamps.md). -/
def TIM_CAP_SEC.reg : Reg := ⟨0x50028, 0x0⟩
def TIM_CAP_SEC.cap_sec : Fld := ⟨TIM_CAP_SEC.reg, 31, 0⟩
/-- TIM_CAP_NS (spec/11_time_and_timestamps.md). -/
def TIM_CAP_NS.reg : Reg := ⟨0x5002C, 0x0⟩
def TIM_CAP_NS.cap_ns : Fld := ⟨TIM_CAP_NS.reg, 29, 0⟩
/-- TIM_TRIG_SEC (spec/11_time_and_timestamps.md). -/
def TIM_TRIG_SEC.reg : Reg := ⟨0x50030, 0x0⟩
def TIM_TRIG_SEC.trig_sec : Fld := ⟨TIM_TRIG_SEC.reg, 31, 0⟩
/-- TIM_TRIG_NS (spec/11_time_and_timestamps.md). -/
def TIM_TRIG_NS.reg : Reg := ⟨0x50034, 0x0⟩
def TIM_TRIG_NS.arm : Fld := ⟨TIM_TRIG_NS.reg, 31, 31⟩
def TIM_TRIG_NS.trig_ns : Fld := ⟨TIM_TRIG_NS.reg, 29, 0⟩
/-- TIM_STAT (spec/11_time_and_timestamps.md). -/
def TIM_STAT.reg : Reg := ⟨0x50038, 0x0⟩
def TIM_STAT.cap_valid : Fld := ⟨TIM_STAT.reg, 31, 31⟩
def TIM_STAT.cap_ovr : Fld := ⟨TIM_STAT.reg, 30, 30⟩
def TIM_STAT.trig_armed : Fld := ⟨TIM_STAT.reg, 29, 29⟩
def TIM_STAT.trig_fired : Fld := ⟨TIM_STAT.reg, 28, 28⟩
def TIM_STAT.step_err : Fld := ⟨TIM_STAT.reg, 27, 27⟩
/-- ROW_TS_CFG (spec/11_time_and_timestamps.md). -/
def ROW_TS_CFG.reg (r : Nat) : Reg := ⟨0x200020 + r * 0x4000, 0x0⟩
def ROW_TS_CFG.tx_adj (r : Nat) : Fld := ⟨ROW_TS_CFG.reg r, 31, 19⟩
def ROW_TS_CFG.rx_adj (r : Nat) : Fld := ⟨ROW_TS_CFG.reg r, 18, 6⟩
def ROW_TS_CFG.v6_trailer (r : Nat) : Fld := ⟨ROW_TS_CFG.reg r, 5, 5⟩
/-- FAB_CTL (spec/12_fabric_and_host_side.md). -/
def FAB_CTL.reg : Reg := ⟨0x20000, 0x40404000⟩
def FAB_CTL.en : Fld := ⟨FAB_CTL.reg, 31, 31⟩
def FAB_CTL.adapt_en : Fld := ⟨FAB_CTL.reg, 30, 30⟩
def FAB_CTL.ilv_log2 : Fld := ⟨FAB_CTL.reg, 27, 24⟩
def FAB_CTL.adapt_thresh : Fld := ⟨FAB_CTL.reg, 23, 16⟩
def FAB_CTL.fault_thresh : Fld := ⟨FAB_CTL.reg, 15, 12⟩
def FAB_CTL.owner_func : Fld := ⟨FAB_CTL.reg, 11, 0⟩
/-- FAB_STAT (spec/12_fabric_and_host_side.md). -/
def FAB_STAT.reg : Reg := ⟨0x20004, 0xFFFF0000⟩
def FAB_STAT.in_service : Fld := ⟨FAB_STAT.reg, 31, 16⟩
def FAB_STAT.host_up : Fld := ⟨FAB_STAT.reg, 15, 15⟩
def FAB_STAT.ctx_fault : Fld := ⟨FAB_STAT.reg, 14, 14⟩
def FAB_STAT.no_port : Fld := ⟨FAB_STAT.reg, 13, 13⟩
def FAB_STAT.quarantine : Fld := ⟨FAB_STAT.reg, 12, 12⟩
/-- FAB_CTX_CACHE_STAT (spec/12_fabric_and_host_side.md). -/
def FAB_CTX_CACHE_STAT.reg : Reg := ⟨0x2001C, 0x0⟩
def FAB_CTX_CACHE_STAT.occupancy : Fld := ⟨FAB_CTX_CACHE_STAT.reg, 26, 16⟩
def FAB_CTX_CACHE_STAT.miss_cnt : Fld := ⟨FAB_CTX_CACHE_STAT.reg, 15, 0⟩
/-- FAB_TIMEOUT_CFG (spec/12_fabric_and_host_side.md). -/
def FAB_TIMEOUT_CFG.reg : Reg := ⟨0x20024, 0xC350⟩
def FAB_TIMEOUT_CFG.timeout_us : Fld := ⟨FAB_TIMEOUT_CFG.reg, 17, 0⟩
/-- FAB_QUIESCE_CFG (spec/12_fabric_and_host_side.md). -/
def FAB_QUIESCE_CFG.reg : Reg := ⟨0x20028, 0x32⟩
def FAB_QUIESCE_CFG.quiesce_ms : Fld := ⟨FAB_QUIESCE_CFG.reg, 6, 0⟩
/-- FAB_HOST_LINK (spec/12_fabric_and_host_side.md). -/
def FAB_HOST_LINK.reg : Reg := ⟨0x2002C, 0x0⟩
def FAB_HOST_LINK.up : Fld := ⟨FAB_HOST_LINK.reg, 31, 31⟩
def FAB_HOST_LINK.loss_seen : Fld := ⟨FAB_HOST_LINK.reg, 30, 30⟩
def FAB_HOST_LINK.return_seen : Fld := ⟨FAB_HOST_LINK.reg, 29, 29⟩
def FAB_HOST_LINK.loss_cnt : Fld := ⟨FAB_HOST_LINK.reg, 15, 0⟩
/-- FAB_FUNC_SEL (spec/12_fabric_and_host_side.md). -/
def FAB_FUNC_SEL.reg : Reg := ⟨0x20040, 0x0⟩
def FAB_FUNC_SEL.function : Fld := ⟨FAB_FUNC_SEL.reg, 11, 0⟩
/-- FAB_FUNC_STAT (spec/12_fabric_and_host_side.md). -/
def FAB_FUNC_STAT.reg : Reg := ⟨0x20044, 0x0⟩
def FAB_FUNC_STAT.present : Fld := ⟨FAB_FUNC_STAT.reg, 31, 31⟩
def FAB_FUNC_STAT.vf : Fld := ⟨FAB_FUNC_STAT.reg, 30, 30⟩
def FAB_FUNC_STAT.bme : Fld := ⟨FAB_FUNC_STAT.reg, 29, 29⟩
def FAB_FUNC_STAT.msg_en : Fld := ⟨FAB_FUNC_STAT.reg, 28, 28⟩
def FAB_FUNC_STAT.flr : Fld := ⟨FAB_FUNC_STAT.reg, 27, 27⟩
def FAB_FUNC_STAT.q_state : Fld := ⟨FAB_FUNC_STAT.reg, 26, 25⟩
def FAB_FUNC_STAT.link_lost : Fld := ⟨FAB_FUNC_STAT.reg, 24, 24⟩
def FAB_FUNC_STAT.intx_pending : Fld := ⟨FAB_FUNC_STAT.reg, 23, 23⟩
def FAB_FUNC_STAT.q_timeout : Fld := ⟨FAB_FUNC_STAT.reg, 22, 22⟩
def FAB_FUNC_STAT.abandoned : Fld := ⟨FAB_FUNC_STAT.reg, 21, 14⟩
def FAB_FUNC_STAT.channels : Fld := ⟨FAB_FUNC_STAT.reg, 13, 0⟩
/-- FAB_FUNC_CTL (spec/12_fabric_and_host_side.md). -/
def FAB_FUNC_CTL.reg : Reg := ⟨0x20048, 0x0⟩
def FAB_FUNC_CTL.adapter_mem : Fld := ⟨FAB_FUNC_CTL.reg, 31, 31⟩
def FAB_FUNC_CTL.abandon : Fld := ⟨FAB_FUNC_CTL.reg, 30, 30⟩
/-- FAB_PORT_CFG (spec/12_fabric_and_host_side.md). -/
def FAB_PORT_CFG.reg (i : Nat) : Reg := ⟨0x20100 + i * 4, 0x80000400⟩
def FAB_PORT_CFG.en (i : Nat) : Fld := ⟨FAB_PORT_CFG.reg i, 31, 31⟩
def FAB_PORT_CFG.restore (i : Nat) : Fld := ⟨FAB_PORT_CFG.reg i, 30, 30⟩
def FAB_PORT_CFG.max_tags (i : Nat) : Fld := ⟨FAB_PORT_CFG.reg i, 10, 0⟩
/-- FAB_PORT_STAT (spec/12_fabric_and_host_side.md). -/
def FAB_PORT_STAT.reg (i : Nat) : Reg := ⟨0x20140 + i * 4, 0x80000000⟩
def FAB_PORT_STAT.in_service (i : Nat) : Fld := ⟨FAB_PORT_STAT.reg i, 31, 31⟩
def FAB_PORT_STAT.fault (i : Nat) : Fld := ⟨FAB_PORT_STAT.reg i, 30, 30⟩
def FAB_PORT_STAT.err_resp_seen (i : Nat) : Fld := ⟨FAB_PORT_STAT.reg i, 29, 29⟩
def FAB_PORT_STAT.tags_out (i : Nat) : Fld := ⟨FAB_PORT_STAT.reg i, 26, 16⟩
def FAB_PORT_STAT.quarantined (i : Nat) : Fld := ⟨FAB_PORT_STAT.reg i, 10, 0⟩
/-- FAB_LATE_CNT (spec/12_fabric_and_host_side.md). -/
def FAB_LATE_CNT.reg (i : Nat) : Reg := ⟨0x20180 + i * 4, 0x0⟩
def FAB_LATE_CNT.late (i : Nat) : Fld := ⟨FAB_LATE_CNT.reg i, 31, 0⟩
/-- EVT_CTL (spec/12_fabric_and_host_side.md). -/
def EVT_CTL.reg : Reg := ⟨0x30000, 0x0⟩
def EVT_CTL.en : Fld := ⟨EVT_CTL.reg, 31, 31⟩
def EVT_CTL.blk_gap_us : Fld := ⟨EVT_CTL.reg, 15, 0⟩
/-- EVT_STAT (spec/12_fabric_and_host_side.md). -/
def EVT_STAT.reg : Reg := ⟨0x30004, 0x0⟩
def EVT_STAT.stall : Fld := ⟨EVT_STAT.reg, 31, 31⟩
def EVT_STAT.src_pending : Fld := ⟨EVT_STAT.reg, 23, 16⟩
def EVT_STAT.evt_cnt : Fld := ⟨EVT_STAT.reg, 15, 0⟩
/-- EVT_BLOCK_VEC (spec/12_fabric_and_host_side.md). -/
def EVT_BLOCK_VEC.reg : Reg := ⟨0x30008, 0x0⟩
def EVT_BLOCK_VEC.src_en : Fld := ⟨EVT_BLOCK_VEC.reg, 31, 24⟩
def EVT_BLOCK_VEC.base_vector : Fld := ⟨EVT_BLOCK_VEC.reg, 22, 12⟩
def EVT_BLOCK_VEC.function : Fld := ⟨EVT_BLOCK_VEC.reg, 11, 0⟩
/-- EVT_INTX_CFG (spec/12_fabric_and_host_side.md). -/
def EVT_INTX_CFG.reg : Reg := ⟨0x3000C, 0x0⟩
def EVT_INTX_CFG.ack : Fld := ⟨EVT_INTX_CFG.reg, 31, 31⟩
def EVT_INTX_CFG.pending : Fld := ⟨EVT_INTX_CFG.reg, 30, 30⟩
def EVT_INTX_CFG.func : Fld := ⟨EVT_INTX_CFG.reg, 11, 0⟩
/-- EVT_FORCE (spec/12_fabric_and_host_side.md). -/
def EVT_FORCE.reg : Reg := ⟨0x30010, 0x0⟩
def EVT_FORCE.go : Fld := ⟨EVT_FORCE.reg, 31, 31⟩
def EVT_FORCE.vector : Fld := ⟨EVT_FORCE.reg, 22, 12⟩
def EVT_FORCE.function : Fld := ⟨EVT_FORCE.reg, 11, 0⟩
/-- GLB_IDENT (spec/13_power_cages_and_startup.md). -/
def GLB_IDENT.reg : Reg := ⟨0x0, 0x4E5A2560⟩
def GLB_IDENT.ident : Fld := ⟨GLB_IDENT.reg, 31, 0⟩
/-- GLB_ISSUE (spec/13_power_cages_and_startup.md). -/
def GLB_ISSUE.reg : Reg := ⟨0x4, 0xB00⟩
def GLB_ISSUE.issue : Fld := ⟨GLB_ISSUE.reg, 15, 8⟩
def GLB_ISSUE.minor : Fld := ⟨GLB_ISSUE.reg, 7, 0⟩
/-- GLB_CAPS (spec/13_power_cages_and_startup.md). -/
def GLB_CAPS.reg : Reg := ⟨0x8, 0x82EE4336⟩
def GLB_CAPS.rows : Fld := ⟨GLB_CAPS.reg, 31, 26⟩
def GLB_CAPS.presses : Fld := ⟨GLB_CAPS.reg, 25, 23⟩
def GLB_CAPS.chan_log2 : Fld := ⟨GLB_CAPS.reg, 22, 19⟩
def GLB_CAPS.cring_log2 : Fld := ⟨GLB_CAPS.reg, 18, 15⟩
def GLB_CAPS.fab_ports : Fld := ⟨GLB_CAPS.reg, 14, 10⟩
def GLB_CAPS.func_log2 : Fld := ⟨GLB_CAPS.reg, 9, 6⟩
def GLB_CAPS.one_step : Fld := ⟨GLB_CAPS.reg, 5, 5⟩
def GLB_CAPS.twin : Fld := ⟨GLB_CAPS.reg, 4, 4⟩
def GLB_CAPS.cellar_log2 : Fld := ⟨GLB_CAPS.reg, 3, 0⟩
/-- GLB_SCRATCH (spec/13_power_cages_and_startup.md). -/
def GLB_SCRATCH.reg : Reg := ⟨0xC, 0x0⟩
def GLB_SCRATCH.scratch : Fld := ⟨GLB_SCRATCH.reg, 31, 0⟩
/-- GLB_STATUS (spec/13_power_cages_and_startup.md). -/
def GLB_STATUS.reg : Reg := ⟨0x10, 0x40000000⟩
def GLB_STATUS.ready : Fld := ⟨GLB_STATUS.reg, 31, 31⟩
def GLB_STATUS.init_busy : Fld := ⟨GLB_STATUS.reg, 30, 30⟩
def GLB_STATUS.reset_busy : Fld := ⟨GLB_STATUS.reg, 29, 29⟩
def GLB_STATUS.reset_refused : Fld := ⟨GLB_STATUS.reg, 28, 28⟩
def GLB_STATUS.key_err : Fld := ⟨GLB_STATUS.reg, 27, 27⟩
def GLB_STATUS.reset_cause : Fld := ⟨GLB_STATUS.reg, 26, 25⟩
def GLB_STATUS.soft_cnt : Fld := ⟨GLB_STATUS.reg, 15, 0⟩
/-- GLB_RESET_CTL (spec/13_power_cages_and_startup.md). -/
def GLB_RESET_CTL.reg : Reg := ⟨0x14, 0x0⟩
def GLB_RESET_CTL.soft_reset : Fld := ⟨GLB_RESET_CTL.reg, 31, 31⟩
def GLB_RESET_CTL.key : Fld := ⟨GLB_RESET_CTL.reg, 15, 8⟩
/-- GLB_CLK_CTL (spec/13_power_cages_and_startup.md). -/
def GLB_CLK_CTL.reg : Reg := ⟨0x20, 0x0⟩
def GLB_CLK_CTL.force : Fld := ⟨GLB_CLK_CTL.reg, 9, 0⟩
/-- GLB_THROTTLE_CFG (spec/13_power_cages_and_startup.md). -/
def GLB_THROTTLE_CFG.reg : Reg := ⟨0x24, 0xCB3C5040⟩
def GLB_THROTTLE_CFG.en : Fld := ⟨GLB_THROTTLE_CFG.reg, 31, 31⟩
def GLB_THROTTLE_CFG.up_pct : Fld := ⟨GLB_THROTTLE_CFG.reg, 30, 24⟩
def GLB_THROTTLE_CFG.down_pct : Fld := ⟨GLB_THROTTLE_CFG.reg, 23, 17⟩
def GLB_THROTTLE_CFG.down_win : Fld := ⟨GLB_THROTTLE_CFG.reg, 16, 12⟩
def GLB_THROTTLE_CFG.up_backlog : Fld := ⟨GLB_THROTTLE_CFG.reg, 9, 0⟩
/-- GLB_THROTTLE_STAT (spec/13_power_cages_and_startup.md). -/
def GLB_THROTTLE_STAT.reg : Reg := ⟨0x28, 0x0⟩
def GLB_THROTTLE_STAT.div : Fld := ⟨GLB_THROTTLE_STAT.reg, 29, 20⟩
def GLB_THROTTLE_STAT.backlog_trig : Fld := ⟨GLB_THROTTLE_STAT.reg, 19, 19⟩
def GLB_THROTTLE_STAT.pct_trig : Fld := ⟨GLB_THROTTLE_STAT.reg, 18, 18⟩
def GLB_THROTTLE_STAT.up_cnt : Fld := ⟨GLB_THROTTLE_STAT.reg, 15, 0⟩
/-- GLB_DORM_CTL (spec/13_power_cages_and_startup.md). -/
def GLB_DORM_CTL.reg : Reg := ⟨0x30, 0x640000⟩
def GLB_DORM_CTL.enter : Fld := ⟨GLB_DORM_CTL.reg, 31, 31⟩
def GLB_DORM_CTL.wake : Fld := ⟨GLB_DORM_CTL.reg, 30, 30⟩
def GLB_DORM_CTL.drain_us : Fld := ⟨GLB_DORM_CTL.reg, 23, 16⟩
def GLB_DORM_CTL.timer_ms : Fld := ⟨GLB_DORM_CTL.reg, 15, 0⟩
/-- GLB_DORM_STAT (spec/13_power_cages_and_startup.md). -/
def GLB_DORM_STAT.reg : Reg := ⟨0x34, 0x0⟩
def GLB_DORM_STAT.state : Fld := ⟨GLB_DORM_STAT.reg, 31, 29⟩
def GLB_DORM_STAT.refused : Fld := ⟨GLB_DORM_STAT.reg, 28, 28⟩
def GLB_DORM_STAT.refuse_reason : Fld := ⟨GLB_DORM_STAT.reg, 27, 25⟩
def GLB_DORM_STAT.wake_late : Fld := ⟨GLB_DORM_STAT.reg, 24, 24⟩
def GLB_DORM_STAT.dorm_discard : Fld := ⟨GLB_DORM_STAT.reg, 15, 0⟩
/-- GLB_WAKE_SRC (spec/13_power_cages_and_startup.md). -/
def GLB_WAKE_SRC.reg : Reg := ⟨0x38, 0x0⟩
def GLB_WAKE_SRC.host : Fld := ⟨GLB_WAKE_SRC.reg, 31, 31⟩
def GLB_WAKE_SRC.timer : Fld := ⟨GLB_WAKE_SRC.reg, 30, 30⟩
def GLB_WAKE_SRC.button : Fld := ⟨GLB_WAKE_SRC.reg, 29, 29⟩
def GLB_WAKE_SRC.pattern : Fld := ⟨GLB_WAKE_SRC.reg, 28, 28⟩
def GLB_WAKE_SRC.cage : Fld := ⟨GLB_WAKE_SRC.reg, 27, 23⟩
def GLB_WAKE_SRC.sentinel : Fld := ⟨GLB_WAKE_SRC.reg, 22, 20⟩
def GLB_WAKE_SRC.slot : Fld := ⟨GLB_WAKE_SRC.reg, 19, 15⟩
/-- AUX_STAT (spec/13_power_cages_and_startup.md). -/
def AUX_STAT.reg : Reg := ⟨0x90000, 0x0⟩
def AUX_STAT.cage_evt : Fld := ⟨AUX_STAT.reg, 31, 0⟩
/-- AUX_SUPPLY_STAT (spec/13_power_cages_and_startup.md). -/
def AUX_SUPPLY_STAT.reg : Reg := ⟨0x90004, 0x84000000⟩
def AUX_SUPPLY_STAT.vaux_ok : Fld := ⟨AUX_SUPPLY_STAT.reg, 31, 31⟩
def AUX_SUPPLY_STAT.vdd_ok : Fld := ⟨AUX_SUPPLY_STAT.reg, 30, 30⟩
def AUX_SUPPLY_STAT.vdds_ok : Fld := ⟨AUX_SUPPLY_STAT.reg, 29, 29⟩
def AUX_SUPPLY_STAT.vdds_ret : Fld := ⟨AUX_SUPPLY_STAT.reg, 28, 28⟩
def AUX_SUPPLY_STAT.rclk_ok : Fld := ⟨AUX_SUPPLY_STAT.reg, 27, 27⟩
def AUX_SUPPLY_STAT.aux_cold : Fld := ⟨AUX_SUPPLY_STAT.reg, 26, 26⟩
def AUX_SUPPLY_STAT.vdd_lost : Fld := ⟨AUX_SUPPLY_STAT.reg, 25, 25⟩
def AUX_SUPPLY_STAT.vaux_low : Fld := ⟨AUX_SUPPLY_STAT.reg, 24, 24⟩
def AUX_SUPPLY_STAT.vdd_loss_cnt : Fld := ⟨AUX_SUPPLY_STAT.reg, 15, 0⟩
/-- AUX_WAKE_CFG (spec/13_power_cages_and_startup.md). -/
def AUX_WAKE_CFG.reg : Reg := ⟨0x90008, 0x80000000⟩
def AUX_WAKE_CFG.host_en : Fld := ⟨AUX_WAKE_CFG.reg, 31, 31⟩
def AUX_WAKE_CFG.timer_en : Fld := ⟨AUX_WAKE_CFG.reg, 30, 30⟩
def AUX_WAKE_CFG.button_en : Fld := ⟨AUX_WAKE_CFG.reg, 29, 29⟩
def AUX_WAKE_CFG.pattern_en : Fld := ⟨AUX_WAKE_CFG.reg, 28, 28⟩
def AUX_WAKE_CFG.sentinel_miss : Fld := ⟨AUX_WAKE_CFG.reg, 15, 0⟩
/-- AUX_SENTINEL_CFG (spec/13_power_cages_and_startup.md). -/
def AUX_SENTINEL_CFG.reg : Reg := ⟨0x9000C, 0x0⟩
def AUX_SENTINEL_CFG.en : Fld := ⟨AUX_SENTINEL_CFG.reg, 31, 24⟩
def AUX_SENTINEL_CFG.sel : Fld := ⟨AUX_SENTINEL_CFG.reg, 18, 16⟩
def AUX_SENTINEL_CFG.port : Fld := ⟨AUX_SENTINEL_CFG.reg, 7, 0⟩
/-- AUX_WAKE_SEL (spec/13_power_cages_and_startup.md). -/
def AUX_WAKE_SEL.reg : Reg := ⟨0x90014, 0x0⟩
def AUX_WAKE_SEL.slot : Fld := ⟨AUX_WAKE_SEL.reg, 28, 24⟩
def AUX_WAKE_SEL.half : Fld := ⟨AUX_WAKE_SEL.reg, 5, 5⟩
def AUX_WAKE_SEL.word : Fld := ⟨AUX_WAKE_SEL.reg, 4, 0⟩
/-- AUX_WAKE_DATA (spec/13_power_cages_and_startup.md). -/
def AUX_WAKE_DATA.reg : Reg := ⟨0x90018, 0x0⟩
def AUX_WAKE_DATA.data : Fld := ⟨AUX_WAKE_DATA.reg, 31, 0⟩
/-- AUX_WAKE_PAT_CTL (spec/13_power_cages_and_startup.md). -/
def AUX_WAKE_PAT_CTL.reg (i : Nat) : Reg := ⟨0x90100 + i * 4, 0x80⟩
def AUX_WAKE_PAT_CTL.en (i : Nat) : Fld := ⟨AUX_WAKE_PAT_CTL.reg i, 31, 31⟩
def AUX_WAKE_PAT_CTL.kind (i : Nat) : Fld := ⟨AUX_WAKE_PAT_CTL.reg i, 30, 30⟩
def AUX_WAKE_PAT_CTL.hit (i : Nat) : Fld := ⟨AUX_WAKE_PAT_CTL.reg i, 29, 29⟩
def AUX_WAKE_PAT_CTL.sent_mask (i : Nat) : Fld := ⟨AUX_WAKE_PAT_CTL.reg i, 15, 8⟩
def AUX_WAKE_PAT_CTL.len (i : Nat) : Fld := ⟨AUX_WAKE_PAT_CTL.reg i, 7, 0⟩
/-- AUX_CAGE_CTL (spec/13_power_cages_and_startup.md). -/
def AUX_CAGE_CTL.reg (c : Nat) : Reg := ⟨0x90200 + c * 16, 0x4006400⟩
def AUX_CAGE_CTL.pwr_en (c : Nat) : Fld := ⟨AUX_CAGE_CTL.reg c, 31, 31⟩
def AUX_CAGE_CTL.pwr_ind (c : Nat) : Fld := ⟨AUX_CAGE_CTL.reg c, 30, 29⟩
def AUX_CAGE_CTL.attn_ind (c : Nat) : Fld := ⟨AUX_CAGE_CTL.reg c, 28, 27⟩
def AUX_CAGE_CTL.attn_auto (c : Nat) : Fld := ⟨AUX_CAGE_CTL.reg c, 26, 26⟩
def AUX_CAGE_CTL.button_wake (c : Nat) : Fld := ⟨AUX_CAGE_CTL.reg c, 25, 25⟩
def AUX_CAGE_CTL.pg_ms (c : Nat) : Fld := ⟨AUX_CAGE_CTL.reg c, 15, 8⟩
def AUX_CAGE_CTL.evt_en (c : Nat) : Fld := ⟨AUX_CAGE_CTL.reg c, 3, 0⟩
/-- AUX_CAGE_STAT (spec/13_power_cages_and_startup.md). -/
def AUX_CAGE_STAT.reg (c : Nat) : Reg := ⟨0x90204 + c * 16, 0x0⟩
def AUX_CAGE_STAT.state (c : Nat) : Fld := ⟨AUX_CAGE_STAT.reg c, 31, 29⟩
def AUX_CAGE_STAT.present (c : Nat) : Fld := ⟨AUX_CAGE_STAT.reg c, 28, 28⟩
def AUX_CAGE_STAT.pg (c : Nat) : Fld := ⟨AUX_CAGE_STAT.reg c, 27, 27⟩
def AUX_CAGE_STAT.fault_in (c : Nat) : Fld := ⟨AUX_CAGE_STAT.reg c, 26, 26⟩
def AUX_CAGE_STAT.pwr_out (c : Nat) : Fld := ⟨AUX_CAGE_STAT.reg c, 25, 25⟩
def AUX_CAGE_STAT.fault_cause (c : Nat) : Fld := ⟨AUX_CAGE_STAT.reg c, 24, 23⟩
def AUX_CAGE_STAT.link_up (c : Nat) : Fld := ⟨AUX_CAGE_STAT.reg c, 7, 0⟩
/-- AUX_CAGE_EVT (spec/13_power_cages_and_startup.md). -/
def AUX_CAGE_EVT.reg (c : Nat) : Reg := ⟨0x90208 + c * 16, 0x0⟩
def AUX_CAGE_EVT.button (c : Nat) : Fld := ⟨AUX_CAGE_EVT.reg c, 3, 3⟩
def AUX_CAGE_EVT.fault (c : Nat) : Fld := ⟨AUX_CAGE_EVT.reg c, 2, 2⟩
def AUX_CAGE_EVT.on_reached (c : Nat) : Fld := ⟨AUX_CAGE_EVT.reg c, 1, 1⟩
def AUX_CAGE_EVT.pres_chg (c : Nat) : Fld := ⟨AUX_CAGE_EVT.reg c, 0, 0⟩
/-- GLB_PRESS_MAP (spec/14_faults_racking_and_management.md). -/
def GLB_PRESS_MAP.reg : Reg := ⟨0x18, 0x4688⟩
def GLB_PRESS_MAP.reserve : Fld := ⟨GLB_PRESS_MAP.reg, 14, 12⟩
def GLB_PRESS_MAP.group3 : Fld := ⟨GLB_PRESS_MAP.reg, 11, 9⟩
def GLB_PRESS_MAP.group2 : Fld := ⟨GLB_PRESS_MAP.reg, 8, 6⟩
def GLB_PRESS_MAP.group1 : Fld := ⟨GLB_PRESS_MAP.reg, 5, 3⟩
def GLB_PRESS_MAP.group0 : Fld := ⟨GLB_PRESS_MAP.reg, 2, 0⟩
/-- GLB_ERR_CTL (spec/14_faults_racking_and_management.md). -/
def GLB_ERR_CTL.reg : Reg := ⟨0x40, 0x0⟩
def GLB_ERR_CTL.log_corr : Fld := ⟨GLB_ERR_CTL.reg, 31, 31⟩
def GLB_ERR_CTL.corr_cnt : Fld := ⟨GLB_ERR_CTL.reg, 15, 0⟩
/-- GLB_ERR_STAT (spec/14_faults_racking_and_management.md). -/
def GLB_ERR_STAT.reg : Reg := ⟨0x44, 0x0⟩
def GLB_ERR_STAT.first_valid : Fld := ⟨GLB_ERR_STAT.reg, 31, 31⟩
def GLB_ERR_STAT.first_slot : Fld := ⟨GLB_ERR_STAT.reg, 30, 25⟩
def GLB_ERR_STAT.head : Fld := ⟨GLB_ERR_STAT.reg, 24, 19⟩
def GLB_ERR_STAT.count : Fld := ⟨GLB_ERR_STAT.reg, 18, 12⟩
def GLB_ERR_STAT.ovf_cnt : Fld := ⟨GLB_ERR_STAT.reg, 11, 0⟩
/-- GLB_ERR_POP (spec/14_faults_racking_and_management.md). -/
def GLB_ERR_POP.reg : Reg := ⟨0x48, 0x0⟩
def GLB_ERR_POP.n : Fld := ⟨GLB_ERR_POP.reg, 6, 0⟩
/-- GLB_ESCALATE_CFG (spec/14_faults_racking_and_management.md). -/
def GLB_ESCALATE_CFG.reg : Reg := ⟨0x4C, 0xE0000258⟩
def GLB_ESCALATE_CFG.reset_en : Fld := ⟨GLB_ESCALATE_CFG.reg, 31, 31⟩
def GLB_ESCALATE_CFG.rack_on_fault : Fld := ⟨GLB_ESCALATE_CFG.reg, 30, 30⟩
def GLB_ESCALATE_CFG.cm_restart : Fld := ⟨GLB_ESCALATE_CFG.reg, 29, 29⟩
def GLB_ESCALATE_CFG.hold_s : Fld := ⟨GLB_ESCALATE_CFG.reg, 15, 0⟩
/-- GLB_ERR_REC (spec/14_faults_racking_and_management.md). -/
def GLB_ERR_REC.reg (i w : Nat) : Reg := ⟨0x100 + i * 16 + w * 4, 0x0⟩
/-- GLB_RACK_CTL (spec/14_faults_racking_and_management.md). -/
def GLB_RACK_CTL.reg : Reg := ⟨0x60, 0xC8⟩
def GLB_RACK_CTL.prep_limit_ms : Fld := ⟨GLB_RACK_CTL.reg, 9, 0⟩
/-- GLB_RACK_STAT (spec/14_faults_racking_and_management.md). -/
def GLB_RACK_STAT.reg : Reg := ⟨0x64, 0x4000000⟩
def GLB_RACK_STAT.state : Fld := ⟨GLB_RACK_STAT.reg, 31, 30⟩
def GLB_RACK_STAT.source : Fld := ⟨GLB_RACK_STAT.reg, 29, 27⟩
def GLB_RACK_STAT.target : Fld := ⟨GLB_RACK_STAT.reg, 26, 24⟩
def GLB_RACK_STAT.cause : Fld := ⟨GLB_RACK_STAT.reg, 23, 22⟩
def GLB_RACK_STAT.last_result : Fld := ⟨GLB_RACK_STAT.reg, 21, 20⟩
def GLB_RACK_STAT.abort_reason : Fld := ⟨GLB_RACK_STAT.reg, 19, 17⟩
def GLB_RACK_STAT.isolated : Fld := ⟨GLB_RACK_STAT.reg, 16, 12⟩
def GLB_RACK_STAT.last_cutover : Fld := ⟨GLB_RACK_STAT.reg, 9, 0⟩
/-- GLB_SLOW_CFG (spec/14_faults_racking_and_management.md). -/
def GLB_SLOW_CFG.reg : Reg := ⟨0x68, 0x99000064⟩
def GLB_SLOW_CFG.en : Fld := ⟨GLB_SLOW_CFG.reg, 31, 31⟩
def GLB_SLOW_CFG.auto_rack : Fld := ⟨GLB_SLOW_CFG.reg, 30, 30⟩
def GLB_SLOW_CFG.slow_pct : Fld := ⟨GLB_SLOW_CFG.reg, 29, 23⟩
def GLB_SLOW_CFG.slow_win : Fld := ⟨GLB_SLOW_CFG.reg, 15, 0⟩
/-- GLB_SLOW_STAT (spec/14_faults_racking_and_management.md). -/
def GLB_SLOW_STAT.reg : Reg := ⟨0x6C, 0x0⟩
def GLB_SLOW_STAT.slow_cnt : Fld := ⟨GLB_SLOW_STAT.reg, 31, 16⟩
def GLB_SLOW_STAT.slow_seen : Fld := ⟨GLB_SLOW_STAT.reg, 12, 8⟩
def GLB_SLOW_STAT.slow : Fld := ⟨GLB_SLOW_STAT.reg, 4, 0⟩
/-- MGT_CORE_CTL (spec/14_faults_racking_and_management.md). -/
def MGT_CORE_CTL.reg : Reg := ⟨0x10000, 0x70000000⟩
def MGT_CORE_CTL.halt : Fld := ⟨MGT_CORE_CTL.reg, 31, 31⟩
def MGT_CORE_CTL.failover : Fld := ⟨MGT_CORE_CTL.reg, 30, 30⟩
def MGT_CORE_CTL.sync_cm : Fld := ⟨MGT_CORE_CTL.reg, 29, 29⟩
def MGT_CORE_CTL.rack_copy_cm : Fld := ⟨MGT_CORE_CTL.reg, 28, 28⟩
/-- MGT_CORE_STAT (spec/14_faults_racking_and_management.md). -/
def MGT_CORE_STAT.reg : Reg := ⟨0x10004, 0x0⟩
def MGT_CORE_STAT.state : Fld := ⟨MGT_CORE_STAT.reg, 31, 29⟩
def MGT_CORE_STAT.act_fail : Fld := ⟨MGT_CORE_STAT.reg, 28, 28⟩
def MGT_CORE_STAT.wdog_fired : Fld := ⟨MGT_CORE_STAT.reg, 27, 27⟩
def MGT_CORE_STAT.version : Fld := ⟨MGT_CORE_STAT.reg, 23, 16⟩
def MGT_CORE_STAT.restart_cnt : Fld := ⟨MGT_CORE_STAT.reg, 15, 0⟩
/-- MGT_LOAD_ADDR_LO (spec/14_faults_racking_and_management.md). -/
def MGT_LOAD_ADDR_LO.reg : Reg := ⟨0x10008, 0x0⟩
def MGT_LOAD_ADDR_LO.addr_lo : Fld := ⟨MGT_LOAD_ADDR_LO.reg, 31, 6⟩
/-- MGT_LOAD_ADDR_HI (spec/14_faults_racking_and_management.md). -/
def MGT_LOAD_ADDR_HI.reg : Reg := ⟨0x1000C, 0x0⟩
def MGT_LOAD_ADDR_HI.addr_hi : Fld := ⟨MGT_LOAD_ADDR_HI.reg, 31, 0⟩
/-- MGT_LOAD_LEN (spec/14_faults_racking_and_management.md). -/
def MGT_LOAD_LEN.reg : Reg := ⟨0x10010, 0x0⟩
def MGT_LOAD_LEN.len : Fld := ⟨MGT_LOAD_LEN.reg, 19, 0⟩
/-- MGT_LOAD_CTL (spec/14_faults_racking_and_management.md). -/
def MGT_LOAD_CTL.reg : Reg := ⟨0x10014, 0x0⟩
def MGT_LOAD_CTL.restart : Fld := ⟨MGT_LOAD_CTL.reg, 31, 31⟩
def MGT_LOAD_CTL.busy : Fld := ⟨MGT_LOAD_CTL.reg, 30, 30⟩
/-- MGT_WDOG_CFG (spec/14_faults_racking_and_management.md). -/
def MGT_WDOG_CFG.reg : Reg := ⟨0x10018, 0x80000064⟩
def MGT_WDOG_CFG.en : Fld := ⟨MGT_WDOG_CFG.reg, 31, 31⟩
def MGT_WDOG_CFG.period_ms : Fld := ⟨MGT_WDOG_CFG.reg, 15, 0⟩
/-- MGT_LOAD_IND (spec/14_faults_racking_and_management.md). -/
def MGT_LOAD_IND.reg : Reg := ⟨0x1001C, 0x0⟩
def MGT_LOAD_IND.overload : Fld := ⟨MGT_LOAD_IND.reg, 31, 31⟩
def MGT_LOAD_IND.busy_pct : Fld := ⟨MGT_LOAD_IND.reg, 30, 24⟩
def MGT_LOAD_IND.cmd_depth : Fld := ⟨MGT_LOAD_IND.reg, 19, 13⟩
def MGT_LOAD_IND.sp_depth : Fld := ⟨MGT_LOAD_IND.reg, 12, 0⟩
/-- MGT_MBOX_CMD (spec/14_faults_racking_and_management.md). -/
def MGT_MBOX_CMD.reg : Reg := ⟨0x10020, 0x0⟩
def MGT_MBOX_CMD.op : Fld := ⟨MGT_MBOX_CMD.reg, 31, 30⟩
def MGT_MBOX_CMD.part : Fld := ⟨MGT_MBOX_CMD.reg, 29, 27⟩
def MGT_MBOX_CMD.len : Fld := ⟨MGT_MBOX_CMD.reg, 7, 0⟩
/-- MGT_MBOX_ARG (spec/14_faults_racking_and_management.md). -/
def MGT_MBOX_ARG.reg (i : Nat) : Reg := ⟨0x10024 + i * 4, 0x0⟩
def MGT_MBOX_ARG.data (i : Nat) : Fld := ⟨MGT_MBOX_ARG.reg i, 31, 0⟩
/-- MGT_MBOX_RSP (spec/14_faults_racking_and_management.md). -/
def MGT_MBOX_RSP.reg : Reg := ⟨0x10034, 0x0⟩
def MGT_MBOX_RSP.type_ : Fld := ⟨MGT_MBOX_RSP.reg, 31, 24⟩
def MGT_MBOX_RSP.len : Fld := ⟨MGT_MBOX_RSP.reg, 7, 0⟩
/-- MGT_MBOX_STAT (spec/14_faults_racking_and_management.md). -/
def MGT_MBOX_STAT.reg : Reg := ⟨0x10038, 0x0⟩
def MGT_MBOX_STAT.busy : Fld := ⟨MGT_MBOX_STAT.reg, 31, 31⟩
def MGT_MBOX_STAT.rsp_ready : Fld := ⟨MGT_MBOX_STAT.reg, 30, 30⟩
def MGT_MBOX_STAT.overrun : Fld := ⟨MGT_MBOX_STAT.reg, 29, 29⟩
/-- MGT_SESSION_STAT (spec/14_faults_racking_and_management.md). -/
def MGT_SESSION_STAT.reg : Reg := ⟨0x10040, 0x0⟩
/-- MGT_KEY_SLOT_STAT (spec/14_faults_racking_and_management.md). -/
def MGT_KEY_SLOT_STAT.reg : Reg := ⟨0x10044, 0x80000000⟩
def MGT_KEY_SLOT_STAT.port_open : Fld := ⟨MGT_KEY_SLOT_STAT.reg, 31, 31⟩
def MGT_KEY_SLOT_STAT.lockout : Fld := ⟨MGT_KEY_SLOT_STAT.reg, 23, 16⟩
def MGT_KEY_SLOT_STAT.slot_state : Fld := ⟨MGT_KEY_SLOT_STAT.reg, 15, 0⟩
/-- MGT_INBAND_CFG (spec/14_faults_racking_and_management.md). -/
def MGT_INBAND_CFG.reg : Reg := ⟨0x10048, 0x0⟩
def MGT_INBAND_CFG.row_en : Fld := ⟨MGT_INBAND_CFG.reg, 31, 0⟩
/-- PMU_CTL (spec/15_performance_monitoring.md). -/
def PMU_CTL.reg : Reg := ⟨0x40000, 0x80000000⟩
def PMU_CTL.en : Fld := ⟨PMU_CTL.reg, 31, 31⟩
def PMU_CTL.snap : Fld := ⟨PMU_CTL.reg, 30, 30⟩
def PMU_CTL.snap_int_ms : Fld := ⟨PMU_CTL.reg, 15, 0⟩
/-- PMU_STAT (spec/15_performance_monitoring.md). -/
def PMU_STAT.reg : Reg := ⟨0x40004, 0x0⟩
def PMU_STAT.snap_busy : Fld := ⟨PMU_STAT.reg, 31, 31⟩
def PMU_STAT.snap_fault : Fld := ⟨PMU_STAT.reg, 30, 30⟩
def PMU_STAT.snap_skip : Fld := ⟨PMU_STAT.reg, 15, 0⟩
/-- PMU_SNAP_BASE_LO (spec/15_performance_monitoring.md). -/
def PMU_SNAP_BASE_LO.reg : Reg := ⟨0x40008, 0x0⟩
def PMU_SNAP_BASE_LO.base_lo : Fld := ⟨PMU_SNAP_BASE_LO.reg, 31, 6⟩
/-- PMU_SNAP_BASE_HI (spec/15_performance_monitoring.md). -/
def PMU_SNAP_BASE_HI.reg : Reg := ⟨0x4000C, 0x0⟩
def PMU_SNAP_BASE_HI.base_hi : Fld := ⟨PMU_SNAP_BASE_HI.reg, 31, 0⟩
/-- PMU_SAMPLE_BASE_LO (spec/15_performance_monitoring.md). -/
def PMU_SAMPLE_BASE_LO.reg : Reg := ⟨0x40010, 0x0⟩
def PMU_SAMPLE_BASE_LO.base_lo : Fld := ⟨PMU_SAMPLE_BASE_LO.reg, 31, 6⟩
/-- PMU_SAMPLE_BASE_HI (spec/15_performance_monitoring.md). -/
def PMU_SAMPLE_BASE_HI.reg : Reg := ⟨0x40014, 0x0⟩
def PMU_SAMPLE_BASE_HI.base_hi : Fld := ⟨PMU_SAMPLE_BASE_HI.reg, 31, 0⟩
/-- PMU_SAMPLE_CFG (spec/15_performance_monitoring.md). -/
def PMU_SAMPLE_CFG.reg : Reg := ⟨0x40018, 0xA⟩
def PMU_SAMPLE_CFG.en : Fld := ⟨PMU_SAMPLE_CFG.reg, 31, 31⟩
def PMU_SAMPLE_CFG.size_log2 : Fld := ⟨PMU_SAMPLE_CFG.reg, 4, 0⟩
/-- PMU_SAMPLE_STAT (spec/15_performance_monitoring.md). -/
def PMU_SAMPLE_STAT.reg : Reg := ⟨0x4001C, 0x0⟩
def PMU_SAMPLE_STAT.ring_full : Fld := ⟨PMU_SAMPLE_STAT.reg, 31, 31⟩
def PMU_SAMPLE_STAT.sample_fault : Fld := ⟨PMU_SAMPLE_STAT.reg, 30, 30⟩
def PMU_SAMPLE_STAT.inflight : Fld := ⟨PMU_SAMPLE_STAT.reg, 22, 16⟩
def PMU_SAMPLE_STAT.lost : Fld := ⟨PMU_SAMPLE_STAT.reg, 15, 0⟩
/-- PMU_SEL (spec/15_performance_monitoring.md). -/
def PMU_SEL.reg : Reg := ⟨0x40020, 0x0⟩
def PMU_SEL.counter : Fld := ⟨PMU_SEL.reg, 9, 0⟩
/-- PMU_EVT_CFG (spec/15_performance_monitoring.md). -/
def PMU_EVT_CFG.reg : Reg := ⟨0x40024, 0xFFFF00⟩
def PMU_EVT_CFG.en : Fld := ⟨PMU_EVT_CFG.reg, 31, 31⟩
def PMU_EVT_CFG.ovf_int : Fld := ⟨PMU_EVT_CFG.reg, 30, 30⟩
def PMU_EVT_CFG.sample_en : Fld := ⟨PMU_EVT_CFG.reg, 29, 29⟩
def PMU_EVT_CFG.tc_mask : Fld := ⟨PMU_EVT_CFG.reg, 23, 16⟩
def PMU_EVT_CFG.unit_sel : Fld := ⟨PMU_EVT_CFG.reg, 15, 8⟩
def PMU_EVT_CFG.event : Fld := ⟨PMU_EVT_CFG.reg, 7, 0⟩
/-- PMU_FILT_A (spec/15_performance_monitoring.md). -/
def PMU_FILT_A.reg : Reg := ⟨0x40028, 0xF0FFF000⟩
def PMU_FILT_A.priv_mask : Fld := ⟨PMU_FILT_A.reg, 31, 28⟩
def PMU_FILT_A.func_en : Fld := ⟨PMU_FILT_A.reg, 24, 24⟩
def PMU_FILT_A.func_hi : Fld := ⟨PMU_FILT_A.reg, 23, 12⟩
def PMU_FILT_A.func_lo : Fld := ⟨PMU_FILT_A.reg, 11, 0⟩
/-- PMU_FILT_B (spec/15_performance_monitoring.md). -/
def PMU_FILT_B.reg : Reg := ⟨0x4002C, 0x0⟩
def PMU_FILT_B.addr_mode : Fld := ⟨PMU_FILT_B.reg, 31, 30⟩
def PMU_FILT_B.range : Fld := ⟨PMU_FILT_B.reg, 29, 0⟩
/-- PMU_PRELOAD_LO (spec/15_performance_monitoring.md). -/
def PMU_PRELOAD_LO.reg : Reg := ⟨0x40030, 0x0⟩
def PMU_PRELOAD_LO.pre_lo : Fld := ⟨PMU_PRELOAD_LO.reg, 31, 0⟩
/-- PMU_PRELOAD_HI (spec/15_performance_monitoring.md). -/
def PMU_PRELOAD_HI.reg : Reg := ⟨0x40034, 0x0⟩
def PMU_PRELOAD_HI.pre_hi : Fld := ⟨PMU_PRELOAD_HI.reg, 15, 0⟩
/-- PMU_VAL_LO (spec/15_performance_monitoring.md). -/
def PMU_VAL_LO.reg : Reg := ⟨0x40038, 0x0⟩
def PMU_VAL_LO.val_lo : Fld := ⟨PMU_VAL_LO.reg, 31, 0⟩
/-- PMU_VAL_HI (spec/15_performance_monitoring.md). -/
def PMU_VAL_HI.reg : Reg := ⟨0x4003C, 0x0⟩
def PMU_VAL_HI.val_hi : Fld := ⟨PMU_VAL_HI.reg, 15, 0⟩
/-- PMU_OVF (spec/15_performance_monitoring.md). -/
def PMU_OVF.reg (i : Nat) : Reg := ⟨0x40100 + i * 4, 0x0⟩
def PMU_OVF.ovf (i : Nat) : Fld := ⟨PMU_OVF.reg i, 31, 0⟩

end Sys2Proof.Machine
end

