-- ==== Sys2Proof/Machine/Operands.lean ====
section
/-!
DEFINITION. The register map as the register port decodes it: for each register its instances, which of its bits
are RW, W1C, W1S and RC (R11), and what resets it (R471). Bits in none of the masks are RO, WO or RES0.
-/

namespace Sys2Proof.Machine

/-- Reset domains of R471. -/
inductive Dom where
  | p | s | v | a | ps | pv
  deriving DecidableEq, Repr

/-- One register of the index tables: instance 0, the instances and their stride, the bits of each type, and the
reset domain. -/
structure RegSpec where
  first : Reg
  n : Nat
  stride : Nat
  rw : Word
  w1c : Word
  w1s : Word
  rc : Word
  dom : Dom

/-- The GLB registers (R470, spec/16_register_index.md). -/
def glbRegs : List RegSpec := [
  ⟨GLB_IDENT.reg, 1, 4, 0x0, 0x0, 0x0, 0x0, .p⟩,
  ⟨GLB_ISSUE.reg, 1, 4, 0x0, 0x0, 0x0, 0x0, .p⟩,
  ⟨GLB_CAPS.reg, 1, 4, 0x0, 0x0, 0x0, 0x0, .p⟩,
  ⟨GLB_SCRATCH.reg, 1, 4, 0xFFFFFFFF, 0x0, 0x0, 0x0, .s⟩,
  ⟨GLB_STATUS.reg, 1, 4, 0x0, 0x18000000, 0x0, 0x0, .ps⟩,
  ⟨GLB_RESET_CTL.reg, 1, 4, 0x0, 0x0, 0x0, 0x0, .p⟩,
  ⟨GLB_PRESS_MAP.reg, 1, 4, 0x0, 0x0, 0x0, 0x0, .s⟩,
  ⟨GLB_ROW_EN.reg, 1, 4, 0xFFFFFFFF, 0x0, 0x0, 0x0, .p⟩,
  ⟨GLB_CLK_CTL.reg, 1, 4, 0x3FF, 0x0, 0x0, 0x0, .p⟩,
  ⟨GLB_THROTTLE_CFG.reg, 1, 4, 0xFFFFF3FF, 0x0, 0x0, 0x0, .p⟩,
  ⟨GLB_THROTTLE_STAT.reg, 1, 4, 0x0, 0xC0000, 0x0, 0xFFFF, .p⟩,
  ⟨GLB_DORM_CTL.reg, 1, 4, 0xFFFFFF, 0x0, 0x0, 0x0, .p⟩,
  ⟨GLB_DORM_STAT.reg, 1, 4, 0x0, 0x11000000, 0x0, 0xFFFF, .p⟩,
  ⟨GLB_WAKE_SRC.reg, 1, 4, 0x0, 0xF0000000, 0x0, 0x0, .p⟩,
  ⟨GLB_ERR_CTL.reg, 1, 4, 0x80000000, 0x0, 0x0, 0xFFFF, .p⟩,
  ⟨GLB_ERR_STAT.reg, 1, 4, 0x0, 0x80000000, 0x0, 0xFFF, .p⟩,
  ⟨GLB_ERR_POP.reg, 1, 4, 0x0, 0x0, 0x0, 0x0, .p⟩,
  ⟨GLB_ESCALATE_CFG.reg, 1, 4, 0xE000FFFF, 0x0, 0x0, 0x0, .p⟩,
  ⟨GLB_RACK_CTL.reg, 1, 4, 0x3FF, 0x0, 0x0, 0x0, .p⟩,
  ⟨GLB_RACK_STAT.reg, 1, 4, 0x0, 0x0, 0x0, 0x0, .pv⟩,
  ⟨GLB_SLOW_CFG.reg, 1, 4, 0xFF80FFFF, 0x0, 0x0, 0x0, .p⟩,
  ⟨GLB_SLOW_STAT.reg, 1, 4, 0x0, 0x1F00, 0x0, 0xFFFF0000, .p⟩,
  ⟨GLB_ERR_REC.reg 0 0, 256, 4, 0x0, 0x0, 0x0, 0x0, .p⟩]

/-- The MGT registers (R470, spec/16_register_index.md). -/
def mgtRegs : List RegSpec := [
  ⟨MGT_CORE_CTL.reg, 1, 4, 0x70000000, 0x0, 0x0, 0x0, .p⟩,
  ⟨MGT_CORE_STAT.reg, 1, 4, 0x0, 0x18000000, 0x0, 0x0, .v⟩,
  ⟨MGT_LOAD_ADDR_LO.reg, 1, 4, 0xFFFFFFC0, 0x0, 0x0, 0x0, .p⟩,
  ⟨MGT_LOAD_ADDR_HI.reg, 1, 4, 0xFFFFFFFF, 0x0, 0x0, 0x0, .p⟩,
  ⟨MGT_LOAD_LEN.reg, 1, 4, 0xFFFFF, 0x0, 0x0, 0x0, .p⟩,
  ⟨MGT_LOAD_CTL.reg, 1, 4, 0x0, 0x0, 0x0, 0x0, .p⟩,
  ⟨MGT_WDOG_CFG.reg, 1, 4, 0x8000FFFF, 0x0, 0x0, 0x0, .p⟩,
  ⟨MGT_LOAD_IND.reg, 1, 4, 0x0, 0x0, 0x0, 0x0, .p⟩,
  ⟨MGT_MBOX_CMD.reg, 1, 4, 0x380000FF, 0x0, 0x0, 0x0, .p⟩,
  ⟨MGT_MBOX_ARG.reg 0, 4, 4, 0xFFFFFFFF, 0x0, 0x0, 0x0, .p⟩,
  ⟨MGT_MBOX_RSP.reg, 1, 4, 0x0, 0x0, 0x0, 0x0, .p⟩,
  ⟨MGT_MBOX_STAT.reg, 1, 4, 0x0, 0x20000000, 0x0, 0x0, .p⟩,
  ⟨MGT_SESSION_STAT.reg, 1, 4, 0x0, 0x0, 0x0, 0x0, .p⟩,
  ⟨MGT_KEY_SLOT_STAT.reg, 1, 4, 0x0, 0x0, 0x0, 0x0, .a⟩,
  ⟨MGT_INBAND_CFG.reg, 1, 4, 0xFFFFFFFF, 0x0, 0x0, 0x0, .p⟩]

/-- The FAB registers (R470, spec/16_register_index.md). -/
def fabRegs : List RegSpec := [
  ⟨FAB_CTL.reg, 1, 4, 0xCFFFFFFF, 0x0, 0x0, 0x0, .p⟩,
  ⟨FAB_STAT.reg, 1, 4, 0x0, 0x4000, 0x0, 0x0, .p⟩,
  ⟨FAB_CTX_BASE_LO.reg, 1, 4, 0xFFFFF000, 0x0, 0x0, 0x0, .p⟩,
  ⟨FAB_CTX_BASE_HI.reg, 1, 4, 0xFFFFFFFF, 0x0, 0x0, 0x0, .p⟩,
  ⟨FAB_CCTX_BASE_LO.reg, 1, 4, 0xFFFFF000, 0x0, 0x0, 0x0, .p⟩,
  ⟨FAB_CCTX_BASE_HI.reg, 1, 4, 0xFFFFFFFF, 0x0, 0x0, 0x0, .p⟩,
  ⟨FAB_CTX_INVAL.reg, 1, 4, 0x31FFF, 0x0, 0x0, 0x0, .p⟩,
  ⟨FAB_CTX_CACHE_STAT.reg, 1, 4, 0x0, 0x0, 0x0, 0xFFFF, .p⟩,
  ⟨FAB_DB_CFG.reg, 1, 4, 0x3, 0x0, 0x0, 0xFFFF0000, .p⟩,
  ⟨FAB_TIMEOUT_CFG.reg, 1, 4, 0x3FFFF, 0x0, 0x0, 0x0, .p⟩,
  ⟨FAB_QUIESCE_CFG.reg, 1, 4, 0x7F, 0x0, 0x0, 0x0, .p⟩,
  ⟨FAB_HOST_LINK.reg, 1, 4, 0x0, 0x60000000, 0x0, 0xFFFF, .p⟩,
  ⟨FAB_CHN_SEL.reg, 1, 4, 0x1FFF, 0x0, 0x0, 0x0, .p⟩,
  ⟨FAB_CHN_CTL.reg, 1, 4, 0x0, 0x0, 0x0, 0x0, .p⟩,
  ⟨FAB_CHN_STAT.reg, 1, 4, 0x0, 0x20, 0x0, 0x0, .p⟩,
  ⟨FAB_CHN_FENCE_INFO.reg, 1, 4, 0x0, 0x0, 0x0, 0x0, .p⟩,
  ⟨FAB_FUNC_SEL.reg, 1, 4, 0xFFF, 0x0, 0x0, 0x0, .p⟩,
  ⟨FAB_FUNC_STAT.reg, 1, 4, 0x0, 0x400000, 0x0, 0x3FC000, .p⟩,
  ⟨FAB_FUNC_CTL.reg, 1, 4, 0x80000000, 0x0, 0x0, 0x0, .p⟩,
  ⟨FAB_PORT_CFG.reg 0, 16, 4, 0x800007FF, 0x0, 0x0, 0x0, .p⟩,
  ⟨FAB_PORT_STAT.reg 0, 16, 4, 0x0, 0x20000000, 0x0, 0x0, .p⟩,
  ⟨FAB_LATE_CNT.reg 0, 16, 4, 0x0, 0x0, 0x0, 0xFFFFFFFF, .p⟩]

/-- The EVT registers (R470, spec/16_register_index.md). -/
def evtRegs : List RegSpec := [
  ⟨EVT_CTL.reg, 1, 4, 0x8000FFFF, 0x0, 0x0, 0x0, .p⟩,
  ⟨EVT_STAT.reg, 1, 4, 0x0, 0xFF0000, 0x0, 0xFFFF, .p⟩,
  ⟨EVT_BLOCK_VEC.reg, 1, 4, 0xFF7FFFFF, 0x0, 0x0, 0x0, .p⟩,
  ⟨EVT_INTX_CFG.reg, 1, 4, 0xFFF, 0x0, 0x0, 0x0, .p⟩,
  ⟨EVT_FORCE.reg, 1, 4, 0x7FFFFF, 0x0, 0x0, 0x0, .p⟩]

/-- The PMU registers (R470, spec/16_register_index.md). -/
def pmuRegs : List RegSpec := [
  ⟨PMU_CTL.reg, 1, 4, 0x8000FFFF, 0x0, 0x0, 0x0, .p⟩,
  ⟨PMU_STAT.reg, 1, 4, 0x0, 0x40000000, 0x0, 0xFFFF, .p⟩,
  ⟨PMU_SNAP_BASE_LO.reg, 1, 4, 0xFFFFFFC0, 0x0, 0x0, 0x0, .p⟩,
  ⟨PMU_SNAP_BASE_HI.reg, 1, 4, 0xFFFFFFFF, 0x0, 0x0, 0x0, .p⟩,
  ⟨PMU_SAMPLE_BASE_LO.reg, 1, 4, 0xFFFFFFC0, 0x0, 0x0, 0x0, .p⟩,
  ⟨PMU_SAMPLE_BASE_HI.reg, 1, 4, 0xFFFFFFFF, 0x0, 0x0, 0x0, .p⟩,
  ⟨PMU_SAMPLE_CFG.reg, 1, 4, 0x8000001F, 0x0, 0x0, 0x0, .p⟩,
  ⟨PMU_SAMPLE_STAT.reg, 1, 4, 0x0, 0x40000000, 0x0, 0xFFFF, .p⟩,
  ⟨PMU_SEL.reg, 1, 4, 0x3FF, 0x0, 0x0, 0x0, .p⟩,
  ⟨PMU_EVT_CFG.reg, 1, 4, 0xE0FFFFFF, 0x0, 0x0, 0x0, .p⟩,
  ⟨PMU_FILT_A.reg, 1, 4, 0xF1FFFFFF, 0x0, 0x0, 0x0, .p⟩,
  ⟨PMU_FILT_B.reg, 1, 4, 0xFFFFFFFF, 0x0, 0x0, 0x0, .p⟩,
  ⟨PMU_PRELOAD_LO.reg, 1, 4, 0xFFFFFFFF, 0x0, 0x0, 0x0, .p⟩,
  ⟨PMU_PRELOAD_HI.reg, 1, 4, 0xFFFF, 0x0, 0x0, 0x0, .p⟩,
  ⟨PMU_VAL_LO.reg, 1, 4, 0xFFFFFFFF, 0x0, 0x0, 0x0, .p⟩,
  ⟨PMU_VAL_HI.reg, 1, 4, 0xFFFF, 0x0, 0x0, 0x0, .p⟩,
  ⟨PMU_OVF.reg 0, 23, 4, 0x0, 0xFFFFFFFF, 0x0, 0x0, .p⟩]

/-- The TIM registers (R470, spec/16_register_index.md). -/
def timRegs : List RegSpec := [
  ⟨TIM_CTL.reg, 1, 4, 0x0, 0x0, 0x0, 0x0, .p⟩,
  ⟨TIM_SEC_HI.reg, 1, 4, 0xFFFF, 0x0, 0x0, 0x0, .v⟩,
  ⟨TIM_SEC_LO.reg, 1, 4, 0xFFFFFFFF, 0x0, 0x0, 0x0, .v⟩,
  ⟨TIM_NS.reg, 1, 4, 0x3FFFFFFF, 0x0, 0x0, 0x0, .v⟩,
  ⟨TIM_FRAC.reg, 1, 4, 0xFFFFFFF0, 0x0, 0x0, 0x0, .v⟩,
  ⟨TIM_INCR.reg, 1, 4, 0xFFFFFFFF, 0x0, 0x0, 0x0, .p⟩,
  ⟨TIM_STEP_SEC.reg, 1, 4, 0xFFFFFFFF, 0x0, 0x0, 0x0, .p⟩,
  ⟨TIM_STEP_NS.reg, 1, 4, 0x3FFFFFFF, 0x0, 0x0, 0x0, .p⟩,
  ⟨TIM_ADJ_CTL.reg, 1, 4, 0x40000000, 0x0, 0x0, 0x0, .p⟩,
  ⟨TIM_PPS_CFG.reg, 1, 4, 0xF800FFFF, 0x0, 0x0, 0x0, .p⟩,
  ⟨TIM_CAP_SEC.reg, 1, 4, 0x0, 0x0, 0x0, 0x0, .p⟩,
  ⟨TIM_CAP_NS.reg, 1, 4, 0x0, 0x0, 0x0, 0x0, .p⟩,
  ⟨TIM_TRIG_SEC.reg, 1, 4, 0xFFFFFFFF, 0x0, 0x0, 0x0, .p⟩,
  ⟨TIM_TRIG_NS.reg, 1, 4, 0x3FFFFFFF, 0x0, 0x80000000, 0x0, .p⟩,
  ⟨TIM_STAT.reg, 1, 4, 0x0, 0x58000000, 0x0, 0x0, .p⟩]

/-- The CVU registers (R470, spec/16_register_index.md). -/
def cvuRegs : List RegSpec := [
  ⟨CVU_CTL.reg, 1, 4, 0x80000000, 0x0, 0x0, 0x0, .p⟩,
  ⟨CVU_STAT.reg, 1, 4, 0x0, 0x40000000, 0x0, 0xFFFF, .p⟩,
  ⟨CVU_CAPS.reg, 1, 4, 0x0, 0x0, 0x0, 0x0, .p⟩,
  ⟨CVU_TEST_CTL.reg, 1, 4, 0x30000007, 0x0, 0x0, 0x0, .p⟩,
  ⟨CVU_TEST_TAG_LO.reg, 1, 4, 0xFFFFFFFF, 0x0, 0x0, 0x0, .p⟩,
  ⟨CVU_TEST_TAG_HI.reg, 1, 4, 0xFFFFFFFF, 0x0, 0x0, 0x0, .p⟩,
  ⟨CVU_TEST_DATA.reg, 1, 4, 0x0, 0x0, 0x0, 0x0, .p⟩,
  ⟨CVU_TEST_RES_LO.reg, 1, 4, 0x0, 0x0, 0x0, 0x0, .p⟩,
  ⟨CVU_TEST_RES_HI.reg, 1, 4, 0x0, 0x0, 0x0, 0x0, .p⟩]

/-- The CEL registers (R470, spec/16_register_index.md). -/
def celRegs : List RegSpec := [
  ⟨CEL_CFG.reg, 1, 4, 0x1FFF1FFF, 0x0, 0x0, 0x0, .p⟩,
  ⟨CEL_STAT.reg, 1, 4, 0x0, 0x0, 0x0, 0x0, .p⟩,
  ⟨CEL_SHARED_CFG.reg, 1, 4, 0x1FFF1FFF, 0x0, 0x0, 0x0, .p⟩,
  ⟨CEL_WAIT_LIMIT.reg, 1, 4, 0x3FFF, 0x0, 0x0, 0x0, .p⟩,
  ⟨CEL_BANK_STAT.reg, 1, 4, 0x0, 0xC0000000, 0x0, 0xFFFF, .p⟩,
  ⟨CEL_SPARE_CTL.reg, 1, 4, 0x800000FF, 0x0, 0x0, 0x0, .pv⟩,
  ⟨CEL_HEADROOM_STAT.reg, 1, 4, 0x0, 0x0, 0x0, 0xFFF80000, .p⟩,
  ⟨CEL_PROF_GUAR.reg 0 0, 128, 16, 0x3FFFF, 0x0, 0x0, 0x0, .p⟩,
  ⟨CEL_PROF_HIGH.reg 0 0, 128, 16, 0x3FFFF, 0x0, 0x0, 0x0, .p⟩,
  ⟨CEL_PROF_LOW.reg 0 0, 128, 16, 0x3FFFF, 0x0, 0x0, 0x0, .p⟩,
  ⟨CEL_PROF_MODE.reg 0 0, 128, 16, 0x8003FFFF, 0x0, 0x0, 0x0, .p⟩]

/-- The TBL registers (R470, spec/16_register_index.md). -/
def tblRegs : List RegSpec := [
  ⟨TBL_CTL.reg, 1, 4, 0xC0FF0000, 0x0, 0x0, 0x0, .p⟩,
  ⟨TBL_STAT.reg, 1, 4, 0x0, 0x70000000, 0x0, 0xFFFF, .p⟩,
  ⟨TBL_CMD_BASE_LO.reg, 1, 4, 0xFFFFFFC0, 0x0, 0x0, 0x0, .p⟩,
  ⟨TBL_CMD_BASE_HI.reg, 1, 4, 0xFFFFFFFF, 0x0, 0x0, 0x0, .p⟩,
  ⟨TBL_CMD_SIZE.reg, 1, 4, 0x1F, 0x0, 0x0, 0x0, .p⟩,
  ⟨TBL_CMD_DB.reg, 1, 4, 0x0, 0x0, 0x0, 0x0, .p⟩,
  ⟨TBL_LEARN_BASE_LO.reg, 1, 4, 0xFFFFFFC0, 0x0, 0x0, 0x0, .p⟩,
  ⟨TBL_LEARN_BASE_HI.reg, 1, 4, 0xFFFFFFFF, 0x0, 0x0, 0x0, .p⟩,
  ⟨TBL_LEARN_CFG.reg, 1, 4, 0x781FFFFF, 0x0, 0x0, 0x0, .pv⟩,
  ⟨TBL_LEARN_STAT.reg, 1, 4, 0x0, 0x98000000, 0x0, 0xFFFF, .pv⟩,
  ⟨TBL_AGE_CFG.reg, 1, 4, 0xC0F0FFFF, 0x0, 0x0, 0x0, .p⟩,
  ⟨TBL_EVICT_CFG.reg, 1, 4, 0xC0000000, 0x0, 0x0, 0xFFFF, .p⟩,
  ⟨TBL_HASH_CFG.reg, 1, 4, 0xFFFF, 0x0, 0x0, 0x0, .s⟩,
  ⟨TBL_VINTAGE.reg 0, 5, 4, 0x0, 0x0, 0x0, 0x0, .v⟩,
  ⟨TBL_OCC.reg 0, 5, 4, 0x0, 0x0, 0x0, 0x0, .v⟩,
  ⟨TBL_OVF_OCC.reg 0, 5, 4, 0x0, 0x0, 0x0, 0x0, .v⟩]

/-- The AUX registers (R470, spec/16_register_index.md). -/
def auxRegs : List RegSpec := [
  ⟨AUX_STAT.reg, 1, 4, 0x0, 0x0, 0x0, 0x0, .a⟩,
  ⟨AUX_SUPPLY_STAT.reg, 1, 4, 0x0, 0x7000000, 0x0, 0xFFFF, .a⟩,
  ⟨AUX_WAKE_CFG.reg, 1, 4, 0xF0000000, 0x0, 0x0, 0xFFFF, .a⟩,
  ⟨AUX_SENTINEL_CFG.reg, 1, 4, 0xFF0700FF, 0x0, 0x0, 0x0, .a⟩,
  ⟨AUX_BOOK_STAT.reg, 1, 4, 0x0, 0xC000000, 0x0, 0x0, .a⟩,
  ⟨AUX_WAKE_SEL.reg, 1, 4, 0x1F00003F, 0x0, 0x0, 0x0, .a⟩,
  ⟨AUX_WAKE_DATA.reg, 1, 4, 0xFFFFFFFF, 0x0, 0x0, 0x0, .a⟩,
  ⟨AUX_WAKE_PAT_CTL.reg 0, 32, 4, 0xC000FFFF, 0x20000000, 0x0, 0x0, .a⟩,
  ⟨AUX_CAGE_CTL.reg 0, 32, 16, 0xFE00FF0F, 0x0, 0x0, 0x0, .a⟩,
  ⟨AUX_CAGE_STAT.reg 0, 32, 16, 0x0, 0x0, 0x0, 0x0, .a⟩,
  ⟨AUX_CAGE_EVT.reg 0, 32, 16, 0x0, 0xF, 0x0, 0x0, .a⟩]

/-- The PRS registers (R470, spec/16_register_index.md). -/
def prsRegs : List RegSpec := [
  ⟨PRS_CFG.reg 0, 1, 4, 0x80FF1FFF, 0x0, 0x0, 0x0, .p⟩,
  ⟨PRS_STAT.reg 0, 1, 4, 0x0, 0x20000000, 0x0, 0xFFFF, .pv⟩,
  ⟨PRS_CLK_STAT.reg 0, 1, 4, 0x0, 0x0, 0x0, 0xFFFF, .p⟩,
  ⟨PRS_PARSE_CFG.reg 0, 1, 4, 0x800003FF, 0x0, 0x0, 0x0, .p⟩,
  ⟨PRS_TAG_CFG.reg 0, 1, 4, 0xFFFF8771, 0x0, 0x0, 0x0, .p⟩,
  ⟨PRS_TUNNEL_CFG.reg 0, 1, 4, 0xC000000F, 0x0, 0x0, 0x0, .p⟩,
  ⟨PRS_TUNNEL_PORTS.reg 0, 1, 4, 0xFFFFFFFF, 0x0, 0x0, 0x0, .p⟩,
  ⟨PRS_CSUM_CFG.reg 0, 1, 4, 0xF8000000, 0x0, 0x0, 0x0, .p⟩,
  ⟨PRS_SLOW_CFG.reg 0, 1, 4, 0xCF0FFFF, 0x0, 0x0, 0x0, .p⟩,
  ⟨PRS_LANE_STAT.reg 0, 1, 4, 0x0, 0xFF000000, 0x0, 0x3F, .p⟩,
  ⟨PRS_REORDER_CFG.reg 0, 1, 4, 0x800000FF, 0x0, 0x0, 0x0, .p⟩,
  ⟨PRS_REORDER_STAT.reg 0, 1, 4, 0x0, 0xC0000000, 0x0, 0x1FF0000, .p⟩,
  ⟨PRS_LPM_CFG.reg 0, 1, 4, 0xC0000000, 0x0, 0x0, 0x0, .pv⟩,
  ⟨PRS_CLS_CFG.reg 0, 1, 4, 0xE0000000, 0x0, 0x0, 0x0, .pv⟩,
  ⟨PRS_DEFAULT_ACTION.reg 0, 1, 4, 0xFFFFF000, 0x0, 0x0, 0x0, .p⟩,
  ⟨PRS_MIRROR_CFG.reg 0, 1, 4, 0xFFFFFFFF, 0x0, 0x0, 0x0, .p⟩,
  ⟨PRS_ETYPE_CFG.reg 0 0, 8, 4, 0xE0FFFFFF, 0x0, 0x0, 0x0, .p⟩,
  ⟨PRS_RANGE_CFG.reg 0 0, 32, 4, 0xC0000007, 0x0, 0x0, 0x0, .p⟩,
  ⟨PRS_RANGE_BOUNDS.reg 0 0, 32, 4, 0xFFFFFFFF, 0x0, 0x0, 0x0, .p⟩,
  ⟨PRS_POL_SEL.reg 0, 1, 4, 0x3FFF, 0x0, 0x0, 0x0, .p⟩,
  ⟨PRS_POL_CIR.reg 0, 1, 4, 0xFFFFFFFF, 0x0, 0x0, 0x0, .p⟩,
  ⟨PRS_POL_PIR.reg 0, 1, 4, 0xFFFFFFFF, 0x0, 0x0, 0x0, .p⟩,
  ⟨PRS_POL_CBS.reg 0, 1, 4, 0x1FFFFFF, 0x0, 0x0, 0x0, .p⟩,
  ⟨PRS_POL_PBS.reg 0, 1, 4, 0x1FFFFFF, 0x0, 0x0, 0x0, .p⟩,
  ⟨PRS_POL_CTL.reg 0, 1, 4, 0xFFFFC000, 0x0, 0x0, 0x0, .p⟩,
  ⟨PRS_POL_STAT.reg 0, 1, 4, 0x0, 0x0, 0x0, 0x0, .p⟩]

/-- The ROW registers (R470, spec/16_register_index.md). -/
def rowRegs : List RegSpec := [
  ⟨ROW_CFG.reg 0, 1, 4, 0xFFFFFF, 0x0, 0x0, 0x0, .p⟩,
  ⟨ROW_STAT.reg 0, 1, 4, 0x0, 0x7000000, 0x0, 0x0, .p⟩,
  ⟨ROW_CAL_CFG.reg 0, 1, 4, 0x1, 0x0, 0x0, 0x0, .p⟩,
  ⟨ROW_IF_ERR.reg 0, 1, 4, 0x0, 0xFF010000, 0x0, 0xFFFF, .p⟩,
  ⟨ROW_PAUSE_SA_LO.reg 0, 1, 4, 0xFFFFFFFF, 0x0, 0x0, 0x0, .p⟩,
  ⟨ROW_PAUSE_SA_HI.reg 0, 1, 4, 0x1FFFF, 0x0, 0x0, 0x0, .p⟩,
  ⟨ROW_TWIN_CFG.reg 0, 1, 4, 0xFFFEFFFF, 0x0, 0x0, 0x0, .s⟩,
  ⟨ROW_TWIN_STAT.reg 0, 1, 4, 0x0, 0xE000000, 0x0, 0x0, .pv⟩,
  ⟨ROW_TS_CFG.reg 0, 1, 4, 0xFFFFFFE0, 0x0, 0x0, 0x0, .p⟩,
  ⟨ROW_LPI_CFG.reg 0, 1, 4, 0xFFFFFFFF, 0x0, 0x0, 0x0, .p⟩,
  ⟨ROW_GATE_IMG_LO.reg 0, 1, 4, 0xFFFFFFF8, 0x0, 0x0, 0x0, .p⟩,
  ⟨ROW_GATE_IMG_HI.reg 0, 1, 4, 0xFFFFFFFF, 0x0, 0x0, 0x0, .p⟩,
  ⟨ROW_GATE_LOAD.reg 0, 1, 4, 0x70007FF, 0x20000000, 0x0, 0x0, .p⟩,
  ⟨ROW_CAL.reg 0 0, 8, 4, 0xFFFFFFFF, 0x0, 0x0, 0x0, .p⟩]

/-- The PRT registers (R470, spec/16_register_index.md). -/
def prtRegs : List RegSpec := [
  ⟨PRT_MAC_CFG.reg 0, 1, 4, 0xE000FFFF, 0x0, 0x0, 0x0, .p⟩,
  ⟨PRT_MAC_STAT.reg 0, 1, 4, 0x0, 0x100000FE, 0x0, 0x0, .p⟩,
  ⟨PRT_FRAME_CFG.reg 0, 1, 4, 0x1FFFF, 0x0, 0x0, 0x0, .p⟩,
  ⟨PRT_FILTER_CFG.reg 0, 1, 4, 0xFFC07FFF, 0x0, 0x0, 0x0, .p⟩,
  ⟨PRT_MC_HASH_LO.reg 0, 1, 4, 0xFFFFFFFF, 0x0, 0x0, 0x0, .p⟩,
  ⟨PRT_MC_HASH_HI.reg 0, 1, 4, 0xFFFFFFFF, 0x0, 0x0, 0x0, .p⟩,
  ⟨PRT_ADM_CFG.reg 0, 1, 4, 0xF, 0x0, 0x0, 0x0, .p⟩,
  ⟨PRT_PFC_CFG.reg 0, 1, 4, 0xFFFFFFF0, 0x0, 0x0, 0x0, .p⟩,
  ⟨PRT_PFC_STAT.reg 0, 1, 4, 0x0, 0x60, 0x0, 0x0, .p⟩,
  ⟨PRT_SCHED_CFG.reg 0, 1, 4, 0xFFF00000, 0x0, 0x0, 0x0, .p⟩,
  ⟨PRT_GATE_CFG.reg 0, 1, 4, 0x80FFFF00, 0x0, 0x0, 0x0, .p⟩,
  ⟨PRT_GATE_CYCLE.reg 0, 1, 4, 0xFFFFFFFF, 0x0, 0x0, 0x0, .p⟩,
  ⟨PRT_GATE_BASE_SEC_LO.reg 0, 1, 4, 0xFFFFFFFF, 0x0, 0x0, 0x0, .p⟩,
  ⟨PRT_GATE_BASE_SEC_HI.reg 0, 1, 4, 0xFFFF, 0x0, 0x0, 0x0, .p⟩,
  ⟨PRT_GATE_BASE_NS.reg 0, 1, 4, 0x3FFFFFFF, 0x0, 0x0, 0x0, .p⟩,
  ⟨PRT_GATE_STAT.reg 0, 1, 4, 0x0, 0x27000000, 0x0, 0x0, .p⟩,
  ⟨PRT_LPI_STAT.reg 0, 1, 4, 0x0, 0x0, 0x0, 0xFFFF0000, .p⟩]

/-- Every register of the window, in address order. -/
def allRegs : List RegSpec :=
  glbRegs ++ mgtRegs ++ fabRegs ++ evtRegs ++ pmuRegs ++ timRegs ++ cvuRegs ++ celRegs ++ tblRegs ++ auxRegs ++ prsRegs ++ rowRegs ++ prtRegs

/-- The address of the same register in press 0, row 0 or port 0 (decode of R470); none where the region is
unassigned. -/
def instance0 (a : Nat) : Option Nat :=
  if a < 0xA0000 then some a
  else if 0x100000 ≤ a ∧ a < 0x150000 then some (0x100000 + a % 0x10000)
  else if 0x200000 ≤ a ∧ a < 0x280000 then
    let o := (a - 0x200000) % 0x4000
    if o < 0x800 then some (0x200000 + o)
    else if o < 0x2800 then some (0x200800 + (o - 0x800) % 0x400)
    else none
  else none

/-- Whether instance-0 address a lies on an instance of the register's array. -/
def RegSpec.covers (r : RegSpec) (a : Nat) : Bool :=
  r.first.off ≤ a && (a - r.first.off) % r.stride == 0 && (a - r.first.off) / r.stride < r.n

/-- The register at a window offset, none where the offset is unassigned (R9, R470). -/
def findSpec (a : Nat) : Option RegSpec :=
  (instance0 a).bind fun b => allRegs.find? (·.covers b)

end Sys2Proof.Machine
end

