-- ==== Sys2Proof/Syntax.lean ====
section
/-!
DEFINITION. The commands of the block: one constructor of Instr for each row of spec/opcode_table.json, in the
table's order, with the operands that the row's sentence and the signals of spec/17_signals_and_electrical.md give
it. Every index is a bit vector of exactly the width the spec gives the object, so an index out of range cannot be
written; the press, of which there are five, is a Fin 5.
-/

namespace Sys2Proof

/-- What the host chip answers to a read request: the bytes asked for, or the error response of R367. -/
inductive ReadResp where
  | data (bytes : Bytes)
  | error
  deriving DecidableEq, Repr

/-- What the reads of an image bring: all its bytes, or the error that answers the request with the given number
(R367). -/
inductive ImageResp where
  | data (bytes : Bytes)
  | error (req : Nat)
  deriving DecidableEq, Repr

/-- A word of the cellar: its cell and its place in the cell (R165). -/
structure CellWord where
  cell : BitVec 18
  word : BitVec 2
  deriving DecidableEq, Repr

/-- Outcome of reading cellar words (R166, R171): those that the code corrected, in the order of the reads, and one that
it could not correct. A read that is all clean names none. -/
structure CellarRead where
  corrected : List CellWord := []
  bad : Option CellWord := none
  deriving DecidableEq, Repr

/-- Outcome of the table words a lookup reads (R224, R420): all clean, a word corrected, or one that cannot be. -/
inductive TableRead where
  | clean
  | corrected
  | uncorrectable
  deriving DecidableEq, Repr

/-- Outcome of reading the retention book (R99, R420): clean, a word corrected, or an error of one mirror beyond its
code. -/
inductive BookRead where
  | clean
  | corrected
  | mirrorError
  deriving DecidableEq, Repr

/-- Outcome of the duplicate computation of check values (R339): the two copies agree, differ once, or differ
again on the same item; and, where they differ, whether the self-check of R421 finds one copy wrong. -/
inductive CvCheck where
  | agree
  | mismatch (copyBad : Bool)
  | mismatchTwice (copyBad : Bool)
  deriving DecidableEq, Repr

/-- Reconciliation-sublayer fault state of a port (R155). -/
inductive LinkFault where
  | ok
  | localFault
  | remoteFault
  deriving DecidableEq, Repr

/-- Level of the supply VDDS or VDD (R386): in its operating range, in the range that only keeps SRAM contents
(VDDS alone has one), or outside. -/
inductive SupplyLevel where
  | operating
  | retention
  | out
  deriving DecidableEq, Repr

/-- The supply that leaves its range in a SUPPLY_LOSS. -/
inductive Supply where
  | vdd
  | vdds
  deriving DecidableEq, Repr

/-- Why a racking is requested (R424, GLB_RACK_STAT.cause). -/
inductive RackCause where
  | steward
  | slow
  | fault
  deriving DecidableEq, Repr

/-- What the words of a frame on a port's receive slots show (R131, R135 to R138): its bytes with FCS and without
preamble, the lane of /S/, the byte after the preamble, an error control character or an early /S/ or fault
sequence between /S/ and /T/, and whether both staging buffers were occupied at /S/. -/
structure RxArrival where
  bytes : Bytes
  sLane : BitVec 3
  sfd : Byte
  miiError : Bool
  stagingFull : Bool
  deriving DecidableEq, Repr

/-- How a management message reaches the session engine (R443): by the mailbox, or in a frame on a port from a
source address. -/
inductive MsgPath where
  | mailbox
  | inband (port : BitVec 8) (sa : BitVec 48) (msg : Bytes)
  deriving DecidableEq, Repr

/-- Where the cellarmaster firmware sends a frame (R434). -/
inductive SlowDest where
  | port (port : BitVec 8)
  | chan (chan : BitVec 13)
  deriving DecidableEq, Repr

/-- What the cellarmaster firmware does with a frame (R434): it ends the slow-path entry that stands at a place of its
queue, by sending the frame on or discarding it, or it sends a frame without FCS that it builds in local SRAM at an
address. -/
inductive SlowEnd where
  | send (entry : BitVec 12) (dest : SlowDest)
  | discard (entry : BitVec 12)
  | build (addr : BitVec 20) (bytes : Bytes) (dest : SlowDest)
  deriving DecidableEq, Repr

/-- The timer that runs out in a PAUSE_TIMER_EXPIRY (R189). -/
inductive PauseTimer where
  | priority (q : BitVec 3)
  | link
  deriving DecidableEq, Repr

/-- One event of a programmable counter falling in the cycle of a COUNTER_RESET (R458): the counter and what the
event adds. -/
structure SameCycleEvent where
  counter : BitVec 10
  inc : BitVec 16
  deriving DecidableEq, Repr

/-- The commands of the block, one constructor for each row of spec/opcode_table.json. -/
inductive Instr where
  | registerWrite (addr : BitVec 22) (be : BitVec 4) (data : Word) (hwSet : Word)
  | rcFieldRead (addr : BitVec 22) (be : BitVec 4) (events : BitVec 8)
  | pairLoRead (addr : BitVec 22) (be : BitVec 4)
  | pairHiWrite (addr : BitVec 22) (be : BitVec 4) (data : Word) (events : BitVec 8)
  | transmitDoorbell (addr : BitVec 25) (wide : Bool)
  | receiveDoorbell (addr : BitVec 25) (wide : Bool)
  | pollInterval (chan : BitVec 13)
  | start (book : BookRead)
  | startFresh (book : BookRead)
  | stop
  | reset
  | chnCmdInvalid (cmd : BitVec 3)
  | contextReadComplete (req : Nat) (resp : ReadResp)
  | ctxInvalChannel (chan : BitVec 13)
  | ctxInvalCring (ring : BitVec 12)
  | ringReset (ring : BitVec 12)
  | ctxInvalReadComplete (req : Nat) (resp : ReadResp)
  | indexBlockReadComplete (req : Nat) (resp : ReadResp)
  | descriptorReadComplete (req : Nat) (resp : ReadResp)
  | txDataReadComplete (req : Nat) (resp : ReadResp) (cv : CvCheck)
  | chainStage
  | chainSettle (chan : BitVec 13)
  | frameReceive (port : BitVec 8) (rx : RxArrival)
  | miiWordError (row : BitVec 5) (port : Option (BitVec 3))
  | dealHeaderCopies (press : Fin 5)
  | laneResult (press : Fin 5) (seq : Nat) (lane : BitVec 3) (latency : BitVec 16) (tbl : TableRead) (cell : CellarRead)
  | reorderTimeout (press : Fin 5) (seq : Nat)
  | laneErrClear (press : Fin 5) (lanes : Byte)
  | schedulerDecision (port : BitVec 8)
  | txStaged (port : BitVec 8) (cell : CellarRead)
  | frameTransmitEnd (port : BitVec 8) (cut : Bool)
  | pauseFrameTransmit (port : BitVec 8)
  | pauseRefreshTimer (port : BitVec 8) (prio : BitVec 3)
  | pauseTimerExpiry (port : BitVec 8) (timer : PauseTimer)
  | rxWaitLimit (chan : BitVec 13) (frame : Nat)
  | receiveAssign (chan : BitVec 13) (cell : CellarRead) (cv : CvCheck)
  | fabricWriteAck (req : Nat) (err : Bool)
  | consIndexReadComplete (req : Nat) (resp : ReadResp)
  | stallRereadTimer (ring : BitVec 12)
  | stallAlertTimer (ring : BitVec 12)
  | moderationTimer (ring : BitVec 12)
  | resetDrainTimeout (chan : BitVec 13)
  | lateCompletion (req : Nat)
  | linkFaultChange (port : BitVec 8) (fault : LinkFault)
  | linkHoldTimer (port : BitVec 8)
  | lpiIdleTimer (port : BitVec 8)
  | lpiWakeEnd (port : BitVec 8)
  | receiveLpi (port : BitVec 8) (on : Bool)
  | rowEnableRequest (row : BitVec 5)
  | rowDisableRequest (row : BitVec 5)
  | rowEnabled (row : BitVec 5)
  | rowDisabled (row : BitVec 5)
  | rowCfgWrite (row : BitVec 5) (data : Word)
  | calendarManualClear (row : BitVec 5)
  | spareCopyComplete (corrected bad : List CellWord)
  | twinRecoveryReset (row : BitVec 5)
  | throttleWindowEnd (press : Fin 5)
  | pressClockSwitch (press : Fin 5)
  | slowWindowEnd (press : Fin 5)
  | powerOnReset (book : BookRead)
  | powerFailWarning
  | drainComplete
  | supplyLoss (supply : Supply) (level : SupplyLevel) (rclk : Bool)
  | vauxLoss
  | vauxRestore
  | softReset (key : Byte)
  | tableCommandDoorbell
  | tableCmdReadComplete (req : Nat) (resp : ReadResp)
  | lock (post : Option Bytes)
  | unlock (post : Option Bytes)
  | tblRead (post : Option Bytes)
  | tblWrite (post : Option Bytes)
  | tblDelete (post : Option Bytes)
  | zoneMove (post : Option Bytes)
  | zoneMoveDone
  | replicaCopy (post : Option Bytes)
  | replicaCopyDone
  | ageSweep (post : Option Bytes)
  | ageSweepDone
  | dump (post : Option Bytes)
  | lockTimeout (slot : BitVec 4)
  | ageTick
  | learnFilterHoldoff (press : Fin 5) (fd : BitVec 14) (mac : BitVec 48)
  | learnProdTimer
  | learnConsReadComplete (req : Nat) (resp : ReadResp)
  | policerCommit (press : Fin 5) (data : Word)
  | policerSelect (press : Fin 5) (data : Word)
  | gateListLoad (row : BitVec 5) (data : Word)
  | gateLoadComplete (row : BitVec 5) (resp : ImageResp)
  | gateCommit (port : BitVec 8)
  | gateCancel (port : BitVec 8)
  | gateListSwitch (port : BitVec 8)
  | gateEntryChange (port : BitVec 8)
  | cvuTestStart (data : Word)
  | cvuTestData (data : Word)
  | cvlogProdTimer (chan : BitVec 13)
  | logSlotReread (chan : BitVec 13)
  | cvlogConsReadComplete (req : Nat) (resp : ReadResp)
  | timeIncrWrite (data : Word)
  | timeCaptureRead
  | timeLoad
  | timeStep (neg : Bool)
  | ppsInEdge (falling : Bool)
  | captureRead
  | ppsOutPulse
  | ppsWidthEnd
  | triggerArm (data : Word)
  | triggerFire
  | triggerWidthEnd
  | readTimeout (req : Nat)
  | writeTimeout (req : Nat)
  | quarantineExpiry (req : Nat)
  | writeHoldExpiry (req : Nat)
  | fabricPortIerr (port : BitVec 4) (high : Bool)
  | fabricPortRestore (port : BitVec 4)
  | functionStateUpdate (func : BitVec 12) (fsState : BitVec 5)
  | hostLinkChange (up : Bool)
  | quiesceDrainTimeout (func : BitVec 12)
  | functionAbandon
  | eventEmit (ready : Bool)
  | intxAck (func : BitVec 12) (fold : Bool)
  | eventForce (func : BitVec 12) (vector : BitVec 11)
  | blockEventGap (source : BitVec 3)
  | dormancyEnter (data : Word)
  | dormancyQuiesceEnd
  | hostWake
  | wakeTimer
  | wakeVddsReturn
  | sentinelFrame (port : BitVec 8) (rx : RxArrival)
  | patternMatch (sentinel : BitVec 3)
  | cagePresenceChange (cage : BitVec 5) (present : Bool)
  | cagePowerEnable (cage : BitVec 5)
  | cagePowerDisable (cage : BitVec 5)
  | cagePowerGood (cage : BitVec 5)
  | cagePgTimeout (cage : BitVec 5)
  | cagePowerFault (cage : BitVec 5) (asserted : Bool)
  | cagePowerGoodLost (cage : BitVec 5)
  | cageButton (cage : BitVec 5)
  | errorPop (n : BitVec 7)
  | rack (source : Byte) (cause : RackCause)
  | rackPrepareTest
  | rackPrepareTimeout
  | rackHandover
  | rackCutoverEnd (tenths : BitVec 10)
  | abortRack
  | setLearnMode (mode : Byte)
  | spareBank (bank : Byte)
  | retireKey (slot : Byte)
  | counterReset (sameCycle : List SameCycleEvent)
  | restorePress (press : Byte)
  | activateFw (sid : BitVec 2) (digest : Bytes)
  | fwVerifyDone (image : ImageResp)
  | fwLoadDone (image : ImageResp)
  | watchdogExpiry (thread : BitVec 2)
  | cmRestart
  | cmHalt
  | cmSlowPathEnd (how : SlowEnd) (cell : CellarRead)
  | retentionSpareDone
  | openReq (path : MsgPath)
  | proof (path : MsgPath)
  | command (path : MsgPath)
  | close (path : MsgPath)
  | challengeTimeout (sid : BitVec 2)
  | sessionIdleTimeout (sid : BitVec 2)
  | keyLockoutEnd (slot : BitVec 3)
  | mboxStorePart (part : BitVec 3)
  | mboxSend (len : Byte)
  | mboxFetchPart (part : BitVec 3)
  | keyWord (slot : BitVec 3) (word : BitVec 3) (data : Word)
  | keyCommit (slot : BitVec 3)
  | keyLock
  | snapshotTrigger
  | snapshotInterval
  | powerOnResetAssert
  | sampleProdTimer
  | sampleConsReadComplete (req : Nat) (resp : ReadResp)
  | pressSelfTestDone (press : Fin 5) (pass : Bool)
  | pressLogicFault (press : Fin 5)
  | localSramUncorrectable (inCode : Bool)
  deriving DecidableEq, Repr

end Sys2Proof
end

