-- ==== Sys2Proof/Machine/State.lean ====
section
/-!
DEFINITION. The state of the Zudra-256 as plain data: every register, ring, queue, counter, table, point, pin and
piece of work in progress that spec/ gives the block, the queue of waiting commands, and the state in which the
block stands while power-on reset is held.
-/

namespace Sys2Proof.Machine

/-- Sparse data by number: pairs in strictly rising order of the number. What an unlisted number holds is said by
the operation that reads the map. -/
abbrev SMap (α : Type) := List (Nat × α)

/-! ### Small shared records -/

/-- PTP time as a timestamp carries it (R347): seconds, nanoseconds, and the fraction in 2^-16 ns. -/
structure Stamp where
  sec : Nat := 0
  ns : Nat := 0
  frac : Nat := 0
  deriving DecidableEq, Repr

/-- A memory-resident ring the block produces into (log R334, learn R240, sample R468): free-running indices, slots
reserved and not yet written, and the header traffic outstanding; cover is the index up to which the event that waits
announces records (R361). -/
structure PRing where
  prod : Word := 0
  cons : Word := 0
  reserved : Nat := 0
  unacked : List Word := []
  consOut : Bool := false
  prodOut : Bool := false
  prodDirty : Bool := false
  cover : Option Word := none
  deriving DecidableEq, Repr

/-! ### Channels (spec/02, spec/03, spec/10) -/

/-- Channel states (R81). -/
inductive ChState where
  | disabled | running | stopping | stopped | fenced | quiesced | resetting
  deriving DecidableEq, Repr

/-- A channel context entry as the block holds it (R39, R329). -/
structure Ctx where
  txBase : DWord := 0
  rxBase : DWord := 0
  idxAddr : DWord := 0
  logBase : DWord := 0
  stripFcs : Bool := false
  logLog2 : Nat := 0
  rxLog2 : Nat := 0
  txLog2 : Nat := 0
  homeRow : Nat := 0
  cring : Nat := 0
  func : Nat := 0
  inflight : Nat := 0
  pollK : Nat := 0
  weight : Nat := 0
  tc : Nat := 0
  burst : Nat := 0
  cir : Nat := 0
  pir : Nat := 0
  cbs : Nat := 0
  pbs : Nat := 0
  cvCfg : Word := 0
  cvLayout : DWord := 0
  deriving DecidableEq, Repr

/-- Running check-value state of one direction (R328): cv_state, cv_tag and cv_count. -/
structure CvState where
  reg : DWord := 0
  tag : DWord := 0
  count : Nat := 0
  deriving DecidableEq, Repr

/-- A storage block that ended: its tag and reported value (R327). -/
structure CvBlock where
  tag : DWord
  value : DWord
  deriving DecidableEq, Repr

/-- A transmit descriptor (R58); res0 says that a reserved field is not zero. -/
structure TxDesc where
  addr : DWord := 0
  len : Nat := 0
  vlanIns : Bool := false
  cvEn : Bool := false
  csumL4 : Bool := false
  csumL3 : Bool := false
  oneStep : Bool := false
  tsReq : Bool := false
  last : Bool := false
  first : Bool := false
  tci : BitVec 16 := 0
  cvTag : DWord := 0
  res0 : Bool := false
  deriving DecidableEq, Repr

/-- A receive buffer descriptor (R63): its buffer, or the reason for which it is malformed (1 or 5). -/
structure RxDesc where
  addr : DWord := 0
  len : Nat := 0
  bad : Option Nat := none
  deriving DecidableEq, Repr

/-- The place reserved for a completion entry (R95): none yet, a ring slot, or an entry of the backlog pool. -/
inductive Place where
  | none | ring | pool
  deriving DecidableEq, Repr

/-- The start of an item whose latency may be sampled: the DCLK count, and PTP time (R467, R469). -/
structure Began where
  at_ : Nat := 0
  time : Stamp := {}
  deriving DecidableEq, Repr

/-- One piece of a chain's data, as one fabric request reads it (R357). -/
structure Frag where
  addr : DWord
  len : Nat
  data : Option Bytes
  deriving DecidableEq, Repr

/-- One header level around a PTP message that a one-step update must keep right (R353): the offset of its IP header,
and that of its UDP header when it has one. -/
structure Nesting where
  ip : Nat
  v6 : Bool
  udp : Option Nat
  deriving DecidableEq, Repr

/-- One-step timestamping of a frame at a port (R350): not asked for; asked for and not possible (ts_os_skip); or the
offset of the PTP header in the frame as queued, whether the frame is a chain's, and the levels around the message from
the outermost. -/
inductive OneStep where
  | off
  | skip
  | rewrite (ptp : Nat) (ofChain : Bool) (outer : List Nesting)
  deriving DecidableEq, Repr

/-- Where one copy of a chain stands at its destination port: queued, taken by the row, ended on the wire, or
dropped there (R318). -/
inductive CopyPhase where
  | queued | started | ended | dropped
  deriving DecidableEq, Repr

/-- One copy of a chain at a destination port: the class, the bytes as queued without FCS, the sequence number once a
copy of its twin pair has started (R120), and the transmit stamp once /S/ has crossed the row interface, with the DCLK
count of the crossing (R349); dark says that both links of its pair were down at the launch (R123). -/
structure TxCopy where
  port : Nat
  tc : Nat
  bytes : Bytes
  oneStep : OneStep
  phase : CopyPhase
  stamp : Option Stamp := none
  crossed : Nat := 0
  seqTag : Option (BitVec 16) := none
  dark : Bool := false
  deriving DecidableEq, Repr

/-- Why a received frame stands in a channel's queue (R217, R282, R23). -/
inductive RxKind where
  | normal
  | slow (reason : Nat)
  | mirror
  | fromChannel
  deriving DecidableEq, Repr

/-- One channel destination of a decision; vlan is the outer tag that a next hop has taken off the frame (R228). -/
structure ChanDest where
  chan : Nat
  kind : RxKind
  tc : Nat
  bytes : Bytes
  vlan : Option Nat := none
  deriving DecidableEq, Repr

/-- Stages of an accepted chain: waiting for the transmit region (R173), being read, staged, dealt to a press, waiting for
the unit action of that press before its lookups are repeated (R224), decided, launched, or settling with a status
(R494). -/
inductive ChainStage where
  | waiting | reading | staged | inPress | decided | launched
  | unitWait (press : Nat)
  | settling (status : Nat)
  deriving DecidableEq, Repr

/-- An accepted transmit chain that is not completed. frame names the cellar frame to which its cells passed when its
bytes also go to a channel or to a mirror (R19, R23); tested says that R317 has been applied to it as head chain; again
holds the descriptors that are being read again, each once it has come (R115). -/
structure Chain where
  first : Word
  count : Nat
  descs : List TxDesc
  total : Nat
  stage : ChainStage
  frags : List Frag := []
  data : Bytes := []
  cells : Nat := 0
  cvBlocks : List CvBlock := []
  place : Place := .none
  logSlots : Nat := 0
  copies : List TxCopy := []
  dests : List ChanDest := []
  port : Nat := 0
  start : Began := {}
  again : List (Option TxDesc) := []
  frame : Option Nat := none
  tested : Bool := false
  deriving DecidableEq, Repr

/-- A frame queued to a channel and not assigned (R67): the cellar frame, the bytes to deliver with FCS, the traffic
class, checksum flags and stripped tag to report, and whether it has placed a receive hold (R192). -/
structure RxRef where
  frame : Nat
  kind : RxKind
  bytes : Bytes
  tc : Nat
  l3err : Bool
  l4err : Bool
  held : Bool
  vlan : Option Nat := none
  deriving DecidableEq, Repr

/-- A completion entry (R69) without its phase bit, which the write gives it (R70). -/
structure CEntry where
  first : Word := 0
  l4err : Bool := false
  l3err : Bool := false
  descCount : Nat := 0
  status : Nat := 0
  tsValid : Bool := false
  cvValid : Bool := false
  rx : Bool := false
  chan : Nat := 0
  port : Nat := 0
  slowReason : Nat := 0
  length : Nat := 0
  tc : Nat := 0
  vlan : Option Nat := none
  cvValue : DWord := 0
  tsNs : Nat := 0
  tsSecLo : Nat := 0
  deriving DecidableEq, Repr

/-- A received frame assigned to a channel (R65): its buffers, the data writes not yet acknowledged, and the
completion entry it will get. -/
structure Assigned where
  serial : Nat
  frame : Nat
  first : Word
  n : Nat
  bufs : List (DWord × Nat)
  bytes : Bytes
  writesLeft : Nat
  failed : Bool
  done : Bool
  entry : CEntry
  place : Place
  logSlots : Nat
  deriving DecidableEq, Repr

/-- What FAB_CHN_FENCE_INFO shows of a fence (R91). -/
structure FenceInfo where
  rx : Bool
  reason : Nat
  status : Nat
  deriving DecidableEq, Repr

/-- Progress of a START or START_FRESH (R40, R82, R111): reading the channel context, the completion context, the
index block of a fallback, or waiting for the writes that come before RUNNING (R87, R102, R492). -/
inductive StartPhase where
  | context | cring | index | report
  deriving DecidableEq, Repr


/-- A completion of one direction whose entry is not yet acknowledged: the done index that it brings (R47). failed says
that the write of its entry has failed: the done index stays before it until the next START (R47, R367). -/
structure DoneMark where
  upTo : Word
  written : Bool
  failed : Bool := false
  deriving DecidableEq, Repr

/-- An item whose reservation of a place waits (R73, R95): a chain's first index or a frame, and whether cons_index has
been read again for it. -/
structure PlaceWait where
  item : Nat
  reread : Bool
  deriving DecidableEq, Repr

/-- The transmit side of a channel. start and startAgain say when the read of tx_prod in progress, and the one that
follows it, were asked for; reads lists the values read with when each was asked for (R467). wait and logWait name the
chain that waits for a place (R95) and for log slots (R335). -/
structure ChTx where
  prod : Word := 0
  accepted : Word := 0
  done : Word := 0
  fetch : Word := 0
  partialDescs : List TxDesc := []
  descOut : Bool := false
  idxOut : Bool := false
  idxAgain : Bool := false
  chains : List Chain := []
  marks : List DoneMark := []
  cv : CvState := {}
  tcLevel : Int := 0
  tpLevel : Int := 0
  last : Nat := 0
  start : Began := {}
  startAgain : Began := {}
  reads : List (Word × Began) := []
  wait : Option PlaceWait := none
  logWait : Option Nat := none
  deriving DecidableEq, Repr

/-- The receive side of a channel. wait and logWait name the frame that waits for a place (R95) and for log slots
(R335). -/
structure ChRx where
  prod : Word := 0
  taken : Word := 0
  done : Word := 0
  fetch : Word := 0
  descs : List RxDesc := []
  descOut : Bool := false
  idxOut : Bool := false
  idxAgain : Bool := false
  queue : List RxRef := []
  assigned : List Assigned := []
  marks : List DoneMark := []
  cv : CvState := {}
  wait : Option PlaceWait := none
  logWait : Option Nat := none
  deriving DecidableEq, Repr

/-- The four sequence points of a channel (R92). -/
structure Points where
  accepted : Word := 0
  launched : Word := 0
  sent : Word := 0
  delivered : Word := 0
  deriving DecidableEq, Repr

/-- What a channel takes over when its START completes: its context entry and check-value states, its epoch, whether
a chain is named indeterminate, the points that a fallback, a restart under R107 or a fresh start sets, and whether the
completion context that it read has cons_index beyond the ring (R72). -/
structure Resume where
  ctx : Ctx := {}
  txCv : CvState := {}
  rxCv : CvState := {}
  points : Option Points := none
  epoch : Word := 0
  indet : Bool := false
  consBad : Bool := false
  deriving DecidableEq, Repr

/-- A START or START_FRESH in progress. -/
structure StartOp where
  fresh : Bool
  phase : StartPhase
  next : Resume
  deriving DecidableEq, Repr

/-- A channel (R81, R82). resumed says that it has entered RUNNING since its book was selected (R109, R112); doneDirty
that a done index has changed and no write carries it yet (R47); saved that the drain in progress has written its
check-value state back (R97); expired that FAB_QUIESCE_CFG expired for its RESET (R82). -/
structure Chan where
  state : ChState := .disabled
  left : ChState := .disabled
  resumed : Bool := false
  startOp : Option StartOp := none
  rejected : Bool := false
  fence : Option FenceInfo := none
  ctx : Ctx := {}
  tx : ChTx := {}
  rx : ChRx := {}
  keptCv : Option (CvState × CvState) := none
  writeBack : Bool := false
  deferred : Bool := false
  idxOut : Bool := false
  idxDirty : Bool := false
  idxTx : Bool := false
  doneDirty : Bool := false
  bkOut : Bool := false
  bkDirty : Bool := false
  bkTx : Bool := false
  epoch : Word := 0
  log : PRing := {}
  saved : Bool := false
  expired : Bool := false
  deriving DecidableEq, Repr

/-- A completion ring (R43, R44, R72 to R79). -/
structure Ring where
  held : Bool := false
  base : DWord := 0
  func : Nat := 0
  sizeLog2 : Nat := 6
  eventEn : Bool := false
  vector : Nat := 0
  modTime : Nat := 0
  modCount : Nat := 0
  stallTime : Nat := 0
  prod : Word := 0
  prodKept : Bool := false
  cons : Word := 0
  reserved : Nat := 0
  consOut : Bool := false
  stalled : Bool := false
  alerted : Bool := false
  since : Nat := 0
  timer : Bool := false
  unacked : List Word := []
  cover : Option Word := none
  memOut : Bool := false
  memDirty : Bool := false
  deriving DecidableEq, Repr

/-- A committed entry of the completion backlog pool, in finish order (R76, R95): its ring, the done index that it
brings (R47), and whether it still holds a slot of its ring in place of a place of the pool. -/
structure PoolEntry where
  ring : Nat
  entry : CEntry
  upTo : Word
  slot : Bool := false
  deriving DecidableEq, Repr

/-- The image in the aux store (spec/03, "The aux image"). -/
structure AuxImage where
  points : SMap Points := []
  prods : SMap Word := []
  pending : List PoolEntry := []
  deriving DecidableEq, Repr

/-- The retention book: the points, recorded in both mirrors (R96), the pending completions, and the condition of
its macros (R99, R432): mirrors in use, spare free, copy running. -/
structure Book where
  points : SMap Points := []
  pool : List PoolEntry := []
  poolReserved : Nat := 0
  oneMirror : Bool := false
  spareUsed : Bool := false
  copying : Bool := false
  deriving DecidableEq, Repr

/-! ### Cellar, rows and ports (spec/04, spec/05) -/

/-- The pool a frame's cells came from (R176), or the transmit region (R173, R23), or none (slow-path frame of the
firmware). -/
inductive CellPool where
  | guaranteed | shared | headroom | transmit
  deriving DecidableEq, Repr

/-- A frame held in the cellar (R17, R19); arrived is the DCLK count at its /S/, and chan the channel of a transmit chain
whose bytes it holds (R23). -/
structure Frame where
  bytes : Bytes
  port : Option Nat := none
  keyPort : Nat := 0
  prio : Nat := 0
  vid : Nat := 0
  ucMark : Bool := false
  stamp : Stamp := {}
  pool : CellPool
  cells : Nat
  refs : Nat
  arrived : Nat := 0
  chan : Option Nat := none
  deriving DecidableEq, Repr

/-- Cells charged to a port and priority, by pool (R176), the receive holds in force (R192) and the xoff state
(R178). -/
structure Charge where
  guar : Nat := 0
  shared : Nat := 0
  headroom : Nat := 0
  holds : Nat := 0
  xoff : Bool := false
  deriving DecidableEq, Repr

/-- Cellar accounting and bank sparing. arrivals lists the frames that passed their checks in the DCLK cycle in
progress, with their numbers: recovery and admission follow at its end (R125, R177). corrections lists, for each
logical bank, the DCLK counts of the corrected reads that spare_thresh may still count (R167); wanting the banks that
wait for a spare while another is copied; poisoned the words, as 4 times their cell and their place in it, that a copy
could not correct (R422). -/
structure Cellar where
  frames : SMap Frame := []
  nextFrame : Nat := 0
  charges : SMap Charge := []
  arrivals : List (Nat × Frame) := []
  txUsed : Nat := 0
  txWaiting : List (Nat × Word) := []
  corrections : SMap (List Nat) := []
  copyBank : Option Nat := none
  copySpare : Nat := 0
  wanting : List Nat := []
  poisoned : List Nat := []
  spare0 : Option Nat := none
  spare1 : Option Nat := none
  deriving DecidableEq, Repr

/-- A port-to-port frame, or a frame of the cellarmaster, in a forwarding queue (R298). item is the same in both copies
of a frame that is sent to a twin pair, and seqTag their sequence number once one of them has started (R120). mirror names
the press that counts a mirror copy as mirror_drop when it is dropped (R282), cm says that the firmware sends the frame
(R455), and dark that both links of its pair were down at the launch (R123). -/
structure FwdItem where
  frame : Option Nat
  bytes : Bytes
  unmodified : Bool
  oneStep : OneStep
  ingress : Stamp
  item : Nat
  seqTag : Option (BitVec 16) := none
  mirror : Option Nat := none
  cm : Bool := false
  dark : Bool := false
  deriving DecidableEq, Repr

/-- A member of a class of a port (R298). -/
inductive Member where
  | chan (c : Nat)
  | fwd
  deriving DecidableEq, Repr

/-- The round of one stage of one class of a port (R302): members with their credit in join order, the turn holder, the
member to which the turn was passed last, and the credit of members that left (R303). -/
structure Round where
  members : List (Member × Int) := []
  turn : Option Member := none
  next : Option Member := none
  left : List (Member × Int) := []
  deriving DecidableEq, Repr

/-- What a row is sending on a port: a chain's copy or a forwarding-queue frame. -/
inductive TxSource where
  | chain (c : Nat) (first : Word)
  | fwd (f : FwdItem)
  deriving DecidableEq, Repr

/-- The frame in a port's transmit staging or on its MII. onMii is false while it is being staged; overrun says that its
gate_overrun has been counted (R317, R319), dark as in TxCopy. crossing and crossed are the PTP time, in 2^-28 ns, and the
DCLK count at which its /S/ crossed the row interface (R347); rxEn and rxMax are the rx_en and max_frame of that moment, by
which a looped frame is checked (R141, R153). -/
structure TxCur where
  src : TxSource
  tc : Nat
  bytes : Bytes
  oneStep : OneStep
  seqTag : Option (BitVec 16)
  onMii : Bool := false
  stamp : Stamp := {}
  overrun : Bool := false
  dark : Bool := false
  crossing : Nat := 0
  crossed : Nat := 0
  rxEn : Bool := false
  rxMax : Nat := 0
  deriving DecidableEq, Repr

/-- One entry of a gate list (R308): its interval in SCLK ticks and its gate states. -/
structure GateEntry where
  interval : Nat
  states : Byte
  deriving DecidableEq, Repr

/-- A committed gate list: entries, cycle in SCLK ticks, and start time S in units of 2^-28 ns (R311). -/
structure GateList where
  entries : List GateEntry
  cycle : Nat
  start : Nat
  deriving DecidableEq, Repr

/-- A port (spec/04, spec/05, spec/09). loads are the pause timers loaded in the DCLK cycle in progress, which take effect
in the next (R190); lpiDue says that the idle time of LPI has expired in that cycle (R156). lastWire is the last frame
whose last byte has left the row. -/
structure Port where
  fault : LinkFault := .ok
  linkUp : Bool := false
  holding : Bool := false
  rxLpi : Bool := false
  txLpi : Nat := 0
  pause : List Nat := [0, 0, 0, 0, 0, 0, 0, 0]
  linkPause : Nat := 0
  loads : List (PauseTimer × Nat) := []
  lpiDue : Bool := false
  due : Byte := 0
  duePause : Bool := false
  queues : SMap (List FwdItem) := []
  rounds : SMap Round := []
  cur : Option TxCur := none
  admin : Option (List GateEntry) := none
  pendingGate : Option GateList := none
  oper : Option GateList := none
  lastWire : Bytes := []
  deriving DecidableEq, Repr

/-- A row: its state (R162, R163), the DCLK count at which row_round was at cycle 0, the twin generator and recovery
history when it is an anchor (R119 to R126). -/
structure Row where
  state : Nat := 0
  roundAt : Nat := 0
  txSeq : BitVec 16 := 0
  recovSeq : BitVec 16 := 0
  hist : BitVec 128 := 0
  takeAny : Bool := true
  gateBusy : Bool := false
  gatePort : Nat := 0
  gateEntries : Nat := 0
  deriving DecidableEq, Repr

/-! ### Presses and tables (spec/06, spec/07, spec/08) -/

/-- What a header copy belongs to: a frame in the cellar, a staged chain, or a chain that has been discarded. -/
inductive Item where
  | frame (id : Nat)
  | chain (c : Nat) (first : Word)
  | gone
  deriving DecidableEq, Repr

/-- The parser and classification registers in force when a copy was dealt (R220, R296). -/
structure PressCfg where
  parse : Word := 0
  tag : Word := 0
  tunnel : Word := 0
  ports : Word := 0
  csum : Word := 0
  slow : Word := 0
  lpm : Word := 0
  cls : Word := 0
  defAct : Word := 0
  mirror : Word := 0
  etypes : List Word := []
  ranges : List (Word × Word) := []
  deriving DecidableEq, Repr

/-- One destination port of a decision, with the frame as it leaves (bytes with FCS for a received frame, without
for a chain); mirror marks a mirror copy (R281). -/
structure PortDest where
  port : Nat
  tc : Nat
  bytes : Bytes
  unmodified : Bool
  oneStep : OneStep
  mirror : Bool := false
  deriving DecidableEq, Repr

/-- What a press decided for a header copy: destinations, among them the exception channel of a slow-path frame
(R217); the cellarmaster's slow path with the reason and the frame as it goes there; or the status with which a chain
settles. again says that the lookups of a chain are repeated (R224); encap is the length that a template adds to a
chain (R289); away that a received frame was given a destination to go to (R164). -/
structure Decision where
  ports : List PortDest := []
  chans : List ChanDest := []
  slow : Option (Nat × Bytes) := none
  status : Option Nat := none
  l3err : Bool := false
  l4err : Bool := false
  again : Bool := false
  encap : Nat := 0
  away : Bool := false
  deriving DecidableEq, Repr

/-- A header copy in the reorder window (R197, R198). -/
structure Copy where
  seq : Nat
  rx : Bool
  row : Nat
  lane : Nat
  item : Item
  cfg : PressCfg
  dealt : Nat
  ready : Option Decision
  deriving DecidableEq, Repr

/-- A header copy waiting at a dealer (R195): handed-over copies keep their order and come first (R426). cycle is the
DCLK count at which it came; port is the arrival port of a received frame, and the channel of a chain. -/
structure WaitCopy where
  handed : Bool
  cycle : Nat
  row : Nat
  rx : Bool
  port : Nat
  item : Item
  deriving DecidableEq, Repr

/-- A policer (R290, R293): committed values, and bucket levels in units of 2^-20 byte with the DCLK count of the
last metering. -/
structure Policer where
  cir : Nat := 0
  pir : Nat := 0
  cbs : Nat := 0
  pbs : Nat := 0
  ctl : Word := 0x08000000
  tc : Nat := 0
  tp : Nat := 0
  last : Nat := 0
  deriving DecidableEq, Repr

/-- A key in a press's learn filter (R237). -/
structure FilterKey where
  fd : Nat
  mac : BitVec 48
  deriving DecidableEq, Repr

/-- A press (spec/06, spec/13 throttling, spec/14 slow units). dropped lists the results still to come that are
discarded: sequence number, lane, and the DCLK count at which the copy was dealt. lanesOut is the mask of the lanes
that are out of service. taken lists the lanes that took a copy, and retired counts the results that retired, in the
DCLK cycle in progress (R195, R197); full says that a result of that cycle retired from a full window (R198). polOld holds,
for a policer committed in that cycle, what frames metered in it still use (R293), and cfgOld, where a register of the
parser or of classification was written in it, what copies dealt in it still use (R220, R296). winLost counts the delivered
slots of the window of slow detection whose results were discarded (R430, R459). -/
structure Press where
  waiting : List WaitCopy := []
  window : List Copy := []
  dropped : List (Nat × Nat × Nat) := []
  full : Bool := false
  cfgOld : Option PressCfg := none
  nextSeq : Nat := 0
  lastLane : Nat := 7
  taken : List Nat := []
  retired : Nat := 0
  stopped : Bool := false
  div : Nat := 0
  stepUp : Bool := false
  winDealt : Nat := 0
  winCycles : Nat := 0
  winWaiting : Nat := 0
  winDelivered : Nat := 0
  winLost : Nat := 0
  downRun : Nat := 0
  slowRun : Nat := 0
  lanesOut : Nat := 0
  selfTest : Bool := false
  ipId : BitVec 16 := 0
  filter : List FilterKey := []
  policers : SMap Policer := []
  polOld : SMap Policer := []
  polHeld : Option (Word × Word × Word × Word) := none
  deriving DecidableEq, Repr

/-- A key of the exact-match table (R225): a MAC key or a host key. -/
inductive EmKey where
  | mac (fd : Nat) (addr : BitVec 48)
  | host (vrf : Nat) (v6 : Bool) (addr : BitVec 128)
  deriving DecidableEq, Repr

/-- An exact-match entry, listed at the number of its (first) slot. -/
structure EmEntry where
  key : EmKey
  action : Word
  vintage : BitVec 16
  isStatic : Bool
  age : Nat
  origin : Nat
  deriving DecidableEq, Repr

/-- An LPM entry, listed at the number of its first row (R263). -/
structure LpmEntry where
  vrf : Nat
  v6 : Bool
  length : Nat
  addr : BitVec 128
  action : Word
  deriving DecidableEq, Repr

/-- Contents of one table replica (table ids 0 to 8). Each map lists the entries written; an unlisted entry is all
zero (empty, invalid). em lists bucket slot 4b+s at 4b+s and overflow entry i at 1048576+i. -/
structure Replica where
  em : SMap EmEntry := []
  lpm : SMap LpmEntry := []
  zones : SMap (Nat × Nat) := []
  vids : SMap Word := []
  domains : SMap Word := []
  groups : SMap Bytes := []
  hops : SMap Bytes := []
  cls : SMap Bytes := []
  templates : SMap Bytes := []
  deriving DecidableEq, Repr

/-- A staged write of a lock (R258): an entry to place, or a key to remove (conditionally on its age). -/
inductive Staged where
  | write (e : EmEntry)
  | delete (k : EmKey) (condAge : Bool)
  deriving DecidableEq, Repr

/-- A lock slot (R258): the ticket of its last grant, the tickets of locks that timed out and have not been granted since
(R260), what is locked, and the staged changes. -/
structure LockSlot where
  ticket : BitVec 8 := 0
  held : Bool := false
  broken : List (BitVec 8) := []
  all : Bool := false
  replica : Nat := 0
  bucket : Nat := 0
  staged : List Staged := []
  deriving DecidableEq, Repr

/-- A table command (R253) waiting for the engine, with the data fetched for it: from the ring, at an index, or
from the cellarmaster firmware. -/
structure TblCmd where
  fromRing : Bool
  index : Word
  bytes : Bytes
  data : Bytes
  fault : Bool
  deriving DecidableEq, Repr

/-- An operation of the engine that runs over time: the command it answers and its operands (R246, R265, R266). -/
structure TblJob where
  cmd : TblCmd
  source : Nat
  targets : List Nat
  zone : Nat
  delta : Int
  deriving DecidableEq, Repr

/-- The result of a command waiting for its data write (R252). -/
structure TblWait where
  cmd : TblCmd
  writesLeft : Nat
  failed : Bool
  vintage : Word
  deriving DecidableEq, Repr

/-- The table engine (R250 to R268). waiting and cmWaiting hold the results of commands of the ring and of the firmware
that wait for their data writes, cmDataOut that data of a command of the firmware is being read, and cmDone the results
that the firmware has received. ringOff and learnOff say that the command ring is not served, or no learn event
posted, until its enable is cleared and set (R251, R240). cmWait lists the firmware's commands that wait for room in
its queue cmQ (R435); zeroAges the replicas whose ages the next sweep clears (R249). -/
structure Engine where
  vintage : Word := 0
  vintages : List Word := [0, 0, 0, 0, 0]
  lfsr : Word := 0
  prod : Word := 0
  done : Word := 0
  fetch : Word := 0
  headOut : Bool := false
  headAgain : Bool := false
  cmdOut : Bool := false
  dataOut : Bool := false
  fetched : Option TblCmd := none
  ringQ : List TblCmd := []
  cmQ : List TblCmd := []
  cmWait : List TblCmd := []
  cmNext : Bool := false
  waiting : Option TblWait := none
  cmWaiting : Option TblWait := none
  cmDataOut : Bool := false
  resultOut : Bool := false
  locks : List LockSlot := List.replicate 16 {}
  sweep : Option TblJob := none
  move : Option TblJob := none
  copy : Option TblJob := none
  shadows : List (Nat × Nat) := []
  copied : List (Nat × Nat) := []
  agePending : Bool := false
  zeroAges : List Nat := []
  hold : Bool := false
  ringOff : Bool := false
  learnOff : Bool := false
  learn : PRing := {}
  cmDone : List Bytes := []
  deriving DecidableEq, Repr

/-! ### Fabric, functions and events (spec/12) -/

/-- What a fabric request is made for (R367). -/
inductive Purpose where
  | chanCtx (c : Nat)
  | cringCtx (c ring : Nat)
  | startIndex (c : Nat)
  | startWrite (c : Nat)
  | liveChan (c : Nat)
  | liveCring (ring : Nat)
  | ringResetWrite (ring : Nat)
  | txProd (c : Nat)
  | rxProd (c : Nat)
  | txDesc (c : Nat)
  | rxDesc (c : Nat)
  | chainDesc (c : Nat) (first : Word) (i : Nat)
  | txData (c : Nat) (first : Word) (frag : Nat)
  | rxData (c : Nat) (serial : Nat)
  | entry (ring : Nat) (e : CEntry) (upTo : Word) (index : Word)
  | indexWrite (c : Nat) (tx : Bool)
  | bookCopy (c : Nat) (tx : Bool)
  | writeBack (c : Nat)
  | consIndex (ring : Nat)
  | ringProd (ring : Nat)
  | cmdHeader
  | cmdRead
  | cmdData
  | cmData
  | tblData (ring : Bool)
  | tblResult
  | tblDone
  | learnEvent (index : Word)
  | learnProd
  | learnCons
  | gateImage (row : Nat)
  | fwImage
  | logRecord (c : Nat) (index : Word)
  | logProd (c : Nat)
  | logCons (c : Nat)
  | snapHeader
  | snapEntries
  | snapFinal
  | sample (index : Word)
  | sampleProd
  | sampleCons
  deriving DecidableEq, Repr

/-- A fabric request: waiting to be issued, or outstanding on a port (R357 to R365). For a read, len says how many
bytes it asks for; a write carries them. left names the port left out at a reissue. -/
structure Req where
  id : Nat
  write : Bool
  func : Nat
  addr : DWord
  len : Nat
  data : Bytes
  purpose : Purpose
  port : Option Nat
  reissued : Bool
  left : Option Nat
  discard : Bool
  deriving DecidableEq, Repr

/-- A timed-out tag in quarantine (R364), or a write granule on which overlapping writes are held (R365). -/
structure Quarantine where
  req : Nat
  port : Nat
  write : Bool
  addr : DWord
  func : Nat
  purpose : Purpose
  deriving DecidableEq, Repr

/-- The fabric side. timeouts lists, for each port, the DCLK counts of its timeouts that fault_thresh may still count
(R366). -/
structure Fabric where
  reqs : List Req := []
  nextId : Nat := 0
  quarantine : List Quarantine := []
  timeouts : SMap (List Nat) := []
  faulted : List Nat := []
  ierr : List Nat := []
  invalBusy : Nat := 0
  hostUp : Bool := false
  deriving DecidableEq, Repr

/-- Why a function is quiesced (R372, R378). -/
inductive QCause where
  | bme | flr | link
  deriving DecidableEq, Repr

/-- A function as the endpoint presents it (R368), and its quiesce (R372 to R379). -/
structure Func where
  present : Bool := false
  vf : Bool := false
  bme : Bool := false
  flr : Bool := false
  msgEn : Bool := false
  adapterMem : Bool := false
  qState : Nat := 0
  cause : QCause := .bme
  flrSignal : Bool := false
  linkLost : Bool := false
  intx : Bool := false
  qTimeout : Bool := false
  abandoned : Nat := 0
  deriving DecidableEq, Repr

/-- What an event comes from (R381, R384, R385). -/
inductive EvSource where
  | ring (n : Nat)
  | block (s : Nat)
  | force
  | deassert
  deriving DecidableEq, Repr

/-- An event waiting to be emitted. -/
structure Event where
  src : EvSource
  func : Nat
  vector : Nat
  deriving DecidableEq, Repr

/-- The kind of an emitted event (ev_kind of spec/17). -/
inductive EvKind where
  | message | intxAssert | intxDeassert
  deriving DecidableEq, Repr

/-- The event interface: events waiting, the last event put on the wires, block sources inside their spacing. -/
structure Events where
  waiting : List Event := []
  out : Option (EvKind × Nat × Nat) := none
  gaps : List Nat := []
  stall : Bool := false
  flrDone : Option Nat := none
  deriving DecidableEq, Repr

/-! ### Time, check-value test path (spec/11, spec/10) -/

/-- A change of PTP time that waits for its SCLK edge (R342 to R345): an increment, a load of seconds, nanoseconds,
fraction and sub, or a step. -/
inductive TimeChange where
  | incr (v : Nat)
  | load (sec ns frac sub : Nat)
  | step (neg : Bool) (sec ns : Nat)
  deriving DecidableEq, Repr

/-- The clock and the time pins (R341 to R356). incr is the increment in force; next lists the changes that wait for
the next SCLK edge, and due those that take effect at the edge just passed, once what is taken at that edge has used
the time before them (R345). held are the values written for a load, cap the values that a read of TIM_SEC_HI
captured, and capNsHeld the nanoseconds that a read of TIM_CAP_SEC holds; wrapped says that ns wrapped to 0 at the
last SCLK edge (R355). -/
structure Time where
  dclk : Nat := 0
  sec : Nat := 0
  ns : Nat := 0
  frac : Nat := 0
  sub : Nat := 0
  incr : Nat := 0x14000000
  next : List TimeChange := []
  due : List TimeChange := []
  wrapped : Bool := false
  heldHi : Word := 0
  heldLo : Word := 0
  heldNs : Word := 0
  heldFrac : Word := 0
  capHi : Word := 0
  capLo : Word := 0
  capNs : Word := 0
  capFrac : Word := 0
  capNsHeld : Option Word := none
  armed : Bool := false
  ppsOut : Bool := false
  trigOut : Bool := false
  deriving DecidableEq, Repr

/-- The check-value units: whether each runs on one copy of its logic (R421), and the software test path (R340). -/
structure CvTest where
  txAlone : Bool := false
  rxAlone : Bool := false
  active : Bool := false
  poly : Nat := 1
  reg : DWord := 0
  deriving DecidableEq, Repr

/-! ### Power, aux island, cages (spec/13) -/

/-- What started a drain (R105). -/
inductive DrainCause where
  | powerFail | softReset (escalated : Bool)
  deriving DecidableEq, Repr

/-- A port cage (R410, R411); cause is fault_cause. latePres, lateFault and lateButton are what the aux island has
latched while RCLK is absent: the presence after its last change, a power fault, and a press of the button; pwrLedHeld
is the level of the power indicator at the loss of RCLK (R390, R490). -/
structure Cage where
  state : Nat := 0
  present : Bool := false
  pg : Bool := false
  faultIn : Bool := false
  pwrOut : Bool := false
  cause : Nat := 0
  latePres : Option Bool := none
  lateFault : Bool := false
  lateButton : Bool := false
  pwrLedHeld : Bool := false
  deriving DecidableEq, Repr

/-- A key slot (R441, R489): 0 empty, 1 loaded, 2 retired; the key; the words presented since the last commit; the
consecutive wrong proofs and the lockout (R446). -/
structure KeySlot where
  state : Nat := 0
  key : BitVec 256 := 0
  words : SMap Word := []
  wrong : Nat := 0
  lockout : Bool := false
  deriving DecidableEq, Repr

/-- A sentinel (R404): its port and the captures queued. -/
structure Sentinel where
  port : Nat := 0
  captures : List Bytes := []
  deriving DecidableEq, Repr

/-- The last wake event: its DCLK count, whether the block was dormant when it came, and the lowest-numbered cage,
sentinel and slot among its sources (R406). -/
structure Woke where
  at_ : Nat
  asleep : Bool := false
  cage : Option Nat := none
  sentinel : Option Nat := none
  slot : Option Nat := none
  deriving DecidableEq, Repr

/-- The aux island: supplies, cages, keys, wake matching and the cellar book store. -/
structure Aux where
  vaux : Bool := true
  vdd : Bool := false
  vdds : SupplyLevel := .out
  rclk : Bool := false
  cages : List Cage := List.replicate 32 {}
  portOpen : Bool := true
  keys : List KeySlot := List.replicate 8 {}
  sentinels : List Sentinel := List.replicate 8 {}
  patterns : List Host.Cell := []
  image : AuxImage := {}
  imageValid : Bool := false
  drainBusy : Bool := false
  source : Nat := 3
  indets : List Nat := []
  dormRet : Bool := false
  woke : Option Woke := none
  deriving DecidableEq, Repr

/-- Power-up and reset condition of the block. vddsKept says that VDDS has kept the SRAM contents; clean that no point
has changed since the last complete drain; lossy that the selected source needs the handling of R107; escalatedAt the
DCLK count at the end of the last escalated soft reset (R423). -/
structure Power where
  por : Bool := true
  ready : Bool := false
  initBusy : Bool := true
  resetBusy : Bool := false
  halted : Bool := false
  drain : Option DrainCause := none
  softCnt : Nat := 0
  cause : Nat := 0
  vddsKept : Bool := false
  clean : Bool := false
  lossy : Bool := false
  source : Nat := 2
  dorm : Nat := 0
  dormWaits : Bool := false
  escalatedAt : Option Nat := none
  escalation : Option (Nat × Nat) := none
  resetAfterRack : Option Bool := none
  deriving DecidableEq, Repr

/-! ### Faults, racking, cellarmaster, sessions (spec/14) -/

/-- One record of the error queue, as its four words read. -/
structure ErrRec where
  w0 : Word := 0
  w1 : Word := 0
  w2 : Word := 0
  w3 : Word := 0
  deriving DecidableEq, Repr

/-- The error queue (R415 to R418). -/
structure ErrQueue where
  recs : SMap ErrRec := []
  posted : Nat := 0
  count : Nat := 0
  deriving DecidableEq, Repr

/-- Racking (R424 to R429). code is that of the error which caused a racking with cause 2. -/
structure Rack where
  state : Nat := 0
  source : Nat := 0
  target : Nat := 4
  cause : Nat := 0
  result : Nat := 0
  abort : Nat := 0
  isolated : Byte := 0
  lastCutover : Nat := 0
  isolateAfter : Bool := false
  code : Nat := 0
  deriving DecidableEq, Repr

/-- A slow-path entry (R434), with the checksum flags as found (R210). -/
structure SlowEntry where
  frame : Nat
  bytes : Bytes
  port : Nat
  press : Nat
  reason : Nat
  stamp : Stamp
  l3err : Bool
  l4err : Bool
  deriving DecidableEq, Repr

/-- The cellarmaster (R433 to R440). previous is the state before a verify pass, loadAddr and loadLen where the image
of the activation in progress stands, image the code region, and sram what local SRAM holds beyond it; restarts the
DCLK counts of recent fault restarts. winSlow, winCmd, winDrop and winRan are what MGT_LOAD_IND will report of the 1
ms window in progress (R437). -/
structure Cm where
  state : Nat := 0
  previous : Nat := 0
  version : Byte := 0
  starts : Nat := 0
  slowQ : List SlowEntry := []
  digest : Bytes := []
  key : Bytes := []
  image : Bytes := []
  sram : SMap Byte := []
  loadAddr : DWord := 0
  loadLen : Nat := 0
  codeBad : Bool := false
  restarts : List Nat := []
  restarting : Bool := false
  entries : List Word := [0, 0, 0, 0]
  winSlow : Nat := 0
  winCmd : Nat := 0
  winDrop : Bool := false
  winRan : Bool := false
  deriving DecidableEq, Repr

/-- Session states (R446). -/
inductive SessState where
  | free | challenged | open
  deriving DecidableEq, Repr

/-- A management session (R443 to R447): expired marks a challenge whose second has passed. -/
structure Session where
  state : SessState := .free
  slot : Nat := 0
  inband : Option (Nat × BitVec 48) := none
  ns : Bytes := []
  nb : Bytes := []
  ks : Bytes := []
  counter : Word := 0
  lastMac : Bytes := []
  lastResp : Bytes := []
  expired : Bool := false
  deriving DecidableEq, Repr

/-- The mailbox and the sessions. -/
structure Mgmt where
  sessions : List Session := List.replicate 4 {}
  mboxMsg : Bytes := List.replicate 128 0
  mboxBusy : Option Bytes := none
  mboxRsp : Option Bytes := none
  deriving DecidableEq, Repr

/-! ### Performance monitoring (spec/15) -/

/-- A programmable or fixed counter (R449, R456, R457): value, configuration registers, preload, and the overflow
seen since the last freeze. -/
structure Counter where
  value : BitVec 48 := 0
  evt : Word := 0x00FFFF00
  filtA : Word := 0xF0FFF000
  filtB : Word := 0
  preLo : Word := 0
  preHi : Word := 0
  ovf : Bool := false
  armed : Bool := false
  deriving DecidableEq, Repr

/-- What a sample record says of the end of its item (R469). upTo is the index after the
item's descriptors, by which the acknowledgement of its completion entry finds it. -/
structure SampleEnd where
  index : Word := 0
  kind : Nat := 2
  cring : Nat := 0
  chan : Nat := 0
  descAddr : DWord := 0
  status : Nat := 0xFF
  func : Nat := 0
  upTo : Word := 0
  deriving DecidableEq, Repr

/-- An item tagged for sampling (R466, R467). fin is set once its completion entry is committed: the sample then ends
with the acknowledgement of that entry. -/
structure Tag where
  kind : Nat
  chan : Nat
  key : Nat
  counter : Nat
  event : Nat
  startAt : Nat
  start : Stamp
  port : Nat
  press : Nat
  tc : Nat
  length : Nat
  fin : Option SampleEnd := none
  deriving DecidableEq, Repr

/-- The monitoring unit: counters, the snapshot in progress, the sample ring and the tags. sampleOff says that records
are dropped until PMU_SAMPLE_CFG.en is cleared and set; resetAt is the DCLK count of the last COUNTER_RESET.
edge holds the counters as the present DCLK cycle found them, once one has changed in it, and ovfNow the counters that
have overflowed in it (R461). -/
structure Pmu where
  counters : SMap Counter := []
  snapBusy : Bool := false
  snapSeq : Word := 0
  snapHead : Bytes := []
  snapBody : Bytes := []
  snapLeft : Nat := 0
  ring : PRing := {}
  sampleOff : Bool := false
  tags : List Tag := []
  resetAt : Nat := 0
  edge : Option (SMap Counter) := none
  ovfNow : List Nat := []
  deriving DecidableEq, Repr

/-! ### The whole machine -/

/-- The block's state. pending is the queue of waiting commands, first in, first out; replicasOld holds, for each replica
changed in the DCLK cycle in progress, what lookups of that cycle still see (R223); freeCount counts the free values drawn
(the model's own field). -/
structure State where
  pending : List Sys2Proof.Instr
  regs : SMap Word
  pairHeld : SMap Word
  pairCap : SMap Word
  rdata : Word
  chans : SMap Chan
  rings : SMap Ring
  book : Book
  cellar : Cellar
  rows : SMap Row
  ports : SMap Port
  presses : SMap Press
  replicas : SMap Replica
  replicasOld : SMap Replica
  engine : Engine
  fabric : Fabric
  funcs : SMap Func
  events : Events
  time : Time
  cvTest : CvTest
  aux : Aux
  power : Power
  errors : ErrQueue
  racking : Rack
  cm : Cm
  mgmt : Mgmt
  pmu : Pmu
  freeCount : Nat
  serial : Nat
  deriving DecidableEq, Repr

/-- Why a step stops the machine. It is safe: it stops where the host chip has presented a response that the wires of
spec/17 cannot carry, which the spec gives no meaning. -/
inductive Fault where
  /-- A read completion carries another number of bytes than the request asked for. Raised by the read-completion
  commands. Safe: R484 fixes the beats of a completion by the enabled bytes of its request. -/
  | wrongLength
  deriving DecidableEq, Repr

/-- Why a step gives a command no meaning. -/
inductive Refusal where
  /-- The command has no meaning yet, rejected by name in its arm of exec. Safe. -/
  | notModelled (mnemonic : String)
  deriving DecidableEq, Repr

/-- The block while power-on reset is held: every register at its reset value, the aux island just started cold,
every channel DISABLED, every queue empty (R14, R389, R393, R471). -/
def State.reset : State where
  pending := []
  regs := []
  pairHeld := []
  pairCap := []
  rdata := 0
  chans := []
  rings := []
  book := {}
  cellar := {}
  rows := []
  ports := []
  presses := []
  replicas := []
  replicasOld := []
  engine := {}
  fabric := {}
  funcs := []
  events := {}
  time := {}
  cvTest := {}
  aux := {}
  power := {}
  errors := {}
  racking := {}
  cm := {}
  mgmt := {}
  pmu := {}
  freeCount := 0
  serial := 0

end Sys2Proof.Machine
end

