-- ==== Sys2Proof/Machine/Ops.lean ====
section
/-!
DEFINITION. The shared operations of the model: sparse maps in one canonical form, byte strings, register and field
access, the keyed parts of the state, raising of block events (R384), the error queue (R415 to R418) and the
counters of performance monitoring (R449 to R458, R466).
-/

namespace Sys2Proof.Machine

/-! ### Sparse maps: strictly rising keys -/

/-- The value listed at n. -/
def mget {α : Type} (n : Nat) : SMap α → Option α
  | [] => none
  | (k, v) :: m => if k = n then some v else mget n m

/-- The map with v listed at n. -/
def mput {α : Type} (n : Nat) (v : α) : SMap α → SMap α
  | [] => [(n, v)]
  | (k, w) :: m =>
    if n < k then (n, v) :: (k, w) :: m
    else if n = k then (n, v) :: m
    else (k, w) :: mput n v m

/-- The map with nothing listed at n. -/
def merase {α : Type} (n : Nat) : SMap α → SMap α
  | [] => []
  | (k, w) :: m => if k = n then m else (k, w) :: merase n m

/-- The value at n where an unlisted number holds d. -/
def mgetD {α : Type} (d : α) (n : Nat) (m : SMap α) : α := (mget n m).getD d

/-- Sets the value at n where an unlisted number holds d: writing d removes the entry. -/
def mputD {α : Type} [DecidableEq α] (d : α) (n : Nat) (v : α) (m : SMap α) : SMap α :=
  if v = d then merase n m else mput n v m

/-- The map without the members that equal d. -/
def trim {α : Type} [DecidableEq α] (d : α) (m : SMap α) : SMap α := m.filter fun e => e.2 != d

/-- Every key of the map is above n, and keys rise strictly. -/
def mrising {α : Type} : Option Nat → SMap α → Bool
  | _, [] => true
  | lo, (k, _) :: m => (match lo with | none => true | some n => decide (n < k)) && mrising (some k) m

/-- The canonical form: keys rise strictly. -/
def msorted {α : Type} (m : SMap α) : Bool := mrising none m

/-! ### Bytes -/

/-- v as n bytes, least significant first (R4). -/
def leBytes : Nat → Nat → Bytes
  | 0, _ => []
  | n + 1, v => BitVec.ofNat 8 v :: leBytes n (v / 256)

/-- The number that little-endian bytes spell (R4). -/
def leNat : Bytes → Nat
  | [] => 0
  | b :: bs => b.toNat + 256 * leNat bs

/-- The number that bytes in network order spell. -/
def beNat (bs : Bytes) : Nat := bs.foldl (fun a b => a * 256 + b.toNat) 0

/-- v as n bytes in network order. -/
def beBytes (n v : Nat) : Bytes := (leBytes n v).reverse

/-- len bytes from offset off, fewer where the string ends. -/
def slice (off len : Nat) (bs : Bytes) : Bytes := (bs.drop off).take len

/-- The n little-endian bytes at off as a number. -/
def leAt (off n : Nat) (bs : Bytes) : Nat := leNat (slice off n bs)

/-- The n network-order bytes at off as a number. -/
def beAt (off n : Nat) (bs : Bytes) : Nat := beNat (slice off n bs)

/-- The bytes with those from off replaced by new. -/
def splice (off : Nat) (new bs : Bytes) : Bytes := bs.take off ++ new ++ bs.drop (off + new.length)

/-- Bits hi down to lo of v (R3). -/
def bits (v hi lo : Nat) : Nat := v / 2 ^ lo % 2 ^ (hi + 1 - lo)

/-- Bit n of v. -/
def bit (v n : Nat) : Bool := v.testBit n

/-- 1 or 0. -/
def b2n (b : Bool) : Nat := if b then 1 else 0

/-- v with bit n set or cleared. -/
def setBit (v n : Nat) (b : Bool) : Nat :=
  if v.testBit n = b then v else if b then v + 2 ^ n else v - 2 ^ n

/-- v held to the range lo to hi (fields whose values outside act as the nearer bound). -/
def clamp (lo hi v : Nat) : Nat := if v < lo then lo else if hi < v then hi else v

/-- The number of descriptors from cons up to prod, modulo 2^32 (R50). -/
def used (prod cons : Word) : Nat := (prod - cons).toNat

/-- The later of two free-running indices (fallback rule of spec/03). -/
def later (a b : Word) : Word := if (a - b).toNat < 0x80000000 then a else b

/-! ### Registers -/

/-- The field's value in a register word. -/
def Fld.read (f : Fld) (w : Word) : Nat := bits w.toNat f.hi f.lo

/-- The register word with the field set to v, cut to the field's width. -/
def Fld.write (f : Fld) (v : Nat) (w : Word) : Word :=
  BitVec.ofNat 32 (w.toNat - f.read w * 2 ^ f.lo + v % 2 ^ (f.hi + 1 - f.lo) * 2 ^ f.lo)

/-- The word that register r holds. -/
def regW (r : Reg) (s : State) : Word := mgetD r.rst r.off s.regs

/-- Sets register r. -/
def setReg (r : Reg) (w : Word) (s : State) : State := { s with regs := mputD r.rst r.off w s.regs }

/-- The value of a field. -/
def fget (f : Fld) (s : State) : Nat := f.read (regW f.reg s)

/-- Whether a one-bit field is 1. -/
def fbit (f : Fld) (s : State) : Bool := fget f s != 0

/-- Sets a field. -/
def fset (f : Fld) (v : Nat) (s : State) : State := setReg f.reg (f.write v (regW f.reg s)) s

/-- Sets bit n of a field of bits (W1C event bits and latched status). -/
def fsetBit (f : Fld) (n : Nat) (s : State) : State := fset f (setBit (fget f s) n true) s

/-- Clears bit n of a field of bits. -/
def fclrBit (f : Fld) (n : Nat) (s : State) : State := fset f (setBit (fget f s) n false) s

/-- Adds n to a counting field, which saturates at its largest value. -/
def fadd (f : Fld) (n : Nat) (s : State) : State :=
  fset f (min (fget f s + n) (2 ^ (f.hi + 1 - f.lo) - 1)) s

/-- The 64-bit value of a register pair (R10). -/
def pairVal (lo hi : Reg) (s : State) : DWord := BitVec.ofNat 64 ((regW lo s).toNat + (regW hi s).toNat * 2 ^ 32)

/-! ### The keyed parts of the state -/

/-- Channel c. -/
def chan (c : Nat) (s : State) : Chan := mgetD {} c s.chans
/-- Sets channel c. -/
def setChan (c : Nat) (ch : Chan) (s : State) : State := { s with chans := mputD {} c ch s.chans }
/-- Changes channel c. -/
def modChan (c : Nat) (f : Chan → Chan) (s : State) : State := setChan c (f (chan c s)) s

/-- Completion ring n. -/
def ring (n : Nat) (s : State) : Ring := mgetD {} n s.rings
/-- Sets completion ring n. -/
def setRing (n : Nat) (r : Ring) (s : State) : State := { s with rings := mputD {} n r s.rings }
/-- Changes completion ring n. -/
def modRing (n : Nat) (f : Ring → Ring) (s : State) : State := setRing n (f (ring n s)) s

/-- Row r. -/
def row (r : Nat) (s : State) : Row := mgetD {} r s.rows
/-- Sets row r. -/
def setRow (r : Nat) (x : Row) (s : State) : State := { s with rows := mputD {} r x s.rows }
/-- Changes row r. -/
def modRow (r : Nat) (f : Row → Row) (s : State) : State := setRow r (f (row r s)) s

/-- Global port g. -/
def port (g : Nat) (s : State) : Port := mgetD {} g s.ports
/-- Sets global port g. -/
def setPort (g : Nat) (p : Port) (s : State) : State := { s with ports := mputD {} g p s.ports }
/-- Changes global port g. -/
def modPort (g : Nat) (f : Port → Port) (s : State) : State := setPort g (f (port g s)) s

/-- Press k. -/
def press (k : Nat) (s : State) : Press := mgetD {} k s.presses
/-- Sets press k. -/
def setPress (k : Nat) (p : Press) (s : State) : State := { s with presses := mputD {} k p s.presses }
/-- Changes press k. -/
def modPress (k : Nat) (f : Press → Press) (s : State) : State := setPress k (f (press k s)) s

/-- The table replica of press k. -/
def replica (k : Nat) (s : State) : Replica := mgetD {} k s.replicas
/-- The table replica of press k as a lookup of the DCLK cycle in progress sees it: before the changes of that cycle
(R223). -/
def replicaSeen (k : Nat) (s : State) : Replica := (mget k s.replicasOld).getD (replica k s)
/-- Sets the table replica of press k; lookups see it from the next DCLK cycle on (R223). -/
def setReplica (k : Nat) (r : Replica) (s : State) : State :=
  { s with replicas := mputD {} k r s.replicas, replicasOld := mput k (replicaSeen k s) s.replicasOld }
/-- Changes the table replica of press k. -/
def modReplica (k : Nat) (f : Replica → Replica) (s : State) : State := setReplica k (f (replica k s)) s

/-- Function f. -/
def func (f : Nat) (s : State) : Func := mgetD {} f s.funcs
/-- Sets function f. -/
def setFunc (f : Nat) (x : Func) (s : State) : State := { s with funcs := mputD {} f x s.funcs }
/-- Changes function f. -/
def modFunc (f : Nat) (g : Func → Func) (s : State) : State := setFunc f (g (func f s)) s

/-- The four points of channel c. -/
def points (c : Nat) (s : State) : Points := mgetD {} c s.book.points

/-- Counter n (R449). -/
def counter (n : Nat) (s : State) : Counter := mgetD {} n s.pmu.counters
/-- Keeps the counters as they stand when the DCLK cycle begins (R461). -/
def Pmu.keepEdge (p : Pmu) : Pmu := { p with edge := some (p.edge.getD p.counters) }

/-- Sets counter n. -/
def setCounter (n : Nat) (c : Counter) (s : State) : State :=
  { s with pmu := { s.pmu.keepEdge with counters := mputD {} n c s.pmu.counters } }

/-- The i-th member of a list with d beyond its end. -/
def nth {α : Type} (d : α) (i : Nat) (l : List α) : α := (l[i]?).getD d

/-- The list with its i-th member replaced. -/
def setNth {α : Type} : Nat → α → List α → List α
  | _, _, [] => []
  | 0, v, _ :: l => v :: l
  | n + 1, v, x :: l => x :: setNth n v l

/-! ### Block events (R381, R384) -/

/-- Adds an event to those waiting, unless one of the same source waits already (R381). A forced event merges with a
waiting event of its function and vector (R385). -/
def addEvent (e : Event) (s : State) : State :=
  if s.events.waiting.any (fun w => w.src == e.src && (e.src != .force && e.src != .deassert || w == e)) then s
  else { s with events := { s.events with waiting := s.events.waiting ++ [e] } }

/-- Block source n has cause to raise (R384): src_pending sets, and an event waits when src_en allows it. -/
def raiseSource (n : Nat) (s : State) : State :=
  let s := fsetBit EVT_STAT.src_pending n s
  if (fget EVT_BLOCK_VEC.src_en s).testBit n then
    addEvent ⟨.block n, fget EVT_BLOCK_VEC.function s, min (fget EVT_BLOCK_VEC.base_vector s) 2040 + n⟩ s
  else s

/-! ### Counters (R449 to R458, R466) -/

/-- The unit that an event belongs to (R449). -/
inductive CUnit where
  | row (r : Nat)
  | press (k : Nat)
  | fabric
  | cellar
  | global
  deriving DecidableEq, Repr

/-- The first counter of a unit and how many it has (R449). -/
def CUnit.range : CUnit → Nat × Nat
  | .row r => (r * 16, 16)
  | .press k => (512 + k * 32, 32)
  | .fabric => (672, 32)
  | .cellar => (704, 16)
  | .global => (720, 16)

/-- Whether counter n, of the 736 that there are, is one of the unit's (R449). -/
def CUnit.has (u : CUnit) (n : Nat) : Bool := u.range.1 ≤ n && n < u.range.1 + u.range.2 && n < 736

/-- Whether counter n is fixed (R451). -/
def fixedCounter (n : Nat) : Bool := n == 720 || (512 ≤ n && n < 672 && 28 ≤ (n - 512) % 32)

/-- The attributes of an event (R455). port is the port within the row or the fabric port; filtered is false for
attribute "None"; item is what a sample would follow (R467), its counter and event left at 0. -/
structure Attr where
  priv : Nat := 0
  func : Option Nat := none
  chan : Option Nat := none
  cring : Option Nat := none
  addr : Option Nat := none
  tc : Option Nat := none
  port : Option Nat := none
  filtered : Bool := true
  item : Option Tag := none

/-- Whether a value lies in a range; an absent value does not (R456). -/
def inRange (lo hi : Nat) : Option Nat → Bool
  | none => false
  | some v => lo ≤ v && v ≤ hi

/-- The address filter of a counter (R456). -/
def Counter.addrPass (c : Counter) (a : Attr) : Bool :=
  let r := bits c.filtB.toNat 29 0
  match bits c.filtB.toNat 31 30 with
  | 0 => true
  | 1 => inRange (bits r 12 0) (bits r 25 13) a.chan
  | 2 => inRange (bits r 12 0) (bits r 25 13) a.cring
  | _ =>
    let w := clamp 24 47 (bits r 29 24)
    match a.addr with
    | none => false
    | some x => x < 2 ^ 48 && x / 2 ^ w == bits r 23 0 * 2 ^ 24 / 2 ^ w

/-- Whether every filter of a counter passes an event (R450, R456). -/
def Counter.passes (u : CUnit) (c : Counter) (a : Attr) : Bool :=
  let e := c.evt.toNat
  let unitOk := match u, a.port with
    | .row _, some p => (bits e 15 8).testBit p
    | .fabric, some p => e.testBit 15 || bits e 11 8 == p
    | _, _ => true
  unitOk && (!a.filtered ||
    ((bits c.filtA.toNat 31 28).testBit a.priv &&
     (!c.filtA.toNat.testBit 24 || inRange (bits c.filtA.toNat 11 0) (bits c.filtA.toNat 23 12) a.func) &&
     c.addrPass a &&
     (bits e 23 16 == 0xFF || (match a.tc with | none => false | some t => (bits e 23 16).testBit t))))

/-- A sample is lost (R466). -/
def sampleLost (s : State) : State := fadd PMU_SAMPLE_STAT.lost 1 s

/-- Counters armed and items tagged, which together never exceed 64 (R466). -/
def armedOrTagged (s : State) : Nat := s.pmu.tags.length + (s.pmu.counters.filter (·.2.armed)).length

/-- Counter n has overflowed in the DCLK cycle in progress. -/
def noteOvf (n : Nat) (s : State) : State := { s with pmu := { s.pmu with ovfNow := s.pmu.ovfNow ++ [n] } }

/-- Adds inc to counter n (R457): on reaching 2^48 it reloads from its preload, sets its bit of PMU_OVF, raises
source 4 when ovf_int is 1, and arms sampling when sample_en is 1 and the event has an item (R466). -/
def addCount (n inc : Nat) (item : Bool) (s : State) : State :=
  let c := counter n s
  let v := c.value.toNat + inc
  if 736 ≤ n then s
  else if v < 2 ^ 48 then setCounter n { c with value := BitVec.ofNat 48 v } s
  else
    let pre := c.preLo.toNat + bits c.preHi.toNat 15 0 * 2 ^ 32
    let arm := item && c.evt.toNat.testBit 29
    let lose := arm && (c.armed || 64 ≤ armedOrTagged s)
    let s := setCounter n { c with value := BitVec.ofNat 48 (pre + v - 2 ^ 48), ovf := true,
                                   armed := c.armed || (arm && !lose) } s
    let s := fsetBit (PMU_OVF.ovf (n / 32)) (n % 32) (noteOvf n s)
    let s := if c.evt.toNat.testBit 30 then raiseSource 4 s else s
    if lose then sampleLost s else s

/-- Whether the events that counter n counts have an item: letter s in the table of R454. -/
def itemEvent (n : Nat) (s : State) : Bool :=
  let c := bits (counter n s).evt.toNat 7 0
  let within := fun (lo hi : Nat) => decide (lo ≤ c) && decide (c ≤ hi)
  if n < 512 then within 0x01 0x04 || within 0x11 0x24
  else if n < 672 then within 0x01 0x03 || within 0x11 0x1E || within 0x21 0x2E || within 0x34 0x3C
  else if n < 704 then within 0x13 0x15
  else if n < 720 then within 0x01 0x07 || c == 0x0A
  else false

/-- Tags the event's item for an armed counter and disarms the counter (R466). -/
def tagItem (n : Nat) (a : Attr) (s : State) : State :=
  match a.item with
  | none => s
  | some t =>
    let c := counter n s
    if c.armed then
      let s := setCounter n { c with armed := false } s
      { s with pmu := { s.pmu with tags := s.pmu.tags ++ [{ t with counter := n, event := bits c.evt.toNat 7 0 }] } }
    else s

/-- The event with the given code of a unit, adding inc to every enabled counter that chooses it and whose filters
pass it (R450, R454, R456). In dormancy nothing is counted (R452). -/
def count (u : CUnit) (code inc : Nat) (a : Attr) (s : State) : State :=
  if fbit PMU_CTL.en s && s.power.dorm != 3 then
    s.pmu.counters.foldl (fun s e =>
      if u.has e.1 && !fixedCounter e.1 && e.2.evt.toNat.testBit 31 && bits e.2.evt.toNat 7 0 == code
          && code != 0 && e.2.passes u a then
        addCount e.1 inc a.item.isSome (tagItem e.1 a s)
      else s) s
  else s

/-! ### The error queue (R415 to R418) -/

/-- Posts an error record with its tier, action, code, unit and info word, or counts it in ovf_cnt when 64 records
are held (R415 to R417). A posted record raises source 0 (R418). -/
def postError (tier action code unit info : Nat) (s : State) : State :=
  if 64 ≤ s.errors.count then fadd GLB_ERR_STAT.ovf_cnt 1 s
  else
    let slot := s.errors.posted % 64
    let first := !fbit GLB_ERR_STAT.first_valid s
    let r : ErrRec :=
      { w0 := BitVec.ofNat 32 (2 ^ 31 + b2n first * 2 ^ 30 + tier * 2 ^ 28 + action * 2 ^ 24 + code * 2 ^ 16 + unit)
        w1 := BitVec.ofNat 32 info
        w2 := BitVec.ofNat 32 s.time.ns
        w3 := BitVec.ofNat 32 s.time.sec }
    let s := { s with errors :=
      { recs := mputD {} slot r s.errors.recs, posted := s.errors.posted + 1, count := s.errors.count + 1 } }
    let s := if first then fset GLB_ERR_STAT.first_valid 1 (fset GLB_ERR_STAT.first_slot slot s) else s
    raiseSource 0 (count .global 0x01 1 {} s)

/-- A corrected error (R415): counted always, recorded when log_corr is 1. -/
def corrected (unit : Nat) (s : State) : State :=
  let s := fadd GLB_ERR_CTL.corr_cnt 1 s
  if fbit GLB_ERR_CTL.log_corr s then postError 0 1 0x01 unit 0 s else s

/-- Clears the valid bit of records from slot i on, n of them. -/
def clearRecs : Nat → Nat → SMap ErrRec → SMap ErrRec
  | 0, _, m => m
  | n + 1, i, m =>
    let r := mgetD {} (i % 64) m
    clearRecs n (i + 1) (mputD {} (i % 64) { r with w0 := r.w0 &&& 0x7FFFFFFF#32 } m)

/-- Frees the n oldest error records, or all when fewer are held (R418). -/
def popErrors (n : Nat) (s : State) : State :=
  let n := min n s.errors.count
  { s with errors :=
    { s.errors with recs := clearRecs n (s.errors.posted - s.errors.count) s.errors.recs,
                    count := s.errors.count - n } }

/-! ### Time (R341, R347) -/

/-- PTP time now, as a stamp. -/
def now (s : State) : Stamp := ⟨s.time.sec, s.time.ns, s.time.frac⟩

/-- An item that starts now (R467). -/
def began (s : State) : Began := ⟨s.time.dclk, now s⟩

/-- Whether the block runs: ready, not halted and not dormant (R392, R106, R402). -/
def live (s : State) : Bool := s.power.ready && !s.power.halted && s.power.dorm != 3

/-- Whether the register port reaches every register: the block runs and no soft reset is in progress (R392, R474). -/
def regLive (s : State) : Bool := live s && !s.power.resetBusy

/-- Whether the clocks of the block run, in service, in dormancy or in a drain (R391, R106). -/
def auxPort (s : State) : Bool := s.power.ready && !s.power.halted

/-- Whether the register port answers GLB and AUX registers (R391, R392). A halted block still answers them, as one that
is not ready does. -/
def glbPort (s : State) : Bool := s.power.ready

end Sys2Proof.Machine
end

