-- ==== Sys2Proof/Machine/Parse.lean ====
section
/-!
DEFINITION. The parser lane of spec/06_press_parsing.md: the header chain of a frame (R202 to R207), level by level,
with the slow-path reasons met while parsing in their order (R214, R215).
-/

namespace Sys2Proof.Machine

/-! ### What the parser hands on -/

/-- A VLAN tag: the offset of its TPID, the TPID and the TCI. -/
structure VTag where
  off : Nat
  tpid : Nat
  tci : Nat
  deriving DecidableEq, Repr

/-- An IP header with the headers that belong to it: hlen reaches to the end of its options or extension headers;
frag is 0, 1 for a first and 2 for a later fragment; stop is the offset at which the payload that its length gives ends;
routing says that a routing header has segments left. -/
structure IpHdr where
  v6 : Bool
  off : Nat
  hlen : Nat
  proto : Nat
  src : Nat
  dst : Nat
  dscp : Nat
  ecn : Nat
  ttl : Nat
  frag : Nat := 0
  stop : Nat := 0
  routing : Bool := false
  deriving DecidableEq, Repr

/-- A TCP, UDP, ICMP or ICMPv6 header: sport and dport hold the ports, or type and code. -/
structure L4Hdr where
  proto : Nat
  off : Nat
  hlen : Nat
  sport : Nat
  dport : Nat
  flags : Nat := 0
  deriving DecidableEq, Repr

/-- The kinds of tunnel header (R202). -/
inductive TunKind where
  | vxlan | geneve | gre | nvgre
  deriving DecidableEq, Repr

/-- A tunnel header: where it ends, whether its payload is Ethernet, and its VNI or VSID. -/
structure TunHdr where
  kind : TunKind
  stop : Nat
  ether : Bool
  vni : Nat
  deriving DecidableEq, Repr

/-- One level of a frame. eth is the offset of its Ethernet header, when it has one; etype the Ethertype after its
tags, 0 for a length; known says that the Ethertype's header is as R204 asks; custom that it is a custom type with
action 1; ptp the offset of a PTP message, and ptpAt that offset in the frame as parsed; badTcp a TCP header with a
data offset below 5; udpTunnel that the destination port of the UDP header names a VXLAN or Geneve tunnel, whether or
not that header could be read. -/
structure Level where
  eth : Option Nat := none
  tags : List VTag := []
  labels : Nat := 0
  etype : Nat := 0
  etypeSet : Bool := false
  known : Bool := true
  custom : Bool := false
  ip : Option IpHdr := none
  l4 : Option L4Hdr := none
  tun : Option TunHdr := none
  ptp : Option Nat := none
  ptpAt : Nat := 0
  badTcp : Bool := false
  udpTunnel : Bool := false
  deriving DecidableEq, Repr

/-- Which header a parse-depth stop cut off, as far as checksums care (R212): none or one behind which no TCP or UDP
header can stand, an IPv4 header, or another. -/
inductive CutHdr where
  | none | ipv4 | other
  deriving DecidableEq, Repr

/-- The result of parsing: levels from the outermost, reasons in the order met, and whether a custom Ethertype drops
the frame. -/
structure Parsed where
  levels : List Level := []
  reasons : List Nat := []
  drop : Bool := false
  cut : CutHdr := .none
  deriving DecidableEq, Repr

/-! ### Registers (R206, spec/06 field tables) -/

/-- The parse depth in bytes. -/
def PressCfg.depth (c : PressCfg) : Nat := clamp 64 512 (PRS_PARSE_CFG.depth 0 |>.read c.parse) / 16 * 16

/-- The largest number of tags per level. -/
def PressCfg.maxVlan (c : PressCfg) : Nat := clamp 1 4 ((PRS_TAG_CFG.max_vlan 0).read c.tag)

/-- The largest number of MPLS labels. -/
def PressCfg.maxMpls (c : PressCfg) : Nat := clamp 1 4 ((PRS_TAG_CFG.max_mpls 0).read c.tag)

/-- The number of tunnels entered. -/
def PressCfg.levels (c : PressCfg) : Nat := min 2 ((PRS_TUNNEL_CFG.levels 0).read c.tunnel)

/-- The Ethertypes that name a header of R202. -/
def knownEtypes : List Nat :=
  [0x8100, 0x88A8, 0x8847, 0x8848, 0xF1C1, 0x0800, 0x86DD, 0x0806, 0x88CC, 0x88F7, 0x8808]

/-- Whether an Ethertype is that of a VLAN tag (R202, R205). An extra_tpid that is also the etype of an enabled
PRS_ETYPE_CFG entry, or 0x88B5 on an in-band port, is a tag (DESIGN CHOICE, log entry 48: R202 and R207 each defer to
the other there). -/
def PressCfg.isTag (c : PressCfg) (t : Nat) : Bool :=
  t == 0x8100 || t == 0x88A8
    || ((PRS_TAG_CFG.extra_tpid_en 0).read c.tag != 0 && t == (PRS_TAG_CFG.extra_tpid 0).read c.tag
        && 0x0600 ≤ t && !knownEtypes.contains t)

/-- The action and header length of the first custom entry that matches an Ethertype (R207). -/
def PressCfg.custom (c : PressCfg) (t : Nat) : Option (Nat × Nat) :=
  if knownEtypes.contains t || c.isTag t || t < 0x0600 then none
  else
    (c.etypes.find? fun w => (PRS_ETYPE_CFG.en 0 0).read w != 0 && (PRS_ETYPE_CFG.etype 0 0).read w == t).map
      fun w => ((PRS_ETYPE_CFG.action 0 0).read w, max 2 ((PRS_ETYPE_CFG.hdr_len 0 0).read w / 2 * 2))

/-! ### The walk -/

/-- What the parser reads next. etype carries the Ethertype just read and the offset after it; mac says that a value
below 0x0600 is a length. -/
inductive Pos where
  | eth (off : Nat)
  | etype (t off : Nat) (mac : Bool)
  | mpls (off : Nat)
  | ipv4 (off : Nat)
  | ipv6 (off : Nat)
  | ext (nh off seen : Nat)
  | l4 (proto off : Nat)
  | stop
  deriving DecidableEq, Repr

/-- The state of the walk: levels finished, the level in progress and what has been met. -/
structure Walk where
  done : List Level := []
  cur : Level := {}
  reasons : List Nat := []
  drop : Bool := false
  cut : CutHdr := .none
  deriving DecidableEq, Repr

/-- What the parser is given: the registers, whether in-band management is accepted at the arrival port, and the frame
without its FCS. -/
structure ParseEnv where
  cfg : PressCfg
  inband : Bool
  bs : Bytes

/-- Whether a header that ends at an offset can be read (R206). -/
def ParseEnv.fits (e : ParseEnv) (stop : Nat) : Bool := stop ≤ e.cfg.depth && stop ≤ e.bs.length && stop ≤ 512

/-- The walk with one more reason met. -/
def Walk.meet (r : Nat) (w : Walk) : Walk := { w with reasons := w.reasons ++ [r] }

/-- The walk stopped by the parse depth (R206), at a header of kind k. -/
def Walk.tooDeep (k : CutHdr) (w : Walk) : Walk × Pos := ({ w.meet 6 with cut := k }, .stop)

/-- The walk with the current level changed. -/
def Walk.mod (f : Level → Level) (w : Walk) : Walk := { w with cur := f w.cur }

/-- The walk at the start of the next level. -/
def Walk.next (w : Walk) : Walk := { w with done := w.done ++ [w.cur], cur := {} }

/-- Notes the Ethertype of the level, the first that is not a tag's. -/
def Walk.setEtype (t : Nat) (w : Walk) : Walk :=
  if w.cur.etypeSet then w else w.mod fun l => { l with etype := t, etypeSet := true }

/-- A tunnel header that was read: at the level limit its payload is not entered (R203). -/
def Walk.enter (e : ParseEnv) (t : TunHdr) (inner : Pos) (w : Walk) : Walk × Pos :=
  let w := w.mod fun l => { l with tun := some t }
  if e.cfg.levels ≤ w.done.length then (w, .stop)
  else
    match inner with
    | .stop => (w, .stop)
    | p => (w.next, p)

/-- An Ethernet header. -/
def stepEth (e : ParseEnv) (w : Walk) (off : Nat) : Walk × Pos :=
  if !e.fits (off + 14) then w.tooDeep .other
  else (w.mod fun l => { l with eth := some off }, .etype (beAt (off + 12) 2 e.bs) (off + 14) true)

/-- LLC and SNAP behind a length (R202). -/
def stepLlc (e : ParseEnv) (w : Walk) (off : Nat) : Walk × Pos :=
  if (PRS_PARSE_CFG.llc_snap_en 0).read e.cfg.parse = 0 then (w.setEtype 0, .stop)
  else if !e.fits (off + 3) then w.tooDeep .other
  else if beAt off 3 e.bs != 0xAAAA03 then (w.setEtype 0, .stop)
  else if !e.fits (off + 8) then w.tooDeep .other
  else if beAt (off + 3) 3 e.bs != 0 then (w.setEtype 0, .stop)
  else (w, .etype (beAt (off + 6) 2 e.bs) (off + 8) false)

/-- What follows an Ethertype. A tag past max_vlan meets reason 8 and is not read: reason 6 is not tested at it,
though it may end past the depth too (DESIGN CHOICE: R214 tests reasons in rising order at one header, but does not
say whether a header past its limit must be read). Behind a tag or an R-TAG a value below 0x0600 is a length, as
behind the addresses; behind SNAP or a custom header it is an unknown Ethertype (DESIGN CHOICE, log entry 48: R202
does not say). -/
def stepEtype (e : ParseEnv) (w : Walk) (t off : Nat) (mac : Bool) : Walk × Pos :=
  let c := e.cfg
  if mac && t < 0x0600 then stepLlc e w off
  else if c.isTag t then
    if c.maxVlan ≤ w.cur.tags.length then (w.meet 8, .stop)
    else if !e.fits (off + 4) then w.tooDeep .other
    else (w.mod fun l => { l with tags := l.tags ++ [⟨off - 2, t, beAt off 2 e.bs⟩] },
          .etype (beAt (off + 2) 2 e.bs) (off + 4) mac)
  else if t = 0xF1C1 then
    if !e.fits (off + 6) then w.tooDeep .other else (w, .etype (beAt (off + 4) 2 e.bs) (off + 6) mac)
  else
    let w := w.setEtype t
    match t with
    | 0x8847 => (w, .mpls off)
    | 0x8848 => (w, .mpls off)
    | 0x0800 => (w, .ipv4 off)
    | 0x86DD => (w, .ipv6 off)
    | 0x0806 => (w.meet 12, .stop)
    | 0x88CC => (w.meet 11, .stop)
    | 0x88F7 => (Walk.meet 14 (w.mod fun l => { l with ptp := some off, ptpAt := off }), .stop)
    | _ =>
      if t = 0x88B5 ∧ e.inband then (w.meet 13, .stop)
      else
        match c.custom t with
        | none => (w.mod fun l => { l with known := false }, .stop)
        | some (0, _) => (w.mod fun l => { l with known := false }, .stop)
        | some (1, n) =>
          if !e.fits (off + n) then w.tooDeep .other
          else (w.mod fun l => { l with custom := true }, .etype (beAt (off + n - 2) 2 e.bs) (off + n) false)
        | some (2, _) => ({ w.meet 10 with cur := { w.cur with known := false } }, .stop)
        | some _ => ({ w with drop := true }, .stop)

/-- One MPLS label. A label past max_mpls meets reason 8 alone, as a tag past its limit does. With mpls_guess, a first
nibble that lies beyond the depth or the frame makes the payload terminal and meets no reason (DESIGN CHOICE: R202
names no header that must be read there, so that R206 may or may not apply). -/
def stepMpls (e : ParseEnv) (w : Walk) (off : Nat) : Walk × Pos :=
  if e.cfg.maxMpls ≤ w.cur.labels then (w.meet 8, .stop)
  else if !e.fits (off + 4) then w.tooDeep .other
  else
    let w := w.mod fun l => { l with labels := l.labels + 1 }
    if !(beAt off 4 e.bs).testBit 8 then (w, .mpls (off + 4))
    else if (PRS_TAG_CFG.mpls_guess 0).read e.cfg.tag = 0 then (w, .stop)
    else if !e.fits (off + 5) then (w, .stop)
    else
      match beAt (off + 4) 1 e.bs / 16 with
      | 4 => (w, .ipv4 (off + 4))
      | 6 => (w, .ipv6 (off + 4))
      | _ => (w, .stop)

/-- An IPv4 header (R202, R204). Reasons 1, 2 and 6 are met in that order. The walk ends at a fragment, a first one too
(DEDUCED: only the IPv6 row of R202 says that parsing goes on behind one). -/
def stepIpv4 (e : ParseEnv) (w : Walk) (off : Nat) : Walk × Pos :=
  let bs := e.bs
  if !e.fits (off + 20) then w.tooDeep .ipv4
  else
    let ihl := beAt off 1 bs % 16
    if beAt off 1 bs / 16 != 4 || ihl < 5 then (w.mod fun l => { l with known := false }, .stop)
    else
      let fo := beAt (off + 6) 2 bs
      let frag := if fo % 0x2000 ≠ 0 then 2 else if fo.testBit 13 then 1 else 0
      let w := if frag = 0 then w else w.meet 1
      let w := if ihl = 5 then w else w.meet 2
      if !e.fits (off + 4 * ihl) then w.tooDeep .ipv4
      else
        let h : IpHdr :=
          { v6 := false, off := off, hlen := 4 * ihl, proto := beAt (off + 9) 1 bs, src := beAt (off + 12) 4 bs,
            dst := beAt (off + 16) 4 bs, dscp := beAt (off + 1) 1 bs / 4, ecn := beAt (off + 1) 1 bs % 4,
            ttl := beAt (off + 8) 1 bs, frag := frag, stop := off + beAt (off + 2) 2 bs }
        let w := w.mod fun l => { l with ip := some h }
        if frag = 0 then (w, .l4 h.proto (off + 4 * ihl)) else (w, .stop)

/-- The fixed part of an IPv6 header. -/
def stepIpv6 (e : ParseEnv) (w : Walk) (off : Nat) : Walk × Pos :=
  let bs := e.bs
  if !e.fits (off + 40) then w.tooDeep .other
  else if beAt off 1 bs / 16 != 6 then (w.mod fun l => { l with known := false }, .stop)
  else
    let tc := beAt off 2 bs / 16 % 256
    let h : IpHdr :=
      { v6 := true, off := off, hlen := 40, proto := beAt (off + 6) 1 bs, src := beAt (off + 8) 16 bs,
        dst := beAt (off + 24) 16 bs, dscp := tc / 4, ecn := tc % 4, ttl := beAt (off + 7) 1 bs,
        stop := off + 40 + beAt (off + 4) 2 bs }
    (w.mod fun l => { l with ip := some h }, .ext h.proto (off + 40) 0)

/-- Whether a next-header value names an extension header of R202. -/
def isExt (nh : Nat) : Bool := nh == 0 || nh == 43 || nh == 60 || nh == 44

/-- An IPv6 extension header, or what follows the last one (R202, reasons 1, 3 and 6). -/
def stepExt (e : ParseEnv) (w : Walk) (nh off seen : Nat) : Walk × Pos :=
  let bs := e.bs
  if !isExt nh then
    (w, .l4 nh off)
  else
    let w := if nh = 44 then w.meet 1 else w
    if 2 ≤ seen then (w.meet 3, .stop)
    else if !e.fits (off + 8) then w.tooDeep .other
    else
      let n := if nh = 44 then 8 else (beAt (off + 1) 1 bs + 1) * 8
      if !e.fits (off + n) then w.tooDeep .other
      else
        let next := beAt off 1 bs
        let later := nh == 44 && beAt (off + 2) 2 bs / 8 != 0
        let seg := nh == 43 && beAt (off + 3) 1 bs != 0
        let w := w.mod fun l => { l with ip := l.ip.map fun h =>
          { h with hlen := h.hlen + n, proto := next, routing := h.routing || seg,
                   frag := (if nh = 44 then if later then 2 else 1 else h.frag) } }
        if later then (w, .stop) else (w, .ext next (off + n) (seen + 1))

/-- The GRE header (R202, R204). -/
def stepGre (e : ParseEnv) (w : Walk) (off : Nat) : Walk × Pos :=
  let bs := e.bs
  if (PRS_TUNNEL_CFG.gre_en 0).read e.cfg.tunnel = 0 then (w, .stop)
  else if !e.fits (off + 4) then w.tooDeep .other
  else
    let f := beAt off 2 bs
    if f % 8 != 0 then (w, .stop)
    else
      let n := 4 + 4 * (b2n (f.testBit 15) + b2n (f.testBit 13) + b2n (f.testBit 12))
      if !e.fits (off + n) then w.tooDeep .other
      else
        let p := beAt (off + 2) 2 bs
        let nv := f.testBit 13 && p == 0x6558 && (PRS_TUNNEL_CFG.nvgre_en 0).read e.cfg.tunnel != 0
        let key := beAt (off + 4 + 4 * b2n (f.testBit 15)) 4 bs
        let t : TunHdr := { kind := if nv then .nvgre else .gre, stop := off + n, ether := p == 0x6558,
                            vni := if nv then key / 256 else 0 }
        let inner : Pos :=
          match p with
          | 0x6558 => .eth (off + n)
          | 0x0800 => .etype p (off + n) false
          | 0x86DD => .etype p (off + n) false
          | 0x8847 => .etype p (off + n) false
          | _ => .stop
        w.enter e t inner

/-- The walk behind a UDP header whose port names a tunnel. -/
def Walk.tunnelled (w : Walk) : Walk := w.mod fun l => { l with udpTunnel := true }

/-- The tunnel or PTP message behind a UDP header (R202). Geneve options longer than 64 bytes meet reason 8 alone, though
they may end past the depth too (DESIGN CHOICE, as for a tag past its limit). -/
def stepUdp (e : ParseEnv) (w : Walk) (dport off : Nat) : Walk × Pos :=
  let bs := e.bs
  let c := e.cfg
  if (PRS_TUNNEL_CFG.vxlan_en 0).read c.tunnel != 0 && dport == (PRS_TUNNEL_PORTS.vxlan_port 0).read c.ports then
    let w := w.tunnelled
    if !e.fits (off + 8) then w.tooDeep .other
    else w.enter e ⟨.vxlan, off + 8, true, beAt (off + 4) 3 bs⟩ (.eth (off + 8))
  else if (PRS_TUNNEL_CFG.geneve_en 0).read c.tunnel != 0 && dport == (PRS_TUNNEL_PORTS.geneve_port 0).read c.ports then
    let w := w.tunnelled
    if !e.fits (off + 8) then w.tooDeep .other
    else
      let n := 8 + 4 * (beAt off 1 bs % 64)
      if 72 < n then (w.meet 8, .stop)
      else if !e.fits (off + n) then w.tooDeep .other
      else
        let p := beAt (off + 2) 2 bs
        let inner : Pos :=
          match p with
          | 0x6558 => .eth (off + n)
          | 0x0800 => .etype p (off + n) false
          | 0x86DD => .etype p (off + n) false
          | _ => .stop
        w.enter e ⟨.geneve, off + n, p == 0x6558, beAt (off + 4) 3 bs⟩ inner
  else if dport = 319 ∨ dport = 320 then (Walk.meet 14 (w.mod fun l => { l with ptp := some off, ptpAt := off }), .stop)
  else (w, .stop)

/-- The header that an IP header names. -/
def stepL4 (e : ParseEnv) (w : Walk) (proto off : Nat) : Walk × Pos :=
  let bs := e.bs
  match proto with
  | 6 =>
    if !e.fits (off + 20) then w.tooDeep .other
    else
      let n := 4 * (beAt (off + 12) 1 bs / 16)
      if n < 20 then (w.mod fun l => { l with badTcp := true }, .stop)
      else if !e.fits (off + n) then w.tooDeep .other
      else (w.mod fun l => { l with l4 := some ⟨6, off, n, beAt off 2 bs, beAt (off + 2) 2 bs, beAt (off + 13) 1 bs⟩ }, .stop)
  | 17 =>
    if !e.fits (off + 8) then w.tooDeep .other
    else
      let d := beAt (off + 2) 2 bs
      stepUdp e (w.mod fun l => { l with l4 := some ⟨17, off, 8, beAt off 2 bs, d, 0⟩ }) d (off + 8)
  | 1 | 58 =>
    if !e.fits (off + 8) then w.tooDeep .none
    else (w.mod fun l => { l with l4 := some ⟨proto, off, 8, beAt off 2 bs, 0, 0⟩ }, .stop)
  | 47 => stepGre e w off
  | _ => (w, .stop)

/-- One step of the walk. -/
def parseStep (e : ParseEnv) (w : Walk) : Pos → Walk × Pos
  | .eth off => stepEth e w off
  | .etype t off mac => stepEtype e w t off mac
  | .mpls off => stepMpls e w off
  | .ipv4 off => stepIpv4 e w off
  | .ipv6 off => stepIpv6 e w off
  | .ext nh off seen => stepExt e w nh off seen
  | .l4 proto off => stepL4 e w proto off
  | .stop => (w, .stop)

/-- The walk of at most n steps. -/
def parseRun (e : ParseEnv) : Nat → Walk → Pos → Walk
  | 0, w, _ => w
  | n + 1, w, p =>
    match p with
    | .stop => w
    | _ => let r := parseStep e w p; parseRun e n r.1 r.2

/-- Parses a frame, given without its FCS (R202). Every step but the last reads at least one byte of the 512 that may be
parsed. -/
def parse (cfg : PressCfg) (inband : Bool) (bs : Bytes) : Parsed :=
  let w := parseRun ⟨cfg, inband, bs⟩ 512 {} (.eth 0)
  { levels := w.done ++ [w.cur], reasons := w.reasons, drop := w.drop, cut := w.cut }

end Sys2Proof.Machine
end

