-- ==== Sys2Proof/Machine/Csum.lean ====
section
/-!
DEFINITION. Internet checksums of spec/06_press_parsing.md: verification on receive (R208 to R210), insertion on
transmit (R211, R212), and keeping checksums right when the press changes a header (R213).
-/

namespace Sys2Proof.Machine

/-! ### One's complement sums -/

/-- The sum of the 16-bit words of a string, the last byte padded with zero. -/
def wordSum : Bytes → Nat
  | [] => 0
  | [a] => a.toNat * 256
  | a :: b :: rest => a.toNat * 256 + b.toNat + wordSum rest

/-- A sum folded to 16 bits; two folds suffice for sums below 2^32. -/
def fold16 (n : Nat) : Nat :=
  let a := n % 65536 + n / 65536
  let b := a % 65536 + a / 65536
  b % 65536 + b / 65536

/-- The one's complement of a folded sum. -/
def ocNot (n : Nat) : Nat := 0xFFFF - fold16 n

/-- Writes a 16-bit value in network order at an offset. -/
def put16 (off v : Nat) (bs : Bytes) : Bytes := splice off (beBytes 2 v) bs

/-! ### Where checksums stand -/

/-- The offset of the checksum of a TCP or UDP header within the frame. -/
def L4Hdr.csumOff (h : L4Hdr) : Nat := if h.proto = 6 then h.off + 16 else h.off + 6

/-- Whether a header is TCP or UDP. -/
def L4Hdr.checked (h : L4Hdr) : Bool := h.proto == 6 || h.proto == 17

/-- The length of the segment that the IP header of a level gives. -/
def segLen (ip : IpHdr) : Nat := ip.stop - (ip.off + ip.hlen)

/-- The sum of the pseudo-header of a segment. -/
def pseudoSum (ip : IpHdr) (proto len : Nat) : Nat :=
  wordSum (beBytes (if ip.v6 then 16 else 4) ip.src) + wordSum (beBytes (if ip.v6 then 16 else 4) ip.dst) + proto
    + len / 65536 + len % 65536

/-- The sum of pseudo-header and segment. -/
def segSum (ip : IpHdr) (h : L4Hdr) (bs : Bytes) : Nat :=
  pseudoSum ip h.proto (segLen ip) + wordSum (slice h.off (segLen ip) bs)

/-- Whether a segment cannot be summed: it runs past the frame, is too short to hold the checksum, or a routing header
has segments left (R209, R212). -/
def segBad (ip : IpHdr) (h : L4Hdr) (bs : Bytes) : Bool :=
  ip.routing || bs.length < ip.stop || ip.stop < h.csumOff + 2

/-! ### Receive (R208 to R210) -/

/-- What checking found: errors, and how many checks were skipped. -/
structure CsumResult where
  l3err : Bool := false
  l4err : Bool := false
  skipped : Nat := 0
  deriving DecidableEq, Repr

/-- The checks of one level. -/
def checkLevel (cfg : PressCfg) (bs : Bytes) (r : CsumResult) (l : Level) : CsumResult :=
  match l.ip with
  | none => r
  | some ip =>
    let r :=
      if (PRS_CSUM_CFG.verify_l3 0).read cfg.csum != 0 && !ip.v6 && fold16 (wordSum (slice ip.off ip.hlen bs)) != 0xFFFF
      then { r with l3err := true } else r
    if (PRS_CSUM_CFG.verify_l4 0).read cfg.csum = 0 then r
    else if ip.frag != 0 then
      if ip.proto = 6 ∨ ip.proto = 17 then { r with skipped := r.skipped + 1 } else r
    else
      match l.l4 with
      | none => if l.badTcp then { r with skipped := r.skipped + 1 } else r
      | some h =>
        if !h.checked then r
        else if segBad ip h bs then { r with skipped := r.skipped + 1 }
        else if h.proto == 17 && beAt h.csumOff 2 bs == 0 then
          if !ip.v6 || ((PRS_CSUM_CFG.udp6_zero_ok 0).read cfg.csum != 0 && l.udpTunnel) then r
          else { r with l4err := true }
        else if fold16 (segSum ip h bs) = 0xFFFF then r
        else { r with l4err := true }

/-- Checks every IPv4, TCP and UDP header parsed in a received frame, given without its FCS. -/
def verifyCsums (cfg : PressCfg) (p : Parsed) (bs : Bytes) : CsumResult := p.levels.foldl (checkLevel cfg bs) {}

/-! ### Transmit (R211, R212) -/

/-- An IPv4 header with its checksum written anew. -/
def fixIpv4 (ip : IpHdr) (bs : Bytes) : Bytes :=
  let z := put16 (ip.off + 10) 0 bs
  put16 (ip.off + 10) (ocNot (wordSum (slice ip.off ip.hlen z))) z

/-- A TCP or UDP header with its checksum computed; a UDP result of zero is sent as 0xFFFF. -/
def fixL4 (ip : IpHdr) (h : L4Hdr) (bs : Bytes) : Bytes :=
  let z := put16 h.csumOff 0 bs
  let v := ocNot (segSum ip h z)
  put16 h.csumOff (if h.proto = 17 ∧ v = 0 then 0xFFFF else v) z

/-- What insertion at one level gives: the frame, the skipped insertions, and whether an inner TCP or UDP header has
been passed. Levels are taken from the innermost. -/
structure CsumInsert where
  bs : Bytes
  skipped : Nat
  inner : Bool

/-- Inserts the checksums of one level. -/
def insertLevel (cfg : PressCfg) (l3 l4 : Bool) (r : CsumInsert) (l : Level) : CsumInsert :=
  match l.ip with
  | none => r
  | some ip =>
    let r : CsumInsert :=
      match l.l4 with
      | some h =>
        let wanted := l4 && h.checked && (l.udpTunnel || !r.inner)
        let r1 :=
          if !wanted then r
          else if segBad ip h r.bs then { r with skipped := r.skipped + 1 }
          else if l.udpTunnel && !ip.v6 && (PRS_CSUM_CFG.outer_udp_mode 0).read cfg.csum == 0 then
            { r with bs := put16 h.csumOff 0 r.bs }
          else { r with bs := fixL4 ip h r.bs }
        { r1 with inner := r.inner || h.checked }
      | none =>
        if l.badTcp then { r with skipped := r.skipped + (if l4 && !r.inner then 1 else 0), inner := true } else r
    if l3 && !ip.v6 then { r with bs := fixIpv4 ip r.bs } else r

/-- Inserts the checksums that a chain asks for, innermost level first. Where the parse depth cut the walk, the header
that holds the innermost TCP or UDP checksum lies beyond it (R212): that insertion is skipped, and an IPv4 header that
was cut itself is skipped too (R211 asks for the checksums of parsed IPv4 headers alone). -/
def insertCsums (cfg : PressCfg) (l3 l4 : Bool) (p : Parsed) (bs : Bytes) : Bytes × Nat :=
  let cut :=
    match p.cut with
    | .none => 0
    | .ipv4 => b2n l3 + b2n l4
    | .other => b2n l4
  let r := p.levels.reverse.foldl (insertLevel cfg l3 l4) ⟨bs, cut, p.cut != .none⟩
  (r.bs, r.skipped)

/-! ### Changes by the press (R213) -/

/-- A UDP or TCP checksum adjusted for a change of words of its segment from old to new sums; a UDP result of zero is
sent as 0xFFFF. -/
def adjustCsum (udp : Bool) (off oldSum newSum : Nat) (bs : Bytes) : Bytes :=
  if oldSum = newSum then bs
  else
    let v := ocNot (0xFFFF - beAt off 2 bs + newSum + (0xFFFF - fold16 oldSum))
    put16 off (if udp && v == 0 then 0xFFFF else v) bs

/-- The frame after a change of the header at off of len bytes: the checksum of the nearest outer TCP or UDP header
whose segment holds that header is adjusted, unless it is a UDP zero over IPv4. The segments further out then keep
their sums. -/
def adjustOuter (outer : List Level) (off len : Nat) (old new : Bytes) : Bytes :=
  (outer.reverse.foldl (fun r l =>
    match l.ip, l.l4 with
    | some ip, some h =>
      if !r.2 && h.checked && !(h.proto == 17 && !ip.v6 && beAt h.csumOff 2 r.1 == 0) && off + len ≤ ip.stop then
        let pad := (off - h.off) % 2
        (adjustCsum (h.proto == 17) h.csumOff (wordSum (List.replicate pad 0 ++ slice off len old))
          (wordSum (List.replicate pad 0 ++ slice off len new)) r.1, true)
      else r
    | _, _ => r) (new, false)).1

/-- The frame with the DSCP of the IP header of a level set (R280, R213). -/
def setDscp (outer : List Level) (l : Level) (dscp : Nat) (bs : Bytes) : Bytes :=
  match l.ip with
  | none => bs
  | some ip =>
    let v := beAt ip.off 2 bs
    let new :=
      if ip.v6 then put16 ip.off (v / 2 ^ 12 * 2 ^ 12 + dscp * 2 ^ 6 + v % 2 ^ 6) bs
      else fixIpv4 ip (put16 ip.off (v / 256 * 256 + dscp * 4 + v % 4) bs)
    adjustOuter outer ip.off (if ip.v6 then 2 else ip.hlen) bs new

/-- The frame with the TTL or hop limit of the outermost IP header lowered by one (R228 step 6). From 0, which only a
transmit chain can bring here (R216), it wraps to 255 (DESIGN CHOICE: the spec does not say what the decrement of 0
gives). -/
def decTtl (l : Level) (bs : Bytes) : Bytes :=
  match l.ip with
  | none => bs
  | some ip =>
    if ip.v6 then splice (ip.off + 7) [BitVec.ofNat 8 (ip.ttl + 255)] bs
    else fixIpv4 ip (splice (ip.off + 8) [BitVec.ofNat 8 (ip.ttl + 255)] bs)

end Sys2Proof.Machine
end

