-- ==== Sys2Proof/Machine/Crc.lean ====
section
/-!
DEFINITION. Cyclic codes: the four check-value codes (R323), the folded seed and the covering of storage blocks (R326,
R327), the FCS of IEEE 802.3, the multicast hash (R142) and the bucket hash (R230).
-/

namespace Sys2Proof.Machine

/-- A code in parametrised form (R323). -/
structure CvCode where
  width : Nat
  poly : Nat
  init : Nat
  refl : Bool
  xorout : Nat
  deriving DecidableEq, Repr

/-- The code of a poly number (R323). A reflected code lists its polynomial reflected. -/
def cvCode (n : Nat) : CvCode :=
  match n with
  | 0 => ⟨32, 0xEDB88320, 0xFFFFFFFF, true, 0xFFFFFFFF⟩
  | 1 => ⟨32, 0x82F63B78, 0xFFFFFFFF, true, 0xFFFFFFFF⟩
  | 2 => ⟨64, 0x42F0E1EBA9EA3693, 0xFFFFFFFFFFFFFFFF, false, 0xFFFFFFFFFFFFFFFF⟩
  | _ => ⟨16, 0x8BB7, 0x0000, false, 0x0000⟩

/-- n bit steps of a reflected code. -/
def crcBitsRefl (poly : Nat) : Nat → Nat → Nat
  | 0, r => r
  | n + 1, r => crcBitsRefl poly n (if r % 2 == 1 then (r >>> 1) ^^^ poly else r >>> 1)

/-- n bit steps of a code that is not reflected. -/
def crcBits (w poly : Nat) : Nat → Nat → Nat
  | 0, r => r
  | n + 1, r => crcBits w poly n (if 2 ^ (w - 1) ≤ r then (2 * r % 2 ^ w) ^^^ poly else 2 * r)

/-- The register after one byte. -/
def crcStep (c : CvCode) (r : Nat) (b : Byte) : Nat :=
  if c.refl then crcBitsRefl c.poly 8 (r ^^^ b.toNat)
  else crcBits c.width c.poly 8 (r ^^^ (b.toNat * 2 ^ (c.width - 8)))

/-- The register after a string of bytes. -/
def crcRun (c : CvCode) (r : Nat) (bs : Bytes) : Nat := bs.foldl (crcStep c) r

/-- The CRC-32 of IEEE 802.3 over bytes. -/
def crc32 (bs : Bytes) : Nat := crcRun (cvCode 0) 0xFFFFFFFF bs ^^^ 0xFFFFFFFF

/-- The four FCS bytes of a frame as they are sent. -/
def fcsBytes (bs : Bytes) : Bytes := leBytes 4 (crc32 bs)

/-- The frame with its FCS appended. -/
def withFcs (bs : Bytes) : Bytes := bs ++ fcsBytes bs

/-- The frame without its last four bytes. -/
def stripFcs (bs : Bytes) : Bytes := bs.take (bs.length - 4)

/-- Whether the last four bytes of a frame are its FCS (check 7 of R136). -/
def fcsOk (bs : Bytes) : Bool := bs.drop (bs.length - 4) == fcsBytes (stripFcs bs)

/-- The index of a group address in the multicast hash (R142). -/
def mcIndex (da : Bytes) : Nat := crcRun (cvCode 0) 0xFFFFFFFF da / 2 ^ 26 % 64

/-- The bucket of a key image (R230). -/
def bucketOf (seed : Nat) (key : Bytes) : Nat :=
  (crcRun (cvCode 1) (0xFFFFFFFF ^^^ (seed * 0x00010001)) key ^^^ 0xFFFFFFFF) % 2 ^ 18

/-! ### Storage blocks (R324 to R328) -/

/-- A tag folded to the width of a code (R327). -/
def foldTag (w : Nat) (tag : DWord) : Nat :=
  let t := tag.toNat
  match w with
  | 64 => t
  | 32 => (t % 2 ^ 32) ^^^ (t / 2 ^ 32)
  | _ => (t ^^^ (t / 2 ^ 16) ^^^ (t / 2 ^ 32) ^^^ (t / 2 ^ 48)) % 2 ^ 16

/-- The check-value configuration of a channel (R329). -/
structure CvConf where
  txEn : Bool
  rxEn : Bool
  poly : Nat
  blockLog2 : Nat
  tagSrc : Nat
  logEn : Bool
  txTagDesc : Bool
  rxTagFrame : Bool
  rxTagOff : Nat
  trailLen : Nat
  dataOff : Nat
  deriving DecidableEq, Repr

/-- The configuration that cv_cfg and cv_layout spell (R329). -/
def Ctx.conf (x : Ctx) : CvConf :=
  let c := x.cvCfg.toNat
  let l := x.cvLayout.toNat
  { txEn := c.testBit 31, rxEn := c.testBit 30, poly := bits c 29 28, blockLog2 := bits c 27 24,
    tagSrc := bits c 23 22, logEn := c.testBit 21, txTagDesc := c.testBit 20, rxTagFrame := c.testBit 19,
    rxTagOff := bits l 55 42, trailLen := bits l 41 28, dataOff := bits l 27 14 }

/-- The block size in bytes (R329). -/
def CvConf.size (c : CvConf) : Nat := 2 ^ (9 + c.blockLog2)

/-- The advance of the tag from block to block (R326). -/
def CvConf.adv (c : CvConf) : Nat :=
  match c.tagSrc with
  | 0 => c.size
  | 1 => c.size / 512
  | _ => 1

/-- Where covering a frame stands: the running state, whether a block may still take the supplied tag, and the blocks
that ended, in order. -/
structure Cover where
  cv : CvState
  first : Bool
  blocks : List CvBlock
  deriving DecidableEq, Repr

/-- One byte of the data region (cover of R327). -/
def coverByte (c : CvConf) (tag : Option DWord) (k : Cover) (b : Byte) : Cover :=
  let code := cvCode c.poly
  let k :=
    if k.cv.count = 0 then
      let t := if k.first then tag.getD k.cv.tag else k.cv.tag
      { k with cv := { reg := BitVec.ofNat 64 (code.init ^^^ foldTag code.width t), tag := t, count := 0 },
               first := false }
    else k
  let reg := BitVec.ofNat 64 (crcStep code k.cv.reg.toNat b)
  if k.cv.count + 1 = c.size then
    { k with blocks := k.blocks ++ [⟨k.cv.tag, reg ^^^ BitVec.ofNat 64 code.xorout⟩],
             cv := { reg := reg, tag := k.cv.tag + BitVec.ofNat 64 c.adv, count := 0 } }
  else { k with cv := { k.cv with reg := reg, count := k.cv.count + 1 } }

/-- Covers the data region of a frame whose bytes, without FCS, the channel sees (R324, R327). -/
def cover (c : CvConf) (tag : Option DWord) (cv : CvState) (bs : Bytes) : Cover :=
  (slice c.dataOff (bs.length - c.trailLen - c.dataOff) bs).foldl (coverByte c tag) ⟨cv, true, []⟩

/-- The tag that a received frame supplies (R326). -/
def rxTag (c : CvConf) (bs : Bytes) : Option DWord :=
  if c.rxTagFrame && c.rxTagOff + 8 ≤ bs.length then some (BitVec.ofNat 64 (beAt c.rxTagOff 8 bs)) else none

end Sys2Proof.Machine
end

