-- ==== Sys2Proof/Machine/Fabric.lean ====
section
/-!
DEFINITION. The fabric ports of spec/12_fabric_and_host_side.md: submitting requests cut at 256-byte granules (R357),
choosing a port (R362), issuing what waits in order (R358 to R361), timeouts, quarantine and reissue (R363 to R366).
-/

namespace Sys2Proof.Machine

/-! ### What a request concerns (R369, R455) -/

/-- The channel whose work the request is. -/
def Purpose.chan : Purpose → Option Nat
  | .chanCtx c | .cringCtx c _ | .startIndex c | .startWrite c | .liveChan c | .txProd c | .rxProd c
  | .txDesc c | .rxDesc c | .chainDesc c _ _ | .txData c _ _ | .rxData c _ | .indexWrite c _ | .bookCopy c _
  | .writeBack c | .logRecord c _ | .logProd c | .logCons c => some c
  | .entry _ e _ _ => some e.chan
  | _ => none

/-- The completion ring the request concerns, where it is made for a ring and not for a channel. -/
def Purpose.ring : Purpose → Option Nat
  | .liveCring n | .ringResetWrite n | .consIndex n | .ringProd n => some n
  | _ => none

/-- Whether a request is for a block-level structure (R369). -/
def Purpose.ofBlock : Purpose → Bool
  | .chanCtx _ | .cringCtx _ _ | .liveChan _ | .liveCring _ | .ringResetWrite _ | .writeBack _ | .consIndex _
  | .ringProd _ => true
  | p => p.chan.isNone

/-- Privilege of work of function f: 1 for a virtual function, else 0 (R455). -/
def funcPriv (f : Nat) (s : State) : Nat := b2n (Machine.func f s).vf

/-- Privilege of a request (R455): the cellarmaster's for firmware image reads and for the data of its own table
commands, the host driver's for other block-level structures. -/
def Req.priv (r : Req) (s : State) : Nat :=
  match r.purpose with
  | .fwImage | .cmData | .tblData false => 2
  | p => if p.ofBlock then 0 else funcPriv r.func s

/-- The attributes of an event of channel c (R455). -/
def chanAttr (c : Nat) (s : State) : Attr :=
  let x := (Machine.chan c s).ctx
  { priv := funcPriv x.func s, func := some x.func, chan := some c, cring := some x.cring }

/-- The context that work for channel c goes by: that of a START in progress, once it has been read. -/
def workCtx (c : Nat) (s : State) : Ctx :=
  let ch := Machine.chan c s
  match ch.startOp with
  | some op => if op.phase == .context then ch.ctx else op.next.ctx
  | none => ch.ctx

/-- The channel that work concerns, with its completion ring and function (R455). -/
def reqWho (c : Nat) (s : State) : Attr :=
  let x := workCtx c s
  { priv := funcPriv x.func s, func := some x.func, chan := some c, cring := some x.cring }

/-- The attributes of a fabric request on port p (R454, R455): the function is that of the channel or completion ring that
the request concerns, whichever function it is issued for. -/
def reqAttr (r : Req) (p : Nat) (s : State) : Attr :=
  let a : Attr :=
    match r.purpose.chan, r.purpose.ring with
    | some c, _ => reqWho c s
    | none, some n => { func := some (Machine.ring n s).func, cring := some n }
    | none, none => { func := some r.func }
  { a with priv := r.priv s, addr := some r.addr.toNat, port := some p }

/-! ### Functions that may issue requests (R368, R372) -/

/-- Whether the block may issue requests for function f. -/
def mayIssue (f : Nat) (s : State) : Bool :=
  let x := Machine.func f s
  x.present && x.bme && !x.flr && x.qState == 0 && (x.adapterMem || s.fabric.hostUp)

/-- Whether the completion entries of a channel may be written (R79, R113, R376). -/
def Chan.writable (ch : Chan) : Bool :=
  ch.state == .running || ch.state == .stopping || ch.state == .fenced

/-! ### Ports (R362, R366) -/

/-- Whether fabric port i is in service. -/
def inService (i : Nat) (s : State) : Bool := fbit (FAB_PORT_CFG.en i) s && !s.fabric.faulted.contains i

/-- The ports in service, leaving out the port of a reissue. -/
def svcPorts (left : Option Nat) (s : State) : List Nat :=
  (List.range 16).filter fun i => inService i s && left != some i

/-- Reads outstanding on port i. -/
def readsOut (i : Nat) (s : State) : Nat := (s.fabric.reqs.filter fun r => r.port == some i && !r.write).length

/-- Writes outstanding on port i. -/
def writesOut (i : Nat) (s : State) : Nat := (s.fabric.reqs.filter fun r => r.port == some i && r.write).length

/-- Reads and writes outstanding on port i. -/
def portOut (i : Nat) (s : State) : Nat := (s.fabric.reqs.filter fun r => r.port == some i).length

/-- Tags or identifiers of port i in quarantine. -/
def quarOut (write : Bool) (i : Nat) (s : State) : Nat :=
  (s.fabric.quarantine.filter fun q => q.port == i && q.write == write).length

/-- The first port of svc at or after h, counting up modulo 16. -/
def homeFrom (svc : List Nat) (h : Nat) : Nat → Option Nat
  | 0 => none
  | n + 1 => if svc.contains (h % 16) then some (h % 16) else homeFrom svc (h + 1) n

/-- The port of svc with the fewest requests outstanding, the lowest number on a tie. -/
def leastLoaded (s : State) : List Nat → Option Nat
  | [] => none
  | i :: is =>
    match leastLoaded s is with
    | none => some i
    | some j => if portOut i s ≤ portOut j s then some i else some j

/-- The port on which a request for an address is issued (R362). -/
def choosePort (left : Option Nat) (addr : DWord) (s : State) : Option Nat :=
  let svc := svcPorts left s
  let g := addr.toNat / 2 ^ (8 + min (fget FAB_CTL.ilv_log2 s) 8)
  let home := (g ^^^ (g / 16) ^^^ (g / 256) ^^^ (g / 4096)) % 16
  match homeFrom svc home 16, leastLoaded s svc with
  | some h, some m =>
    if fbit FAB_CTL.adapt_en s && max (fget FAB_CTL.adapt_thresh s) 1 < portOut h s - portOut m s then some m
    else some h
  | _, _ => none

/-- Whether port i has a tag or a write identifier free (R358, R359, R364). -/
def portRoom (write : Bool) (i : Nat) (s : State) : Bool :=
  if write then writesOut i s + quarOut true i s < 1024
  else readsOut i s < clamp 1 1024 (fget (FAB_PORT_CFG.max_tags i) s) && readsOut i s + quarOut false i s < 1024

/-- Beats of 128 bytes in which the data of a request moves: one where its bytes lie within one half of the granule, and
two otherwise (R484). -/
def Req.beats (r : Req) : Nat := if r.addr.toNat % 256 / 128 = (r.addr.toNat + (r.len - 1)) % 256 / 128 then 1 else 2

/-- Whether two requests share a byte. -/
def Req.overlaps (a b : Req) : Bool :=
  a.addr.toNat < b.addr.toNat + b.len && b.addr.toNat < a.addr.toNat + a.len

/-- Whether an earlier write that is not acknowledged, or the hold of R365, keeps a write back (R361). -/
def writeHeld (r : Req) (s : State) : Bool :=
  r.write && (s.fabric.reqs.any (fun q => q.write && q.id < r.id && q.overlaps r)
    || s.fabric.quarantine.any (fun q => q.write && q.req < r.id && q.addr.toNat / 256 == r.addr.toNat / 256))

/-- Whether a completion entry or a log record that a quiesce has held waits for the next START of its channel (R377). -/
def entryHeld (r : Req) (s : State) : Bool :=
  match r.purpose with
  | .entry _ e _ _ => !(Machine.chan e.chan s).writable
  | .logRecord c _ => (Machine.chan c s).state == .quiesced
  | _ => false

/-! ### Submitting and issuing -/

/-- Adds a request to those waiting to be issued. -/
def submit (write : Bool) (f : Nat) (addr : DWord) (len : Nat) (data : Bytes) (p : Purpose) (s : State) : State :=
  { s with fabric := { s.fabric with
      reqs := s.fabric.reqs ++ [{ id := s.fabric.nextId, write := write, func := f, addr := addr, len := len,
                                  data := data, purpose := p, port := none, reissued := false, left := none,
                                  discard := false }]
      nextId := s.fabric.nextId + 1 } }

/-- Adds a read request. -/
def submitRead (f : Nat) (addr : DWord) (len : Nat) (p : Purpose) (s : State) : State :=
  submit false f addr len [] p s

/-- Adds a write request. -/
def submitWrite (f : Nat) (addr : DWord) (data : Bytes) (p : Purpose) (s : State) : State :=
  submit true f addr data.length data p s

/-- A span of memory cut at granule boundaries: offset and length of each piece (R357). -/
def granules : Nat → DWord → Nat → Nat → List (Nat × Nat)
  | 0, _, _, _ => []
  | n + 1, addr, off, len =>
    if len = 0 then []
    else
      let k := min len (256 - (addr.toNat + off) % 256)
      (off, k) :: granules n addr (off + k) (len - k)

/-- The pieces of a span of len bytes at addr. -/
def pieces (addr : DWord) (len : Nat) : List (Nat × Nat) := granules (len / 256 + 2) addr 0 len

/-- Writes data at addr as one request for each piece, and says how many. -/
def submitData (f : Nat) (addr : DWord) (data : Bytes) (p : Purpose) (s : State) : State × Nat :=
  let ps := pieces addr data.length
  (ps.foldl (fun s e => submitWrite f (addr + BitVec.ofNat 64 e.1) (slice e.1 e.2 data) p s) s, ps.length)

/-- The function of block-level requests (R369). -/
def ownerFunc (s : State) : Nat := fget FAB_CTL.owner_func s

/-- Puts request id on port p, or back among the waiting. -/
def setReqPort (id : Nat) (p : Option Nat) (s : State) : State :=
  { s with fabric := { s.fabric with reqs := s.fabric.reqs.map fun r => if r.id = id then { r with port := p } else r } }

/-- Issues a waiting request when nothing keeps it back (R357 to R362), and counts it (R454). The clock of the ports
stops in dormancy (R402). -/
def tryIssue (r : Req) (s : State) : State :=
  if fbit FAB_CTL.en s && s.power.dorm != 3 && mayIssue r.func s && !writeHeld r s && !entryHeld r s then
    match choosePort r.left r.addr s with
    | none => s
    | some p =>
      if portRoom r.write p s then
        let a := reqAttr r p s
        let s := setReqPort r.id (some p) s
        let s := if r.reissued then count .fabric 0x07 1 a s else s
        count .fabric (if r.write then 0x04 else 0x02) r.len a
          (count .fabric (if r.write then 0x03 else 0x01) 1 a s)
      else s
  else s

/-- Issues what waits, in the order of submission. -/
def pump (s : State) : State :=
  s.fabric.reqs.foldl (fun s r => if r.port.isNone then tryIssue r s else s) s

/-- The outstanding request with an identity. -/
def findReq (id : Nat) (s : State) : Option Req := s.fabric.reqs.find? fun r => r.id == id && r.port.isSome

/-- fr_ready and the acceptance of fa_valid (R484, R485): high for a completion whose tag or identifier is outstanding or
quarantined, so that none waits at the block. -/
def takesCompletion (id : Nat) (s : State) : Bool :=
  (findReq id s).isSome || s.fabric.quarantine.any (·.req == id)

/-- The state without request id. -/
def dropReq (id : Nat) (s : State) : State :=
  { s with fabric := { s.fabric with reqs := s.fabric.reqs.filter fun r => r.id != id } }

/-- Withdraws every request that p picks: one that waits is never issued, and the completion of one that is
outstanding is discarded when it arrives. -/
def discardReqs (p : Req → Bool) (s : State) : State :=
  { s with fabric := { s.fabric with
      reqs := (s.fabric.reqs.filter fun r => !(p r && r.port.isNone)).map
        fun r => if p r then { r with discard := true } else r } }

/-! ### Error responses and timeouts (R363 to R367) -/

/-- An error response to an outstanding request (R367). -/
def errResponse (r : Req) (s : State) : State :=
  match r.port with
  | none => s
  | some p => count .fabric 0x09 1 (reqAttr r p s) (fset (FAB_PORT_STAT.err_resp_seen p) 1 s)

/-- Quarantines the tag or identifier of a timed-out request and counts the timeout against its port. -/
def quarantineReq (r : Req) (p : Nat) (s : State) : State :=
  let recent := (mgetD [] p s.fabric.timeouts).filter fun t => s.time.dclk < t + 160000000
  { s with fabric := { s.fabric with
      quarantine := s.fabric.quarantine ++ [⟨r.id, p, r.write, r.addr, r.func, r.purpose⟩]
      timeouts := mputD [] p (recent ++ [s.time.dclk]) s.fabric.timeouts } }

/-- Sends a timed-out request again on another port, once (R363, R365). -/
def reissue (r : Req) (p : Nat) (s : State) : State :=
  { s with fabric := { s.fabric with
      reqs := s.fabric.reqs.map fun q =>
        if q.id = r.id then { q with port := none, reissued := true, left := some p } else q } }

/-- Whether a timed-out request is reissued: it has not been, its function may issue requests, its completion is
wanted, and another port is in service (R363, R365, R372). -/
def canReissue (r : Req) (p : Nat) (s : State) : Bool :=
  !r.reissued && !r.discard && (Machine.func r.func s).qState == 0 && !(svcPorts (some p) s).isEmpty

/-- Whether a write of a quiesced function that was not answered is kept to be written again (R375): all but the data of
frames, which is written again as a whole, and the writes of a START. -/
def Req.kept (r : Req) : Bool :=
  r.write && !r.discard && (match r.purpose with
    | .rxData _ _ | .startWrite _ => false
    | _ => true)

/-- A write of a quiesced function that was not answered waits to be written again (R375). -/
def keepReq (r : Req) (s : State) : State :=
  { s with fabric := { s.fabric with
      reqs := s.fabric.reqs.map fun q => if q.id = r.id then { q with port := none, reissued := true, left := none } else q } }

/-- A request timed out on its port: the tag is quarantined, and the request is reissued, waits for the end of its
function's quiesce, or leaves the fabric. The answer says whether it failed as a fault of its requester. -/
def timeOutReq (r : Req) (s : State) : State × Bool :=
  match r.port with
  | none => (s, false)
  | some p =>
    let s := quarantineReq r p (count .fabric (if r.write then 0x06 else 0x05) 1 (reqAttr r p s) s)
    if canReissue r p s then (reissue r p s, false)
    else if r.kept && (Machine.func r.func s).qState != 0 then (keepReq r s, false)
    else (dropReq r.id s, !r.discard && (Machine.func r.func s).qState == 0)

/-- Takes port p out of service (R366): fault sets, code 0x08 is posted, source 6 is raised. Its outstanding requests
are then timed out by the caller. -/
def portFault (p : Nat) (s : State) : State :=
  if s.fabric.faulted.contains p then s
  else
    raiseSource 6 (postError 2 8 0x08 p 0
      { s with fabric := { s.fabric with faulted := s.fabric.faulted ++ [p] } })

/-- Whether the timeouts counted against port p reach fault_thresh (R366). -/
def threshReached (p : Nat) (s : State) : Bool :=
  fget FAB_CTL.fault_thresh s != 0 && fget FAB_CTL.fault_thresh s ≤ (mgetD [] p s.fabric.timeouts).length

/-- The outstanding requests of port p. -/
def portReqs (p : Nat) (s : State) : List Req := s.fabric.reqs.filter fun r => r.port == some p

/-- The request that a quarantined tag or identifier belonged to. -/
def Quarantine.asReq (q : Quarantine) : Req :=
  { id := q.req, write := q.write, func := q.func, addr := q.addr, len := 0, data := [], purpose := q.purpose,
    port := some q.port, reissued := false, left := none, discard := true }

/-- Counts a late completion or acknowledgement (R364, R365). -/
def lateCount (q : Quarantine) (s : State) : State :=
  count .fabric 0x08 1 (reqAttr q.asReq q.port s) (fadd (FAB_LATE_CNT.late q.port) 1 s)

/-- The state without the first quarantined tag that q picks. -/
def releaseQuarantine (q : Quarantine → Bool) (s : State) : State :=
  { s with fabric := { s.fabric with quarantine := s.fabric.quarantine.eraseP q } }

/-- Whether function f holds a read tag or write identifier on any port, quarantined ones included (R373, R378). -/
def holdsTags (f : Nat) (s : State) : Bool :=
  s.fabric.reqs.any (fun r => r.func == f && r.port.isSome) || s.fabric.quarantine.any (fun q => q.func == f)

end Sys2Proof.Machine
end

