-- ==== Sys2Proof/Machine/Records.lean ====
section
/-!
DEFINITION. Rings in memory into which the block produces records: the shared arithmetic of R240, the sample ring
(R466 to R469) and the learn ring (R237 to R240).
-/

namespace Sys2Proof.Machine

/-! ### The common ring (R50, R70, R240) -/

/-- Slots of a record ring that are free by the cached cons and earlier reservations. -/
def PRing.free (r : PRing) (log2 : Nat) : Nat := 2 ^ log2 - (used r.prod r.cons + r.reserved)

/-- The phase bit of the record with index i (R70). -/
def phaseOf (i : Word) (log2 : Nat) : Bool := i.toNat / 2 ^ log2 % 2 == 0

/-- The index up to which every record is acknowledged. -/
def PRing.settled (r : PRing) : Word := r.unacked.headD r.prod

/-- The ring after one record was written: prod advances and the record waits for its acknowledgement. -/
def PRing.push (r : PRing) : PRing :=
  { r with prod := r.prod + 1, unacked := r.unacked ++ [r.prod], prodDirty := true }

/-- The ring after the record with index i was acknowledged. -/
def PRing.ack (r : PRing) (i : Word) : PRing := { r with unacked := r.unacked.erase i }

/-- Whether a write of prod is due: records have been acknowledged since the last one and none is outstanding. -/
def PRing.prodDue (r : PRing) (batch : Bool) : Bool :=
  r.prodDirty && !r.prodOut && (if batch then r.unacked.isEmpty else true)

/-- The ring after a write of prod was submitted. -/
def PRing.prodSent (r : PRing) : PRing := { r with prodOut := true, prodDirty := !r.unacked.isEmpty }

/-! ### Samples -/

/-- The 64 bytes of a sample record (R469). -/
def sampleBytes (t : Tag) (e : SampleEnd) (phase : Bool) (s : State) : Bytes :=
  leBytes 4 e.index.toNat
  ++ leBytes 4 (e.kind * 2 ^ 30 + e.cring * 2 ^ 13 + e.chan)
  ++ leBytes 8 e.descAddr.toNat
  ++ leBytes 4 (min ((s.time.dclk / 2) - (t.startAt / 2)) 0xFFFFFFFF)
  ++ leBytes 4 (e.status * 2 ^ 24 + t.port * 2 ^ 16 + t.length % 2 ^ 15)
  ++ leBytes 4 (t.press * 2 ^ 29 + t.tc * 2 ^ 26 + t.counter * 2 ^ 16 + t.event * 2 ^ 8)
  ++ leBytes 4 e.func
  ++ leBytes 4 t.start.ns ++ leBytes 4 (t.start.sec % 2 ^ 16)
  ++ leBytes 4 s.time.ns ++ leBytes 4 (s.time.sec % 2 ^ 16)
  ++ leBytes 15 0 ++ [BitVec.ofNat 8 (b2n phase * 128)]

/-- The size of the sample ring as log2 (PMU_SAMPLE_CFG). -/
def sampleLog2 (s : State) : Nat := clamp 6 16 (fget PMU_SAMPLE_CFG.size_log2 s)

/-- The address of the sample ring's header. -/
def sampleBase (s : State) : DWord := pairVal PMU_SAMPLE_BASE_LO.reg PMU_SAMPLE_BASE_HI.reg s

/-- Changes the sample ring. -/
def modSampleRing (f : PRing → PRing) (s : State) : State := { s with pmu := { s.pmu with ring := f s.pmu.ring } }

/-- Reads the sample ring's cons, unless that read is outstanding (R240). -/
def readSampleCons (s : State) : State :=
  if s.pmu.ring.consOut then s
  else submitRead (ownerFunc s) (sampleBase s) 4 .sampleCons (modSampleRing ({ · with consOut := true }) s)

/-- Writes the sample record of a tagged item that ended, or counts it lost (R468). -/
def writeSample (t : Tag) (e : SampleEnd) (s : State) : State :=
  if !fbit PMU_SAMPLE_CFG.en s || s.pmu.sampleOff then sampleLost s
  else if s.pmu.ring.free (sampleLog2 s) = 0 then readSampleCons (sampleLost s)
  else
    let r := s.pmu.ring
    let a := sampleBase s + BitVec.ofNat 64 (64 + r.prod.toNat % 2 ^ sampleLog2 s * 64)
    let s := submitWrite (ownerFunc s) a (sampleBytes t e (phaseOf r.prod (sampleLog2 s)) s) (.sample r.prod) s
    raiseSource 4 (modSampleRing (fun r => { r.push with cover := some (r.prod + 1) }) s)

/-- Writes the sample ring's prod when that is due. -/
def flushSampleProd (batch : Bool) (s : State) : State :=
  let r := s.pmu.ring
  if r.prodDue batch then
    submitWrite (ownerFunc s) (sampleBase s + 4) (leBytes 4 r.settled.toNat) .sampleProd
      (modSampleRing PRing.prodSent s)
  else s

/-- Ends every tag that p picks with a record that f completes (R467, R468). -/
def endTags (p : Tag → Bool) (f : Tag → SampleEnd) (s : State) : State :=
  (s.pmu.tags.filter p).foldl (fun s t => writeSample t (f t) s)
    { s with pmu := { s.pmu with tags := s.pmu.tags.filter fun t => !p t } }

/-- A received frame ended without a completion: dropped, discarded, or sent to a port (kind 2). -/
def endFrame (id : Nat) (s : State) : State :=
  endTags (fun t => t.kind == 1 && t.key == id && t.fin.isNone) (fun _ => {}) s

/-! ### Learn events (R238 to R240) -/

/-- A learn event without its phase bit (R239). -/
structure LearnEvent where
  fd : Nat
  mac : BitVec 48
  type : Nat
  deferred : Bool := false
  press : Nat := 0
  oldPort : Nat := 0
  port : Nat := 0
  vintage : Nat := 0
  deriving DecidableEq, Repr

/-- The 16 bytes of a learn event (R239). -/
def LearnEvent.bytes (e : LearnEvent) (phase : Bool) : Bytes :=
  leBytes 8 (e.fd * 2 ^ 48 + e.mac.toNat)
  ++ leBytes 4 (e.type * 2 ^ 20 + b2n e.deferred * 2 ^ 19 + e.press * 2 ^ 16 + e.oldPort * 2 ^ 8 + e.port)
  ++ leBytes 4 (b2n phase * 2 ^ 31 + e.vintage % 2 ^ 16)

/-- The size of the learn ring as log2 (TBL_LEARN_CFG). -/
def learnLog2 (s : State) : Nat := clamp 6 16 (fget TBL_LEARN_CFG.size_log2 s)

/-- The address of the learn ring's header. -/
def learnBase (s : State) : DWord := pairVal TBL_LEARN_BASE_LO.reg TBL_LEARN_BASE_HI.reg s

/-- Changes the learn ring. -/
def modLearn (f : PRing → PRing) (s : State) : State := { s with engine := { s.engine with learn := f s.engine.learn } }

/-- Reads the learn ring's cons, unless that read is outstanding (R240). -/
def readLearnCons (s : State) : State :=
  if s.engine.learn.consOut then s
  else submitRead (ownerFunc s) (learnBase s) 4 .learnCons (modLearn ({ · with consOut := true }) s)

/-- Drops a learn event (R238). -/
def dropLearn (s : State) : State :=
  let s := count .global 0x03 1 {} (fadd TBL_LEARN_STAT.learn_drop 1 s)
  { s with cm := { s.cm with winDrop := true } }

/-- Posts a learn event, or drops it (R238, R240). The answer says whether it was posted. -/
def postLearn (e : LearnEvent) (s : State) : State × Bool :=
  if !fbit TBL_LEARN_CFG.ring_en s || s.engine.learnOff then (dropLearn s, false)
  else if s.engine.learn.free (learnLog2 s) = 0 then (readLearnCons (dropLearn s), false)
  else
    let r := s.engine.learn
    let a := learnBase s + BitVec.ofNat 64 (64 + r.prod.toNat % 2 ^ learnLog2 s * 16)
    let s := submitWrite (ownerFunc s) a (e.bytes (phaseOf r.prod (learnLog2 s))) (.learnEvent r.prod) s
    let s := if e.deferred then fset TBL_LEARN_STAT.lock_deferred 1 s else s
    (count .global 0x02 1 {} (modLearn PRing.push s), true)

/-- Writes the learn ring's prod when that is due. -/
def flushLearnProd (batch : Bool) (s : State) : State :=
  let r := s.engine.learn
  if r.prodDue batch then
    submitWrite (ownerFunc s) (learnBase s + 4) (leBytes 4 r.settled.toNat) .learnProd (modLearn PRing.prodSent s)
  else s

/-! ### A cons value that was read (R72, R240) -/

/-- Whether a cons value lies beyond prod: more records would be held than the ring has slots. -/
def PRing.consBad (r : PRing) (log2 : Nat) (v : Word) : Bool := 2 ^ log2 < used r.prod v

end Sys2Proof.Machine
end

