-- ==== Sys2Proof/Machine/Cellar.lean ====
section
/-!
DEFINITION. The cellar of spec/05_cellar_and_flow_control.md: how its cells are divided (R172), admission (R176), the
xoff states (R178), freeing a frame's cells (R19), the frames that become due for pause (R183), and bank errors and
sparing (R166 to R171).
-/

namespace Sys2Proof.Machine

/-! ### Ports as the cellar sees them -/

/-- Whether row r is enabled (R162). -/
def rowEnabled (r : Nat) (s : State) : Bool := (row r s).state == 2

/-- The speed code of global port g, 0 for off (ROW_CFG). -/
def portSpeed (g : Nat) (s : State) : Nat := bits (fget (ROW_CFG.port_speed (g / 8)) s) (3 * (g % 8) + 2) (3 * (g % 8))

/-- The admission profile of port g. -/
def profileOf (g : Nat) (s : State) : Nat := fget (PRT_ADM_CFG.profile g) s

/-- Whether priority q of port g is in pause mode. -/
def pauseMode (g q : Nat) (s : State) : Bool := fbit (CEL_PROF_MODE.mode (profileOf g s) q) s

/-- The cells charged to a port and priority. -/
def charge (g q : Nat) (s : State) : Charge := mgetD {} (g * 8 + q) s.cellar.charges

/-- Sets what is charged to a port and priority. -/
def setCharge (g q : Nat) (c : Charge) (s : State) : State :=
  { s with cellar := { s.cellar with charges := mputD {} (g * 8 + q) c s.cellar.charges } }

/-! ### Division of the cells (R172) -/

/-- The completion backlog reserve, one cell for each entry of the pool (R95, R172). -/
def backlogReserve : Nat := 3456

/-- Cells of the transmit region. -/
def txRegion (s : State) : Nat := fget CEL_CFG.tx_units s * 64

/-- Cells of the headroom pool. -/
def headroomPool (s : State) : Nat := fget CEL_CFG.headroom_units s * 64

/-- The part of the cellar left after the reserve, the transmit region and the headroom pool. -/
def openPart (s : State) : Nat := 262144 - backlogReserve - txRegion s - headroomPool s

/-- The guaranteed cells of port g. -/
def portGuar (g : Nat) (s : State) : Nat :=
  if rowEnabled (g / 8) s && portSpeed g s != 0 then
    (List.range 8).foldl (fun a q => a + fget (CEL_PROF_GUAR.guar (profileOf g s) q) s) 0
  else 0

/-- The guaranteed cells of every port in service; only the rows that are not disabled are looked at. -/
def guarSum (s : State) : Nat :=
  s.rows.foldl (fun a r => (List.range 8).foldl (fun a p => a + portGuar (r.1 * 8 + p) s) a) 0

/-- The sum of one share over everything charged. -/
def chargeSum (f : Charge → Nat) (s : State) : Nat := s.cellar.charges.foldl (fun a c => a + f c.2) 0

/-- Whether the first four parts add to more than the cellar holds (R172). -/
def overcommit (s : State) : Bool :=
  262144 < backlogReserve + txRegion s + headroomPool s + guarSum s

/-- Free cells of the shared pool. -/
def sharedFree (s : State) : Nat := openPart s - guarSum s - chargeSum Charge.shared s

/-- Free cells of the open part, which frames within their guarantee may use. -/
def openFree (s : State) : Nat := openPart s - chargeSum Charge.guar s - chargeSum Charge.shared s

/-- Free cells of the headroom pool. -/
def headroomFree (s : State) : Nat := headroomPool s - chargeSum Charge.headroom s

/-- Free cells of the transmit region. -/
def txFree (s : State) : Nat := txRegion s - s.cellar.txUsed

/-- Cells that a number of bytes takes (R175). -/
def cellsFor (bytes : Nat) : Nat := (bytes + 255) / 256

/-! ### Admission (R176) -/

/-- What admission decides: a pool, or a drop with its cellar event code. -/
inductive Admit where
  | take (p : CellPool)
  | drop (code : Nat)
  deriving DecidableEq, Repr

/-- The admission decision for a frame of need cells on port g and priority q (R172, R176, R179). -/
def admitDecision (g q need : Nat) (s : State) : Admit :=
  let c := charge g q s
  let j := profileOf g s
  let u := c.guar + c.shared + c.headroom
  if c.guar + need ≤ fget (CEL_PROF_GUAR.guar j q) s then
    if need ≤ openFree s then .take .guaranteed else .drop 0x04
  else if !pauseMode g q s then
    let high := fget (CEL_PROF_HIGH.high j q) s
    if high != 0 && high < u + need then .drop 0x03
    else if need ≤ sharedFree s then .take .shared
    else .drop 0x04
  else if !c.xoff && need ≤ sharedFree s then .take .shared
  else if c.headroom + need ≤ fget (CEL_PROF_MODE.headroom j q) s && need ≤ headroomFree s then .take .headroom
  else .drop 0x05

/-- A charge with n more cells of a pool. -/
def Charge.add (p : CellPool) (n : Nat) (c : Charge) : Charge :=
  match p with
  | .guaranteed => { c with guar := c.guar + n }
  | .shared => { c with shared := c.shared + n }
  | .headroom => { c with headroom := c.headroom + n }
  | .transmit => c

/-- A charge with n fewer cells of a pool. -/
def Charge.sub (p : CellPool) (n : Nat) (c : Charge) : Charge :=
  match p with
  | .guaranteed => { c with guar := c.guar - n }
  | .shared => { c with shared := c.shared - n }
  | .headroom => { c with headroom := c.headroom - n }
  | .transmit => c

/-- Headroom in use, in units of 64 cells, rounded up. -/
def headroomUnits (s : State) : Nat := (chargeSum Charge.headroom s + 63) / 64

/-- Headroom use moves its peak (CEL_HEADROOM_STAT). -/
def notePeak (s : State) : State :=
  fset CEL_HEADROOM_STAT.peak_units (max (fget CEL_HEADROOM_STAT.peak_units s) (headroomUnits s)) s

/-- Charges n cells of a pool to a port and priority, or to the transmit region. -/
def chargeCells (g q : Nat) (p : CellPool) (n : Nat) (s : State) : State :=
  match p with
  | .transmit => { s with cellar := { s.cellar with txUsed := s.cellar.txUsed + n } }
  | .headroom => notePeak (setCharge g q ((charge g q s).add p n) s)
  | _ => setCharge g q ((charge g q s).add p n) s

/-- Returns n cells to the pool they came from. -/
def returnCells (g q : Nat) (p : CellPool) (n : Nat) (s : State) : State :=
  match p with
  | .transmit => { s with cellar := { s.cellar with txUsed := s.cellar.txUsed - n } }
  | _ => setCharge g q ((charge g q s).sub p n) s

/-! ### Xoff and what it makes due (R178 to R185) -/

/-- The xoff state that R178 and R179 give a charge, from its old one. -/
def nextXoff (g q : Nat) (s : State) : Bool :=
  let c := charge g q s
  let j := profileOf g s
  if !pauseMode g q s then false
  else
    let u := c.guar + c.shared + c.headroom
    let high := max 1 (fget (CEL_PROF_HIGH.high j q) s)
    let low := fget (CEL_PROF_LOW.low j q) s
    let low := if high ≤ low then high - 1 else low
    let offU := fget CEL_SHARED_CFG.xoff_units s
    let onU := max (fget CEL_SHARED_CFG.xon_units s) offU
    let holds := c.shared + c.headroom != 0
    if high ≤ u || (sharedFree s < offU * 64 && holds) || c.holds != 0 then true
    else if u ≤ low && (onU * 64 ≤ sharedFree s || !holds) && c.holds == 0 then false
    else c.xoff

/-- Whether a port has some xoff state set. -/
def anyXoff (g : Nat) (s : State) : Bool := (List.range 8).any fun q => (charge g q s).xoff

/-- Sets the xoff state of a port and priority; in mode 1 a change makes a PFC frame due (R183). -/
def setXoff (g q : Nat) (x : Bool) (s : State) : State :=
  let c := charge g q s
  if c.xoff = x then s
  else
    let s := setCharge g q { c with xoff := x } s
    let s := if x then count .cellar 0x08 1 { tc := some q } s else s
    if fget (PRT_PFC_CFG.tx_mode g) s = 1 then
      modPort g (fun p => { p with due := p.due ||| BitVec.ofNat 8 (2 ^ q) }) s
    else s

/-- The priorities for which port g owes a PFC frame: those due, in mode 1, and enabled in pfc_tx_en (R181, R183). -/
def pfcDue (g : Nat) (s : State) : Nat :=
  if fget (PRT_PFC_CFG.tx_mode g) s = 1 then (port g s).due.toNat &&& fget (PRT_PFC_CFG.pfc_tx_en g) s else 0

/-- Whether port g owes a pause frame (R181, R183). -/
def pauseDue (g : Nat) (s : State) : Bool := fget (PRT_PFC_CFG.tx_mode g) s == 2 && (port g s).duePause

/-- Whether port g may send a pause or PFC frame that is due (R181, R184, R185). -/
def ctlReady (g : Nat) (s : State) : Bool :=
  (pfcDue g s != 0 || pauseDue g s) && fbit (PRT_MAC_CFG.tx_en g) s && (port g s).linkUp

/-- A MAC control frame that is ready wakes its port from LPI (R157). -/
def wakeDue (s : State) : State :=
  s.ports.foldl (fun s e =>
    if e.2.txLpi == 2 && ctlReady e.1 s then modPort e.1 (fun p => { p with txLpi := 1 }) s else s) s

/-- The ports that hold some charge, each once. -/
def chargedPorts (s : State) : List Nat :=
  s.cellar.charges.foldl (fun acc e => if acc.contains (e.1 / 8) then acc else acc ++ [e.1 / 8]) []

/-- In mode 2 a pause frame is due where port g has changed between some xoff state and none (R183). -/
def notePause (before : State) (g : Nat) (s : State) : State :=
  if fget (PRT_PFC_CFG.tx_mode g) s = 2 ∧ anyXoff g s ≠ anyXoff g before then
    modPort g (fun p => { p with duePause := true }) s
  else s

/-- Evaluates every xoff state, after the frees and admissions of a DCLK cycle (R177, R178). -/
def evalXoff (s : State) : State :=
  let t := s.cellar.charges.foldl
    (fun s e => setXoff (e.1 / 8) (e.1 % 8) (nextXoff (e.1 / 8) (e.1 % 8) s) s) s
  wakeDue ((chargedPorts s).foldl (fun t g => notePause s g t) t)

/-- Frames for every asserted priority are due when a port can send again, beside what is due already (R185). -/
def redueXoff (g : Nat) (s : State) : State :=
  match fget (PRT_PFC_CFG.tx_mode g) s with
  | 1 =>
    let m := (List.range 8).foldl (fun a q => if (charge g q s).xoff then a + 2 ^ q else a) 0
    modPort g (fun p => { p with due := p.due ||| BitVec.ofNat 8 m }) s
  | 2 => if anyXoff g s then modPort g (fun p => { p with duePause := true }) s else s
  | _ => s

/-! ### Frames -/

/-- Frame id of the cellar. -/
def frame (id : Nat) (s : State) : Option Frame := mget id s.cellar.frames

/-- Sets frame id. -/
def setFrame (id : Nat) (f : Frame) (s : State) : State :=
  { s with cellar := { s.cellar with frames := mput id f s.cellar.frames } }

/-- What a sample of a received frame follows (R467). -/
def Frame.tag (f : Frame) (id : Nat) (press : Nat) : Tag :=
  { kind := 1, chan := 0, key := id, counter := 0, event := 0, startAt := f.arrived, start := f.stamp,
    port := f.port.getD 0, press := press, tc := f.prio, length := f.bytes.length }

/-- The press that owns row r (R13). -/
def ownerPress (r : Nat) (s : State) : Nat :=
  match r / 8 with
  | 0 => fget GLB_PRESS_MAP.group0 s
  | 1 => fget GLB_PRESS_MAP.group1 s
  | 2 => fget GLB_PRESS_MAP.group2 s
  | _ => fget GLB_PRESS_MAP.group3 s

/-- The press that decides a frame. -/
def Frame.press (f : Frame) (s : State) : Nat := ownerPress (f.port.getD f.keyPort / 8) s

/-- The attributes of an event of a received frame (R455). -/
def frameAttr (id : Nat) (f : Frame) (s : State) : Attr :=
  { priv := 3, tc := some f.prio, port := f.port.map (· % 8),
    item := some (f.tag id (f.press s)) }

/-- Returns a frame's cells to their pool and forgets it. -/
def freeFrame (id : Nat) (f : Frame) (s : State) : State :=
  let s := returnCells (f.port.getD 0) f.prio f.pool f.cells s
  { s with cellar := { s.cellar with frames := merase id s.cellar.frames } }

/-- One destination of a frame is done with it; the last one frees its cells (R19). -/
def dropRef (id : Nat) (s : State) : State :=
  match frame id s with
  | none => s
  | some f => if f.refs ≤ 1 then freeFrame id f s else setFrame id { f with refs := f.refs - 1 } s

/-- A destination of a frame ended without a delivery: its reference is dropped, and a sample of the frame ends when
no other destination is left (R467). -/
def discardRef (id : Nat) (s : State) : State :=
  let s := dropRef id s
  if (frame id s).isNone then endFrame id s else s

/-- Adds n references to a frame. -/
def addRefs (id n : Nat) (s : State) : State :=
  match frame id s with
  | none => s
  | some f => setFrame id { f with refs := f.refs + n } s

/-! ### Receive holds (R192) -/

/-- Places a receive hold for a frame that has an arrival port. -/
def placeHold (f : Frame) (s : State) : State :=
  match f.port with
  | none => s
  | some g =>
    let c := charge g f.prio s
    count .cellar 0x09 1 { priv := 3, tc := some f.prio } (setCharge g f.prio { c with holds := c.holds + 1 } s)

/-- Ends the hold that a frame placed. -/
def endHold (f : Frame) (s : State) : State :=
  match f.port with
  | none => s
  | some g =>
    let c := charge g f.prio s
    setCharge g f.prio { c with holds := c.holds - 1 } s

/-! ### Bank errors and sparing (R166 to R171) -/

/-- A spare bank with no logical bank assigned, the lowest first. -/
def freeSpare (s : State) : Option Nat :=
  let copying := s.cellar.copyBank.isSome
  if s.cellar.spare0.isNone && !(copying && s.cellar.copySpare == 0) then some 0
  else if s.cellar.spare1.isNone && !(copying && s.cellar.copySpare == 1) then some 1
  else none

/-- Starts copying logical bank b to spare n (R168). -/
def startSpare (b n : Nat) (s : State) : State :=
  { s with cellar := { s.cellar with copyBank := some b, copySpare := n, corrections := merase b s.cellar.corrections } }

/-- Bank b needs a spare and none is free (R169). Its count of corrected reads starts again, so that the next entry comes
after spare_thresh further ones within a second (DESIGN CHOICE: R169 does not say when the entry repeats). -/
def noSpare (b : Nat) (s : State) : State :=
  postError 2 12 0x05 b 0 { s with cellar := { s.cellar with corrections := merase b s.cellar.corrections } }

/-- Sparing that a count of corrected reads calls for (R167, R169). While another bank is copied, the bank waits for the
copier when a spare is left for it. -/
def autoSpare (b : Nat) (s : State) : State :=
  if s.cellar.copyBank = some b || s.cellar.wanting.contains b then s
  else
    match freeSpare s with
    | none => noSpare b s
    | some n =>
      if s.cellar.copyBank.isNone then startSpare b n s
      else { s with cellar := { s.cellar with wanting := s.cellar.wanting ++ [b] } }

/-- The corrected reads of logical bank b that spare_thresh still counts: those of the last second (R167). -/
def recentCorrections (b : Nat) (s : State) : List Nat :=
  (mgetD [] b s.cellar.corrections).filter fun t => s.time.dclk < t + 1600000000

/-- Adds a corrected read of logical bank b to those counted. -/
def noteCorrection (b : Nat) (s : State) : State :=
  { s with cellar := { s.cellar with
    corrections := mputD [] b (recentCorrections b s ++ [s.time.dclk]) s.cellar.corrections } }

/-- A read of logical bank b was corrected (R166, R167). -/
def correctedBank (b : Nat) (s : State) : State :=
  let s := corrected b (fset CEL_BANK_STAT.last_bank b (fset CEL_BANK_STAT.corr_seen 1 (fadd CEL_BANK_STAT.corr_cnt 1 s)))
  let s := noteCorrection b s
  if fbit CEL_SPARE_CTL.auto_spare s
      && max 1 (fget CEL_SPARE_CTL.spare_thresh s) ≤ (mgetD [] b s.cellar.corrections).length then
    autoSpare b s
  else s

/-- A word of logical bank b could not be corrected (R171). -/
def uncorrectableBank (b : Nat) (s : State) : State :=
  postError 2 12 0x02 b 0 (fset CEL_BANK_STAT.last_bank b (fset CEL_BANK_STAT.uncorr_seen 1 s))

/-- The number of a cellar word: words 0 to 3 of cell n are numbers 4n to 4n + 3 (R165). -/
def wordNumber (x : CellWord) : Nat := 4 * x.cell.toNat + x.word.toNat

/-- The logical bank in which a cellar word lies (R165). -/
def wordBank (x : CellWord) : Nat := wordNumber x % 64

/-- The address of a cellar word in its bank (R165). -/
def wordAddr (x : CellWord) : Nat := x.cell.toNat / 16

/-- Whether a copy has marked a word as poisoned (R422). -/
def isPoisoned (x : CellWord) (s : State) : Bool := s.cellar.poisoned.contains (wordNumber x)

/-- The mark of a word goes with the cell that holds it. -/
def unpoison (x : CellWord) (s : State) : State :=
  { s with cellar := { s.cellar with poisoned := s.cellar.poisoned.erase (wordNumber x) } }

/-- Takes note of how cellar words read; the answer says whether they could be read (R166, R171). A poisoned word reads
as one that cannot be corrected (R422). -/
def readCells (r : CellarRead) (s : State) : State × Bool :=
  let bad := r.bad <|> r.corrected.find? fun x => isPoisoned x s
  let s := (r.corrected.filter fun x => !isPoisoned x s).foldl (fun s x => correctedBank (wordBank x) s) s
  match bad with
  | none => (s, true)
  | some x => (uncorrectableBank (wordBank x) (unpoison x s), false)

end Sys2Proof.Machine
end

