-- ==== Sys2Proof/Machine/Gates.lean ====
section
/-!
DEFINITION. Twin pairs (R119), and the time gates of spec/09_transmit_scheduling_and_gates.md: the gate states in force
(R313, R314), the fit test (R315, R316) and frames that never fit (R317).
-/

namespace Sys2Proof.Machine

/-! ### Twin pairs (R119) -/

/-- An active twin pair: its anchor row, the anchor's port and the partner's, as global ports. -/
structure Pair where
  anchor : Nat
  main : Nat
  other : Nat
  deriving DecidableEq, Repr

/-- The global port that row r's local_port names. -/
def twinLocal (r : Nat) (s : State) : Nat := 8 * r + fget (ROW_TWIN_CFG.local_port r) s

/-- Whether row r's history_len lies in its range. -/
def historyOk (r : Nat) (s : State) : Bool :=
  1 ≤ fget (ROW_TWIN_CFG.history_len r) s && fget (ROW_TWIN_CFG.history_len r) s ≤ 128

/-- The active pair in which row r takes part, none where R119 does not hold. Of a pair across two rows the anchor row's
history_len is tested, as that row holds the history (DESIGN CHOICE: R119 does not say whose must lie in its range). -/
def pairOfRow (r : Nat) (s : State) : Option Pair :=
  if !fbit (ROW_TWIN_CFG.twin_en r) s then none
  else
    let l := twinLocal r s
    let p := fget (ROW_TWIN_CFG.partner_port r) s
    let q := p / 8
    let anchored := fbit (ROW_TWIN_CFG.anchor r) s
    if q = r then
      if anchored && l != p && historyOk r s then some ⟨r, l, p⟩ else none
    else if fbit (ROW_TWIN_CFG.twin_en q) s && twinLocal q s == p && fget (ROW_TWIN_CFG.partner_port q) s == l
        && anchored != fbit (ROW_TWIN_CFG.anchor q) s then
      if anchored then (if historyOk r s then some ⟨r, l, p⟩ else none)
      else if historyOk q s then some ⟨q, p, l⟩ else none
    else none

/-- The active pair to which port g belongs. -/
def pairOfPort (g : Nat) (s : State) : Option Pair :=
  match pairOfRow (g / 8) s with
  | some p => if p.main == g || p.other == g then some p else none
  | none => none

/-- The other port of a pair. -/
def Pair.mate (p : Pair) (g : Nat) : Nat := if g = p.main then p.other else p.main

/-! ### PTP time in units of 2^-28 ns (R341) -/

/-- The time now. -/
def ptpNow (s : State) : Nat := (s.time.sec * 1000000000 + s.time.ns) * 2 ^ 28 + s.time.frac * 2 ^ 12 + s.time.sub

/-- One SCLK tick of 1.25 ns. -/
def tick28 : Nat := 335544320

/-! ### Gate states (R313, R314) -/

/-- How far into its cycle a list is at time t, which may lie before its start after a step (R320). -/
def GateList.pos (l : GateList) (t : Nat) : Nat :=
  (Int.emod (Int.ofNat t - Int.ofNat l.start) (Int.ofNat (l.cycle * tick28))).toNat

/-- The entries of a list as they run within one cycle of left ticks: the number of the entry, its ticks and its
states. The last entry holds to the end of the cycle. -/
def gateSegs : Nat → Nat → List GateEntry → List (Nat × Nat × Byte)
  | _, _, [] => []
  | i, left, [e] => if left = 0 then [] else [(i, left, e.states)]
  | i, left, e :: es =>
    if left = 0 then [] else (i, min e.interval left, e.states) :: gateSegs (i + 1) (left - min e.interval left) es

/-- The segments of one cycle of a list. -/
def GateList.segs (l : GateList) : List (Nat × Nat × Byte) := gateSegs 0 l.cycle l.entries

/-- The segment in force at a position in units of 2^-28 ns, with the ticks units left of it and the segments behind. -/
def segAt : Nat → List (Nat × Nat × Byte) → Option ((Nat × Byte) × Nat × List (Nat × Nat × Byte))
  | _, [] => none
  | pos, (i, n, g) :: rest =>
    if pos < n * tick28 then some ((i, g), n * tick28 - pos, rest) else segAt (pos - n * tick28) rest

/-- The entry in force at time t. -/
def GateList.at (l : GateList) (t : Nat) : Nat × Byte := ((segAt (l.pos t) l.segs).map (·.1)).getD (0, 0xFF#8)

/-- The gate states of port g in force now (R314). -/
def gateStates (g : Nat) (s : State) : Byte :=
  match (port g s).oper with
  | some l => (l.at (ptpNow s)).2
  | none => BitVec.ofNat 8 (fget (PRT_GATE_CFG.init_states g) s)

/-- Whether gates apply at port g. -/
def gated (g : Nat) (s : State) : Bool := fbit (PRT_GATE_CFG.gate_en g) s

/-- Whether the gate of class c of port g is open now. -/
def gateOpen (g c : Nat) (s : State) : Bool := !gated g s || (gateStates g s).toNat.testBit c

/-! ### Windows (R316, R317) -/

/-- The length of the leading segments in which class c is open, and whether all of them are. -/
def openRun (c : Nat) : List (Nat × Nat × Byte) → Nat × Bool
  | [] => (0, true)
  | (_, n, g) :: rest =>
    if g.toNat.testBit c then
      let r := openRun c rest
      (n + r.1, r.2)
    else (0, false)

/-- How long class c stays open from position pos of a list in which it is open there, in units of 2^-28 ns; none for
ever. -/
def GateList.openLeft (l : GateList) (c pos : Nat) : Option Nat :=
  if (openRun c l.segs).2 then none
  else
    match segAt pos l.segs with
    | none => some 0
    | some (_, left, rest) =>
      let r := openRun c rest
      if r.2 then some (left + (r.1 + (openRun c l.segs).1) * tick28) else some (left + r.1 * tick28)

/-- The longest run of open segments of class c met in a list of segments, with the run in progress. -/
def longestRun (c : Nat) : Nat → Nat → List (Nat × Nat × Byte) → Nat
  | best, cur, [] => max best cur
  | best, cur, (_, n, g) :: rest =>
    if g.toNat.testBit c then longestRun c best (cur + n) rest else longestRun c (max best cur) 0 rest

/-- The longest open window of class c in ticks, none when it is open throughout. -/
def GateList.longest (l : GateList) (c : Nat) : Option Nat :=
  if (openRun c l.segs).2 then none else some (longestRun c 0 0 (l.segs ++ l.segs))

/-- How long the window of class c of port g that contains now stays open (R316): a list switch that is due ends it
unless the new list opens c in entry 0. none for ever. -/
def windowLeft (g c : Nat) (s : State) : Option Nat :=
  let p := port g s
  let t := ptpNow s
  let now_ : Option Nat :=
    match p.oper with
    | some l => l.openLeft c (l.pos t)
    | none => none
  match p.pendingGate with
  | none => now_
  | some l =>
    let until_ := l.start - t
    if (now_.map fun n => decide (n < until_)).getD false then now_
    else
      match l.entries with
      | [] => some until_
      | e :: _ =>
        if e.states.toNat.testBit c then (l.openLeft c 0).map (until_ + ·) else some until_

/-! ### Transmission bytes (R315) -/

/-- The speed of a port in Gbit/s. -/
def gbps (g : Nat) (s : State) : Nat :=
  match portSpeed g s with
  | 1 => 10 | 2 => 25 | 3 => 50 | 4 => 100 | 5 => 200 | 6 => 400 | 7 => 800 | _ => 0

/-- The inter-frame gap of port g. -/
def ifg (g : Nat) (s : State) : Nat := clamp 12 63 (fget (PRT_MAC_CFG.ifg g) s)

/-- The transmission bytes T of a frame of size bytes with FCS at port g. -/
def txBytes (g size : Nat) (os : OneStep) (s : State) : Nat :=
  max 64 (size + (if (pairOfPort g s).isSome then 6 else 0) + (if os = .off then 0 else 2)) + 8 + ifg g s

/-- The SCLK ticks that T and the guard need. -/
def needTicks (g t : Nat) (s : State) : Nat :=
  let d := 5 * gbps g s
  if d = 0 then 0 else ((t + 64) * 32 + d - 1) / d

/-- Whether class c of port g is gate-exempt. -/
def exempt (g c : Nat) (s : State) : Bool := (fget (PRT_GATE_CFG.exempt g) s).testBit c

/-- Whether a frame that needs T bytes never fits in class c of port g (R317). -/
def neverFits (g c t : Nat) (s : State) : Bool :=
  gated g s &&
    match (port g s).oper with
    | none => false
    | some l =>
      match l.longest c with
      | none => false
      | some n => n < needTicks g t s

/-- Whether a frame that needs T bytes may start now in class c of port g: it fits, or it never fits and its class is
exempt and open (R316, R317). -/
def fitsNow (g c t : Nat) (s : State) : Bool :=
  !gated g s ||
    (gateOpen g c s &&
      ((exempt g c s && neverFits g c t s) ||
       match windowLeft g c s with
       | none => true
       | some n => needTicks g t s * tick28 ≤ n))

/-! ### What the gates count -/

/-- The attributes of an event of port g with those of an item (R455). -/
def atPort (g : Nat) (a : Attr) : Attr := { a with port := some (g % 8) }

/-- A frame of port g never fitted and is dropped there (R317, R318). -/
def countNofit (g : Nat) (a : Attr) (s : State) : State := count (.row (g / 8)) 0x1E 1 (atPort g a) s

/-- gate_overrun (R317, R319). -/
def countOverrun (g : Nat) (a : Attr) (s : State) : State :=
  fset (PRT_GATE_STAT.overrun_seen g) 1 (count (.row (g / 8)) 0x1F 1 (atPort g a) s)

end Sys2Proof.Machine
end

