-- ==== Sys2Proof/Machine/Book.lean ====
section
/-!
DEFINITION. Completions and the cellar book: completion rings and moderation (R69 to R76), places and the backlog pool
(R76 to R79, R95, R376), the sequence points (R92) and their copies in the index block (R47, R100).
-/

namespace Sys2Proof.Machine

/-! ### Memory structures of a channel and a ring -/

/-- The address of channel c's context entry (R39). -/
def ctxAddr (c : Nat) (s : State) : DWord :=
  pairVal FAB_CTX_BASE_LO.reg FAB_CTX_BASE_HI.reg s + BitVec.ofNat 64 (c * 128)

/-- The address of ring n's completion context entry (R43). -/
def cctxAddr (n : Nat) (s : State) : DWord :=
  pairVal FAB_CCTX_BASE_LO.reg FAB_CCTX_BASE_HI.reg s + BitVec.ofNat 64 (n * 64)

/-- The address of the descriptor with index i in the transmit ring (R50). -/
def Ctx.txAddr (x : Ctx) (i : Word) : DWord := x.txBase + BitVec.ofNat 64 (i.toNat % 2 ^ x.txLog2 * 32)

/-- The address of the descriptor with index i in the receive buffer ring (R50). -/
def Ctx.rxAddr (x : Ctx) (i : Word) : DWord := x.rxBase + BitVec.ofNat 64 (i.toNat % 2 ^ x.rxLog2 * 16)

/-- Whether a channel is neither DISABLED nor STOPPED. -/
def Chan.active (ch : Chan) : Bool := ch.state != .disabled && ch.state != .stopped

/-- Changes the transmit side of channel c. -/
def modTx (c : Nat) (f : ChTx → ChTx) (s : State) : State := modChan c (fun ch => { ch with tx := f ch.tx }) s

/-- Changes the receive side of channel c. -/
def modRx (c : Nat) (f : ChRx → ChRx) (s : State) : State := modChan c (fun ch => { ch with rx := f ch.rx }) s

/-! ### Index block writes (R45 to R47, R100, R101) -/

/-- Whether a START of the channel is writing its index block: other writes of it wait until then (R100, R102). -/
def Chan.starting (ch : Chan) : Bool := ch.startOp.any (·.phase == .report)

/-- Writes tx_accepted, tx_done, rx_taken and rx_done when they have changed and no such write is outstanding. -/
def flushIndex (c : Nat) (s : State) : State :=
  let ch := chan c s
  if ch.idxDirty && !ch.idxOut && !ch.starting && mayIssue ch.ctx.func s then
    submitWrite ch.ctx.func (ch.ctx.idxAddr + 8)
      (leBytes 4 ch.tx.accepted.toNat ++ leBytes 4 ch.tx.done.toNat
        ++ leBytes 4 ch.rx.taken.toNat ++ leBytes 4 ch.rx.done.toNat) (.indexWrite c ch.idxTx)
      (setChan c { ch with idxOut := true, idxDirty := false, idxTx := false, doneDirty := false } s)
  else s

/-- An index of channel c changed; tx says a transmit one (FAB_CHN_FENCE_INFO.dir). -/
def markIndex (c : Nat) (tx : Bool) (s : State) : State :=
  flushIndex c (modChan c (fun ch => { ch with idxDirty := true, idxTx := ch.idxTx || tx }) s)

/-- Writes the cellar book copy when points have changed and no such write is outstanding (R100). -/
def flushBook (c : Nat) (s : State) : State :=
  let ch := chan c s
  let p := points c s
  if ch.bkDirty && !ch.bkOut && !ch.starting && mayIssue ch.ctx.func s then
    submitWrite ch.ctx.func (ch.ctx.idxAddr + 0x18)
      (leBytes 4 p.launched.toNat ++ leBytes 4 p.sent.toNat
        ++ leBytes 4 p.delivered.toNat ++ leBytes 4 ch.epoch.toNat) (.bookCopy c ch.bkTx)
      (setChan c { ch with bkOut := true, bkDirty := false, bkTx := false } s)
  else s

/-- Records the points of channel c in the retention book (R96). A change invalidates the aux image (R110), and the
index-block copy follows (R100). -/
def setPoints (c : Nat) (p : Points) (s : State) : State :=
  let q := points c s
  if p = q then s
  else
    let s := { s with book := { s.book with points := mputD {} c p s.book.points }
                      aux := { s.aux with imageValid := false }
                      power := { s.power with clean := false } }
    let tx := p.launched != q.launched || p.sent != q.sent
    if p.launched = q.launched ∧ p.sent = q.sent ∧ p.delivered = q.delivered then s
    else flushBook c (modChan c (fun ch => { ch with bkDirty := true, bkTx := ch.bkTx || tx }) s)

/-! ### Completion entries (R69, R70) -/

/-- The 32 bytes of a completion entry (R69). -/
def CEntry.bytes (e : CEntry) (phase : Bool) : Bytes :=
  leBytes 4 e.first.toNat
  ++ leBytes 4 (b2n e.l4err * 2 ^ 31 + b2n e.l3err * 2 ^ 30 + e.descCount * 2 ^ 24 + e.status * 2 ^ 16
      + b2n e.tsValid * 2 ^ 15 + b2n e.cvValid * 2 ^ 14 + b2n e.rx * 2 ^ 13 + e.chan)
  ++ leBytes 4 (e.port * 2 ^ 24 + e.slowReason * 2 ^ 16 + e.length % 2 ^ 15)
  ++ leBytes 4 (e.tc * 2 ^ 17 + (match e.vlan with | some t => 2 ^ 16 + t % 2 ^ 16 | none => 0))
  ++ leBytes 8 e.cvValue.toNat
  ++ leBytes 4 e.tsNs
  ++ leBytes 4 (b2n phase * 2 ^ 31 + e.tsSecLo % 2 ^ 16)

/-! ### Completion rings (R72 to R76) -/

/-- Whether a ring counts as full by the cached cons and the reserved slots (R73). -/
def Ring.full (r : Ring) : Bool := 2 ^ r.sizeLog2 ≤ used r.prod r.cons + r.reserved

/-- Re-reads a ring's cons_index, unless that read is outstanding (R73). -/
def readCons (n : Nat) (s : State) : State :=
  if (ring n s).consOut then s
  else submitRead (ownerFunc s) (cctxAddr n s + 0x20) 4 (.consIndex n) (modRing n ({ · with consOut := true }) s)

/-- Writes prod_index and stalled to memory when they have changed and no such write is outstanding; prod_index
counts only acknowledged entries (R44, R361). -/
def flushRing (n : Nat) (s : State) : State :=
  let r := ring n s
  if r.memDirty && !r.memOut && mayIssue (ownerFunc s) s then
    submitWrite (ownerFunc s) (cctxAddr n s + 0x28)
      (leBytes 4 (r.unacked.headD r.prod).toNat ++ leBytes 4 (b2n r.stalled)) (.ringProd n)
      (setRing n { r with memOut := true, memDirty := !r.unacked.isEmpty } s)
  else s

/-- Raises ring n's event; it covers every entry written so far, and both moderation counts restart (R74, R75). -/
def ringEvent (n : Nat) (s : State) : State :=
  let r := ring n s
  addEvent ⟨.ring n, r.func, r.vector⟩ (setRing n { r with since := 0, timer := false, cover := some r.prod } s)

/-- One more entry was written: the event is raised when the moderation allows it (R74). -/
def moderate (n : Nat) (s : State) : State :=
  let r := ring n s
  if !r.eventEn then setRing n { r with since := r.since + 1, timer := true } s
  else if r.modTime = 0 ∨ max 1 r.modCount ≤ r.since + 1 then ringEvent n s
  else setRing n { r with since := r.since + 1, timer := true } s

/-- Writes a completion entry into ring n at prod_index (R69, R70). upTo is the done index that the entry brings. -/
def writeEntry (n : Nat) (e : CEntry) (upTo : Word) (s : State) : State :=
  let r := ring n s
  let a := r.base + BitVec.ofNat 64 (r.prod.toNat % 2 ^ r.sizeLog2 * 32)
  let s := submitWrite r.func a (e.bytes (phaseOf r.prod r.sizeLog2)) (.entry n e upTo r.prod) s
  let s := setRing n { r with prod := r.prod + 1, unacked := r.unacked ++ [r.prod], memDirty := true } s
  let m : DoneMark := { upTo := upTo, written := false }
  let s := if e.rx then modRx e.chan (fun x => { x with marks := x.marks ++ [m] }) s
           else modTx e.chan (fun x => { x with marks := x.marks ++ [m] }) s
  moderate n (count .fabric 0x16 1 { chanAttr e.chan s with addr := some a.toNat, tc := some e.tc } s)

/-! ### Places and the backlog pool (R76, R79, R95, R376) -/

/-- The completion entry, with its ring, that a request holds for a channel that may not write: it keeps its place in the
ring, since a later entry may have been written, and waits for its channel (R375, R377). -/
def Req.heldEntry (r : Req) (s : State) : Option (Nat × CEntry) :=
  match r.purpose with
  | .entry n e _ _ => if r.port.isNone && entryHeld r s then some (n, e) else none
  | _ => none

/-- The completion entries that requests hold. -/
def heldOut (s : State) : List (Nat × CEntry) := s.fabric.reqs.filterMap fun r => r.heldEntry s

/-- Places of the pool that are taken: reservations, entries that hold no ring slot, and entries held (R376). -/
def poolUsed (s : State) : Nat :=
  s.book.poolReserved + (s.book.pool.filter fun e => !e.slot).length + (heldOut s).length

/-- Whether a place of the pool is free (R95). -/
def poolRoom (s : State) : Bool := poolUsed s < backlogReserve

/-- The reservation that waits in one direction of channel c. -/
def placeWait (c : Nat) (rx : Bool) (s : State) : Option PlaceWait := if rx then (chan c s).rx.wait else (chan c s).tx.wait

/-- Sets the reservation that waits in one direction of channel c. -/
def setPlaceWait (c : Nat) (rx : Bool) (w : Option PlaceWait) (s : State) : State :=
  if rx then modRx c (fun x => { x with wait := w }) s else modTx c (fun x => { x with wait := w }) s

/-- Whether cons_index has been read again for the reservation of an item of channel c (R73). -/
def reread (c : Nat) (rx : Bool) (item : Nat) (s : State) : Bool := placeWait c rx s == some ⟨item, true⟩

/-- Reserves a place for the completion entry of an item of channel c in ring n (R95): a ring slot, or a pool entry when
the ring is still full after the re-read of cons_index that the item asked for (R73). Otherwise there is none, and a
re-read has been asked for. -/
def reservePlace (n c : Nat) (rx : Bool) (item : Nat) (s : State) : Place × State :=
  let r := ring n s
  if !r.full then (.ring, setPlaceWait c rx none (setRing n { r with reserved := r.reserved + 1 } s))
  else if reread c rx item s && poolRoom s then
    (.pool, setPlaceWait c rx none { s with book := { s.book with poolReserved := s.book.poolReserved + 1 } })
  else (.none, readCons n (setPlaceWait c rx (some ⟨item, false⟩) s))

/-- cons_index of ring n was read for every reservation that waits for it. -/
def rereadSeen (n : Nat) (s : State) : State :=
  { s with chans := trim {} (s.chans.map fun e =>
      let seen := fun (w : Option PlaceWait) => w.map fun x => { x with reread := true }
      if e.2.ctx.cring = n then
        (e.1, { e.2 with tx := { e.2.tx with wait := seen e.2.tx.wait }, rx := { e.2.rx with wait := seen e.2.rx.wait } })
      else e) }

/-- Gives a reserved place back unused. -/
def releasePlace (n : Nat) (p : Place) (s : State) : State :=
  match p with
  | .none => s
  | .ring => modRing n (fun r => { r with reserved := r.reserved - 1 }) s
  | .pool => { s with book := { s.book with poolReserved := s.book.poolReserved - 1 } }

/-- Adds an entry to the backlog pool. An entry with a ring slot exchanges it for a place of the pool when its channel
may not write (R376) and a place is free; else it keeps the slot. -/
def poolAdd (n : Nat) (p : Place) (e : CEntry) (upTo : Word) (held : Bool) (s : State) : State :=
  let keep := p == .ring && !(held && poolRoom s)
  let s := if keep then s else releasePlace n p s
  let s := { s with book := { s.book with pool := s.book.pool ++ [⟨n, e, upTo, keep⟩] } }
  count .fabric 0x17 1 { chanAttr e.chan s with tc := some e.tc } s

/-- The samples of a committed item now end with the acknowledgement of its entry (R467); that of a chain names the
destination port of its completion (R469). -/
def finTags (p : Tag → Bool) (n : Nat) (e : CEntry) (upTo : Word) (s : State) : State :=
  let x := (chan e.chan s).ctx
  let f : SampleEnd :=
    { index := e.first, kind := b2n e.rx, cring := n, chan := e.chan, status := e.status, func := x.func, upTo := upTo,
      descAddr := if e.rx then x.rxAddr e.first else x.txAddr e.first }
  { s with pmu := { s.pmu with tags := s.pmu.tags.map fun t =>
                                  if p t then { t with fin := some f, port := if e.rx then t.port else e.port } else t } }

/-- Commits a completion entry in its reserved place (R92): written to the ring, or placed in the pool behind earlier
entries of its channel, when the ring is full, or while its channel's entries are held. -/
def commit (n : Nat) (p : Place) (e : CEntry) (upTo : Word) (s : State) : State :=
  let writable := (chan e.chan s).writable
  let behind := s.book.pool.any fun x =>
    x.ring == n && (x.entry.chan == e.chan || (p == .pool && !x.slot && (chan x.entry.chan s).writable))
  if writable && !behind && (p == .ring || !(ring n s).full) then
    writeEntry n e upTo (releasePlace n p s)
  else
    let s := poolAdd n p e upTo (!writable) s
    if writable then readCons n s else s

/-- Whether the i-th pool entry may be written now: its channel writes, no earlier entry of its channel waits, and it
has a slot or the ring has room. -/
def poolReady (n : Nat) (before : List PoolEntry) (x : PoolEntry) (s : State) : Bool :=
  x.ring == n && (chan x.entry.chan s).writable && (x.slot || !(ring n s).full)
    && !(before.any fun y => y.ring == n && (y.entry.chan == x.entry.chan || (chan y.entry.chan s).writable))

/-- Writes backlogged entries of ring n in finish order while there is room (R79); kept are the entries that stay. -/
def drainPoolFrom (n : Nat) : List PoolEntry → List PoolEntry → State → State
  | kept, [], s => { s with book := { s.book with pool := kept } }
  | kept, x :: rest, s =>
    if poolReady n kept x s then
      let s := if x.slot then releasePlace n .ring s else s
      drainPoolFrom n kept rest (writeEntry n x.entry x.upTo s)
    else drainPoolFrom n (kept ++ [x]) rest s

/-- Whether entries of ring n wait in the pool, or are held in a place of it (R376). -/
def hasBacklog (n : Nat) (s : State) : Bool := s.book.pool.any (fun x => x.ring == n) || (heldOut s).any fun x => x.1 == n

/-- Writes what the ring has room for, and clears stalled when no entry is left (R79). -/
def drainPool (n : Nat) (s : State) : State :=
  let s := drainPoolFrom n [] s.book.pool s
  if (ring n s).stalled && !hasBacklog n s then
    flushRing n (modRing n (fun r => { r with stalled := false, alerted := false, memDirty := true }) s)
  else s

/-- Whether an entry of ring n that could be written has no room. -/
def entryWaits (n : Nat) (s : State) : Bool :=
  (ring n s).full && s.book.pool.any fun x => x.ring == n && !x.slot && (chan x.entry.chan s).writable

/-- Writes what the ring has room for, and reads cons_index again for what has none (R73, R79). -/
def drainOrAsk (n : Nat) (s : State) : State :=
  let s := drainPool n s
  if entryWaits n s then readCons n s else s

/-- The ring stalls when an entry that could be written has no room after a re-read (R76): stalled sets and an event is
raised whatever the moderation state. -/
def stallCheck (n : Nat) (s : State) : State :=
  if entryWaits n s && !(ring n s).stalled then
    flushRing n (ringEvent n (modRing n (fun r => { r with stalled := true, alerted := false, memDirty := true }) s))
  else s

/-- Entries of channel c in the pool or held in a place of it, in one direction. -/
def chanBacklog (c : Nat) (rx : Bool) (s : State) : Nat :=
  (s.book.pool.filter fun x => x.entry.chan == c && x.entry.rx == rx).length
    + ((heldOut s).filter fun x => x.2.chan == c && x.2.rx == rx).length

/-- Items of channel c in one direction that are accepted and not completed (R77). -/
def inflight (c : Nat) (rx : Bool) (s : State) : Nat :=
  chanBacklog c rx s + (if rx then (chan c s).rx.assigned.length else (chan c s).tx.chains.length)

/-- Whether channel c is at its inflight_limit in one direction. A channel that has not been started has none yet. -/
def inflightFull (c : Nat) (rx : Bool) (s : State) : Bool :=
  (chan c s).ctx.inflight != 0 && (chan c s).ctx.inflight ≤ inflight c rx s

/-! ### Done indices (R47) -/

/-- Whether a mark waits for the acknowledgement of its entry. -/
def DoneMark.waits (m : DoneMark) : Bool := !m.written && !m.failed

/-- The marks of a direction after the entry up to u was acknowledged, and the done index that results. -/
def ackMarks (u done : Word) (marks : List DoneMark) : Word × List DoneMark :=
  let marks := (marks.foldl (fun (acc : List DoneMark × Bool) m =>
    if !acc.2 && m.waits && m.upTo == u then (acc.1 ++ [{ m with written := true }], true)
    else (acc.1 ++ [m], acc.2)) ([], false)).1
  ((marks.takeWhile (·.written)).foldl (fun _ m => m.upTo) done, marks.dropWhile (·.written))

/-- The entry of channel c that brings the done index to u is acknowledged: the done index advances over every entry
acknowledged in order, and the index block follows (R47). -/
def ackDone (c : Nat) (rx : Bool) (u : Word) (s : State) : State :=
  let ch := chan c s
  if rx then
    let r := ackMarks u ch.rx.done ch.rx.marks
    let s := setChan c { ch with rx := { ch.rx with done := r.1, marks := r.2 } } s
    if r.1 = ch.rx.done then s else markIndex c false (modChan c (fun ch => { ch with doneDirty := true }) s)
  else
    let r := ackMarks u ch.tx.done ch.tx.marks
    let s := setChan c { ch with tx := { ch.tx with done := r.1, marks := r.2 } } s
    if r.1 = ch.tx.done then s else markIndex c true (modChan c (fun ch => { ch with doneDirty := true }) s)

/-- The first mark of an entry that goes back to the pool is taken out; it comes again when the entry is written. -/
def dropMark (c : Nat) (rx : Bool) (u : Word) (s : State) : State :=
  let p := fun (m : DoneMark) => m.waits && m.upTo == u
  if rx then modRx c (fun x => { x with marks := x.marks.eraseP p }) s
  else modTx c (fun x => { x with marks := x.marks.eraseP p }) s

/-- The marks of a direction after the write of the entry up to u has failed. -/
def failMarks (u : Word) : List DoneMark → List DoneMark
  | [] => []
  | m :: ms => if m.waits && m.upTo == u then { m with failed := true } :: ms else m :: failMarks u ms

/-- The write of the entry of channel c that brings the done index to u has failed: the done index never passes it
(R47). -/
def failMark (c : Nat) (rx : Bool) (u : Word) (s : State) : State :=
  if rx then modRx c (fun x => { x with marks := failMarks u x.marks }) s
  else modTx c (fun x => { x with marks := failMarks u x.marks }) s

/-! ### Entries whose write was not issued (R372, R375, R379) -/

/-- Whether a request has not been issued; kept also takes one that waits to be issued again (R375). -/
def Req.unissued (kept : Bool) (r : Req) : Bool := r.port.isNone && (kept || !r.reissued)

/-- The request that would write the entry with index i of ring n and has not been issued. -/
def unissuedEntry (kept : Bool) (n : Nat) (i : Word) (s : State) : Option (Nat × CEntry × Word) :=
  s.fabric.reqs.findSome? fun r =>
    match r.purpose with
    | .entry m e u j => if m = n ∧ j = i ∧ r.unissued kept then some (r.id, e, u) else none
    | _ => none

/-- Takes the last entries of ring n that were not issued back into the backlog pool, ahead of the entries that wait
there; each exchanges its slot for a place of the pool (R376), and keeps the slot where no place is free. fuel bounds the
number. -/
def unwriteRing (kept : Bool) (n : Nat) : Nat → State → State
  | 0, s => s
  | k + 1, s =>
    let r := ring n s
    match unissuedEntry kept n (r.prod - 1) s with
    | none => s
    | some (id, e, u) =>
      let s := dropReq id s
      let keep := !poolRoom s
      let s := setRing n { r with prod := r.prod - 1, unacked := r.unacked.erase (r.prod - 1),
                                  reserved := r.reserved + b2n keep } s
      let s := dropMark e.chan e.rx u { s with book := { s.book with pool := ⟨n, e, u, keep⟩ :: s.book.pool } }
      unwriteRing kept n k s

/-- The entries of channel c's ring that were not issued go back into the pool. -/
def unwriteChan (c : Nat) (s : State) : State :=
  let n := (chan c s).ctx.cring
  if (ring n s).held then unwriteRing false n s.fabric.reqs.length s else s

/-- The entries that wait to be issued, as the backlog pool would hold them. -/
def heldEntries (s : State) : List PoolEntry :=
  s.fabric.reqs.filterMap fun r =>
    match r.purpose with
    | .entry n e u _ => if r.port.isNone then some ⟨n, e, u, false⟩ else none
    | _ => none

/-- Every entry that waits to be issued goes back into the pool, as a drain or a loss of the core finds it (R105,
R107). -/
def unwriteAll (s : State) : State :=
  let s := s.rings.foldl (fun s e => unwriteRing true e.1 s.fabric.reqs.length s) s
  { s with book := { s.book with pool := heldEntries s ++ s.book.pool } }

end Sys2Proof.Machine
end

