-- ==== Sys2Proof/Machine/Rounds.lean ====
section
/-!
DEFINITION. Membership of the rounds of spec/09 (R298, R302, R303): a channel stands in a class of a port while a chain
of it is queued there, in the committed stage only when its shaper is enabled, and a forwarding queue while it holds a
frame.
-/

namespace Sys2Proof.Machine

/-- The number of the round of a class and stage; stage 0 is the committed one. -/
def roundKey (tc stage : Nat) : Nat := tc * 2 + stage

/-- A round with member m present or absent as wanted (R303). -/
def Round.sync (m : Member) (want : Bool) (r : Round) : Round :=
  match r.members.find? fun e => e.1 == m with
  | some e =>
    if want then r
    else
      { members := r.members.filter fun x => x.1 != m
        turn := if r.turn = some m then none else r.turn
        next := if r.next = some m then none else r.next
        left := if e.2 < 0 then r.left ++ [e] else r.left }
  | none =>
    if want then
      let d := ((r.left.find? fun e => e.1 == m).map (·.2)).getD 0
      { r with members := r.members ++ [(m, d)], left := r.left.filter fun x => x.1 != m }
    else r

/-- The rounds of a port with member m present in the class and stages wanted. -/
def syncRounds (m : Member) (want : Nat → Bool) (rs : SMap Round) : SMap Round :=
  (List.range 16).foldl (fun rs k => mputD {} k (Round.sync m (want k) (mgetD {} k rs)) rs) rs

/-- The chains of channel c that may be queued to ports: those launched, and the head chain (R298). -/
def headChains (ch : Chan) : List Chain :=
  let l := ch.tx.chains.takeWhile fun k => k.stage == .launched
  l ++ (ch.tx.chains.drop l.length).take 1

/-- The classes in which channel c is queued to port g. -/
def classesAt (ch : Chan) (g : Nat) : List Nat :=
  (headChains ch).flatMap fun k => (k.copies.filter fun x => x.port == g && x.phase == .queued).map (·.tc)

/-- Whether channel c's rounds name it on a port. -/
def standsAt (c : Nat) (p : Port) : Bool := p.rounds.any fun r => r.2.members.any fun e => e.1 == .chan c

/-- Brings the rounds of every port in line with the queued chains of channel c. -/
def syncChan (c : Nat) (s : State) : State :=
  let ch := chan c s
  let ports := (s.ports.filter fun e => standsAt c e.2).map (·.1)
    ++ (headChains ch).flatMap fun k => k.copies.map (·.port)
  ports.foldl (fun s g =>
    let tcs := classesAt ch g
    let want := fun k => tcs.contains (k / 2) && (k % 2 == 1 || ch.ctx.cir != 0)
    modPort g (fun p => { p with rounds := syncRounds (.chan c) want p.rounds }) s) s

/-- The forwarding queue of a class of port g. -/
def fwdQueue (g tc : Nat) (s : State) : List FwdItem := mgetD [] tc (port g s).queues

/-- Sets the forwarding queue of a class of port g; the queue is a member while it holds a frame. -/
def setFwdQueue (g tc : Nat) (q : List FwdItem) (s : State) : State :=
  modPort g (fun p => { p with
    queues := mputD [] tc q p.queues
    rounds := mputD {} (roundKey tc 1) (Round.sync .fwd (!q.isEmpty) (mgetD {} (roundKey tc 1) p.rounds)) p.rounds }) s

end Sys2Proof.Machine
end

