-- ==== Sys2Proof/Machine/Channels.lean ====
section
/-!
DEFINITION. Channels (spec/02, spec/03, spec/10): producer index reads and descriptor fetch, fences (R84), frames queued
to a channel (R495), staging of accepted chains (R173), settling (R98, R494), the check-value log ring (R332 to R335),
assignment and delivery of received frames (R64 to R68), and stopping (R82, R83, R86).
-/

namespace Sys2Proof.Machine

/-! ### Acceptance -/

/-- Whether channel c accepts chains and assigns frames: it is RUNNING and no drain has stopped it (R81, R105). -/
def accepts (c : Nat) (s : State) : Bool := (chan c s).state == .running && s.power.drain.isNone

/-! ### Frames queued to a channel (R191, R282, R219, R495) -/

/-- The attributes of a frame waiting for channel c (R455). -/
def waitAttr (c : Nat) (r : RxRef) (s : State) : Attr :=
  let x := (chan c s).ctx
  match frame r.frame s with
  | some f =>
    { frameAttr r.frame f s with
      priv := if f.port.isSome then 3 else if f.chan.isNone then 2 else funcPriv x.func s,
      func := some x.func, chan := some c, cring := some x.cring }
  | none => chanAttr c s

/-- The unit and code under which a frame that waits for a channel is counted when it is dropped: a mirror copy as
mirror_drop of its press, whatever drops it (R282), and any other frame as the cellar event code. -/
def dropCode (code : Nat) (r : RxRef) (s : State) : CUnit × Nat :=
  match r.kind with
  | .mirror => (.press (((frame r.frame s).map fun f => f.press s).getD 0), 0x3A)
  | _ => (.cellar, code)

/-- The frame waits for no place and no log slots of channel c any longer. -/
def forgetWait (c id : Nat) (s : State) : State :=
  modRx c (fun x => { x with wait := x.wait.filter (·.item != id), logWait := x.logWait.filter (· != id) }) s

/-- Drops a queued frame's reference for channel c, counted as cellar event code (0x06 cel_uncorr, 0x07 rx_wait_drop);
its receive hold ends. -/
def dropWaiting (c code : Nat) (r : RxRef) (s : State) : State :=
  let d := dropCode code r s
  let s := forgetWait c r.frame (count d.1 d.2 1 (waitAttr c r s) s)
  let s := match frame r.frame s with
    | some f => if r.held then endHold f s else s
    | none => s
  discardRef r.frame s

/-- Drops every frame queued to channel c and not assigned (R495). A slow-path frame that was queued already is counted as
rx_wait_drop as well: R219 speaks of the press that queues one, and R495 names none but that (DESIGN CHOICE). -/
def dropQueued (c : Nat) (s : State) : State :=
  let q := (chan c s).rx.queue
  q.foldl (fun s r => dropWaiting c 0x07 r s) (modRx c (fun x => { x with queue := [] }) s)

/-! ### Reads of producer indices and descriptors (R54 to R60) -/

/-- Whether the read of a producer index that p picks has not been issued: what asks for it now coalesces with it
(R55). -/
def readWaits (p : Purpose) (s : State) : Bool :=
  s.fabric.reqs.any fun r => r.purpose == p && r.port.isNone && !r.reissued && !r.discard

/-- Reads tx_prod, or notes that a further read follows the one outstanding (R55). b is when it was asked for. -/
def readTxProd (c : Nat) (b : Began) (s : State) : State :=
  let ch := chan c s
  if ch.tx.idxOut then
    if readWaits (.txProd c) s || ch.tx.idxAgain then s else modTx c (fun x => { x with idxAgain := true, startAgain := b }) s
  else
    let a := ch.ctx.idxAddr
    count .fabric 0x12 1 { chanAttr c s with addr := some a.toNat }
      (submitRead ch.ctx.func a 4 (.txProd c) (modTx c (fun x => { x with idxOut := true, start := b }) s))

/-- Reads rx_prod, or notes that a further read follows the one outstanding (R55). -/
def readRxProd (c : Nat) (s : State) : State :=
  let ch := chan c s
  if ch.rx.idxOut then
    if readWaits (.rxProd c) s then s else modRx c (fun x => { x with idxAgain := true }) s
  else
    let a := ch.ctx.idxAddr + 4
    count .fabric 0x12 1 { chanAttr c s with addr := some a.toNat }
      (submitRead ch.ctx.func a 4 (.rxProd c) (modRx c (fun x => { x with idxOut := true }) s))

/-- Fetches the next transmit descriptor when there is one below tx_prod and the limit allows it (R52, R77). -/
def fetchTx (c : Nat) (s : State) : State :=
  let ch := chan c s
  if accepts c s && !ch.tx.descOut && ch.tx.fetch != ch.tx.prod && !inflightFull c false s then
    submitRead ch.ctx.func (ch.ctx.txAddr ch.tx.fetch) 32 (.txDesc c) (modTx c (fun x => { x with descOut := true }) s)
  else s

/-- What examining buffer descriptors from rx_taken gives (R68). -/
inductive RxCover where
  | covered (n : Nat)
  | malformed (n reason : Nat)
  | tooMany
  | short
  deriving DecidableEq, Repr

/-- Examines descriptors in order for a delivered length of len bytes, n of them examined so far (R64, R68). -/
def coverDescs (len : Nat) : Nat → List RxDesc → RxCover
  | n, ds =>
    match ds with
    | [] => .short
    | d :: ds =>
      match d.bad with
      | some r => .malformed (n + 1) r
      | none =>
        if len ≤ d.len then .covered (n + 1)
        else if 32 ≤ n + 1 then .tooMany
        else coverDescs (len - d.len) (n + 1) ds

/-- The length of a frame as channel c delivers it (R63, R69). -/
def deliveredLen (x : Ctx) (bs : Bytes) : Nat := if x.stripFcs then bs.length - 4 else bs.length

/-- Whether a queued frame waits in pause mode (R191): its arrival port and priority decide. A slow-path frame, a mirror
copy and a frame from another channel wait in drop mode, whatever the profile says (R193, R218, R282). -/
def waitsPaused (r : RxRef) (s : State) : Bool :=
  match r.kind, frame r.frame s with
  | .normal, some f => (f.port.map fun g => pauseMode g f.prio s).getD false
  | _, _ => false

/-- The wait of a frame for channel c reaches its limit: it is dropped, or places its receive hold (R191). -/
def waitLimit (c : Nat) (r : RxRef) (s : State) : State :=
  if waitsPaused r s then
    if r.held then s
    else
      let s := match frame r.frame s with
        | some f => placeHold f s
        | none => s
      let held := fun (q : RxRef) => if q = r then { q with held := true } else q
      modRx c (fun x => { x with queue := x.queue.map held }) s
  else dropWaiting c 0x07 r (modRx c (fun x => { x with queue := x.queue.erase r }) s)

/-- The frames of a queue that cannot be assigned at once (R191): full says that the channel is at its inflight_limit
once a number of frames before them are assigned, stays that a frame waits on in pause mode, ds are the descriptors read,
and more says that others are posted. A frame that is dropped leaves its descriptors to those behind it; one that stays
holds them up. -/
def lateFrames (x : Ctx) (full : Nat → Bool) (stays : RxRef → Bool) (more : Bool) :
    Nat → List RxDesc → List RxRef → List RxRef
  | _, _, [] => []
  | i, ds, r :: q =>
    if full i then r :: q
    else
      match coverDescs (deliveredLen x r.bytes) 0 ds with
      | .covered n => lateFrames x full stays more (i + 1) (ds.drop n) q
      | .short =>
        if more then [] else if stays r then r :: q else r :: lateFrames x full stays more i ds q
      | _ => []

/-- With a limit_us of 0 the wait of a frame that cannot be assigned at once has reached its limit (R191). -/
def zeroWait (c : Nat) (s : State) : State :=
  let ch := chan c s
  if fget CEL_WAIT_LIMIT.limit_us s = 0 ∧ accepts c s then
    let full := fun i => ch.ctx.inflight != 0 && ch.ctx.inflight ≤ inflight c true s + i
    (lateFrames ch.ctx full (waitsPaused · s) (ch.rx.descOut || ch.rx.fetch != ch.rx.prod) 0 ch.rx.descs ch.rx.queue).foldl
      (fun s r => waitLimit c r s) s
  else s

/-- Fetches the next buffer descriptor when the frame at the head of the queue still needs one. -/
def fetchRx (c : Nat) (s : State) : State :=
  let s := zeroWait c s
  let ch := chan c s
  match ch.rx.queue with
  | [] => s
  | r :: _ =>
    if accepts c s && !ch.rx.descOut && ch.rx.fetch != ch.rx.prod
        && coverDescs (deliveredLen ch.ctx r.bytes) 0 ch.rx.descs == .short then
      submitRead ch.ctx.func (ch.ctx.rxAddr ch.rx.fetch) 16 (.rxDesc c) (modRx c (fun x => { x with descOut := true }) s)
    else s

/-- Whether a request is an index block or descriptor read of channel c. -/
def Req.isFetch (c : Nat) (r : Req) : Bool :=
  match r.purpose with
  | .txProd d | .rxProd d | .txDesc d | .rxDesc d => d == c
  | _ => false

/-- Samples of a chain of channel c that it has not completed. -/
def chainTag (c : Nat) (first : Word) (t : Tag) : Bool := t.kind == 0 && t.chan == c && t.key == first.toNat && t.fin.isNone

/-- The end of the samples of a chain that is discarded (R467, R469). -/
def chainLost (c : Nat) (first : Word) (s : State) : SampleEnd :=
  let x := (chan c s).ctx
  { index := first, kind := 0, cring := x.cring, chan := c, status := 0xFF, func := x.func, descAddr := x.txAddr first }

/-- Gives up the index block and descriptor reads of channel c. A partial chain is discarded, and its samples end
(R467). -/
def discardFetches (c : Nat) (s : State) : State :=
  let first := (chan c s).tx.accepted
  let s := endTags (chainTag c first) (fun _ => chainLost c first s) (discardReqs (·.isFetch c) s)
  modChan c (fun ch => { ch with
    tx := { ch.tx with descOut := false, idxOut := false, idxAgain := false, fetch := ch.tx.accepted, partialDescs := [] }
    rx := { ch.rx with descOut := false, idxOut := false, idxAgain := false, fetch := ch.rx.taken, descs := [] } }) s

/-! ### Fences (R84, R91) -/

/-- Fences channel c with a reason and the status of the completion, 0 for none (R84, R85). Only a channel that is
RUNNING or STOPPING is fenced (R82). -/
def fence (c : Nat) (rx : Bool) (reason status : Nat) (s : State) : State :=
  let ch := chan c s
  if ch.state == .running || ch.state == .stopping then
    let s := dropQueued c s
    let s := discardReqs (·.isFetch c) s
    let s := modChan c (fun ch => { ch with
      state := .fenced
      fence := some (ch.fence.getD ⟨rx, reason, status⟩)
      tx := { ch.tx with descOut := false, idxOut := false, idxAgain := false }
      rx := { ch.rx with descOut := false, idxOut := false, idxAgain := false } }) s
    let s := postError 1 2 0x10 0 (c + reason * 2 ^ 16) s
    ringEvent ch.ctx.cring (count .fabric 0x18 1 (chanAttr c s) s)
  else s

/-- Fences every channel assigned to ring n (R72, R367). -/
def fenceRing (n reason : Nat) (s : State) : State :=
  s.chans.foldl (fun s e => if e.2.active && e.2.ctx.cring == n then fence e.1 true reason 0 s else s) s

/-! ### The check-value log ring (R332 to R335) -/

/-- Changes the log ring of channel c. -/
def modLog (c : Nat) (f : PRing → PRing) (s : State) : State := modChan c (fun ch => { ch with log := f ch.log }) s

/-- Reads the log ring's cons, unless that read is outstanding. -/
def readLogCons (c : Nat) (s : State) : State :=
  let ch := chan c s
  if ch.log.consOut then s
  else submitRead ch.ctx.func ch.ctx.logBase 4 (.logCons c) (modLog c ({ · with consOut := true }) s)

/-- The item that waits for log slots in one direction of a channel. -/
def Chan.logWait (ch : Chan) (rx : Bool) : Option Nat := if rx then ch.rx.logWait else ch.tx.logWait

/-- The channel with the item that waits for log slots in one direction. -/
def Chan.setLogWait (rx : Bool) (w : Option Nat) (ch : Chan) : Chan :=
  if rx then { ch with rx := { ch.rx with logWait := w } } else { ch with tx := { ch.tx with logWait := w } }

/-- Whether an item of a channel waits for log slots (R335). -/
def Chan.logWaits (ch : Chan) : Bool := ch.tx.logWait.isSome || ch.rx.logWait.isSome

/-- Reserves n log slots for an item of channel c, or makes the item wait for them (R335). -/
def reserveLog (c : Nat) (rx : Bool) (item n : Nat) (s : State) : Bool × State :=
  let ch := chan c s
  if n ≤ ch.log.free ch.ctx.logLog2 then
    (true, setChan c ({ ch with log := { ch.log with reserved := ch.log.reserved + n } }.setLogWait rx none) s)
  else
    let s := if ch.logWait rx = some item then s
      else count .global 0x0A 1 {} (fadd CVU_STAT.log_wait_cnt 1 (setChan c (ch.setLogWait rx (some item)) s))
    (false, readLogCons c s)

/-- The 16 bytes of a log record (R333). -/
def logBytes (b : CvBlock) (rx phase : Bool) : Bytes :=
  leBytes 8 b.value.toNat ++ leBytes 8 (b2n phase * 2 ^ 63 + b2n rx * 2 ^ 62 + b.tag.toNat % 2 ^ 56)

/-- Writes one log record of channel c (R334). -/
def writeLog (c : Nat) (rx : Bool) (b : CvBlock) (s : State) : State :=
  let ch := chan c s
  let i := ch.log.prod
  let a := ch.ctx.logBase + BitVec.ofNat 64 (64 + i.toNat % 2 ^ ch.ctx.logLog2 * 16)
  count .global 0x09 1 {}
    (modLog c PRing.push (submitWrite ch.ctx.func a (logBytes b rx (phaseOf i ch.ctx.logLog2)) (.logRecord c i) s))

/-- Writes the records of an item and gives its reserved slots back (R332). -/
def writeLogs (c : Nat) (rx : Bool) (slots : Nat) (bs : List CvBlock) (s : State) : State :=
  let s := modLog c (fun l => { l with reserved := l.reserved - slots }) s
  if (chan c s).ctx.conf.logEn then bs.foldl (fun s b => writeLog c rx b s) s else s

/-- Writes the log ring's prod when that is due (R334). -/
def flushLogProd (c : Nat) (batch : Bool) (s : State) : State :=
  let ch := chan c s
  if ch.log.prodDue batch then
    submitWrite ch.ctx.func (ch.ctx.logBase + 4) (leBytes 4 ch.log.settled.toNat) (.logProd c) (modLog c PRing.prodSent s)
  else s

/-! ### Staging accepted chains (R173) -/

/-- Changes the chain of channel c that begins at first. -/
def modChain (c : Nat) (first : Word) (f : Chain → Chain) (s : State) : State :=
  modTx c (fun x => { x with chains := x.chains.map fun k => if k.first = first then f k else k }) s

/-- The chain of channel c that begins at first. -/
def chainOf (c : Nat) (first : Word) (s : State) : Option Chain :=
  (chan c s).tx.chains.find? fun k => k.first == first

/-- The first descriptor of a chain (R58). -/
def Chain.head (k : Chain) : TxDesc := k.descs.headD {}

/-- Transmit region cells of a chain (R173). -/
def Chain.needs (k : Chain) : Nat := cellsFor (k.total + 4 + (if k.head.vlanIns then 4 else 0))

/-- The attributes of an event of a chain of channel c (R455). -/
def chainAttr (c : Nat) (k : Chain) (s : State) : Attr :=
  let ch := chan c s
  { chanAttr c s with
    tc := some ch.ctx.tc
    item := some { kind := 0, chan := c, key := k.first.toNat, counter := 0, event := 0, startAt := k.start.at_,
                   start := k.start.time, port := k.port, press := ownerPress ch.ctx.homeRow s, tc := ch.ctx.tc,
                   length := k.total + 4 } }

/-- Whether a chain is staged, or being staged, and not launched (R173), one that settles included while it holds its
cells. -/
def Chain.stagedNotLaunched (k : Chain) : Bool :=
  match k.stage with
  | .reading | .staged | .inPress | .unitWait _ | .decided => true
  | .settling _ => k.cells != 0
  | _ => false

/-- The pieces of memory that hold a chain's data, one request each (R357). -/
def chainFrags (ds : List TxDesc) : List Frag :=
  ds.flatMap fun d => (pieces d.addr d.len).map fun p => ⟨d.addr + BitVec.ofNat 64 p.1, p.2, none⟩

/-- Submits the read of each piece, numbering from i. -/
def readFrags (c fn : Nat) (first : Word) : Nat → List Frag → State → State
  | _, [], s => s
  | i, f :: fs, s => readFrags c fn first (i + 1) fs (submitRead fn f.addr f.len (.txData c first i) s)

/-- Reads the descriptors of a chain again, one request each, numbering from i (R115). -/
def rereadDescs (c : Nat) (x : Ctx) (first : Word) : Nat → Nat → State → State
  | _, 0, s => s
  | i, n + 1, s =>
    rereadDescs c x first (i + 1) n
      (submitRead x.func (x.txAddr (first + BitVec.ofNat 32 i)) 32 (.chainDesc c first i) s)

/-- Reads a chain's data from memory into the transmit region (R173). -/
def readChain (c : Nat) (k : Chain) (s : State) : State :=
  let fs := chainFrags k.descs
  readFrags c (chan c s).ctx.func k.first 0 fs
    (modChain c k.first (fun k => { k with stage := .reading, frags := fs, data := [] }) s)

/-- A chain takes its cells and its data is read. -/
def startStaging (c : Nat) (k : Chain) (s : State) : State :=
  readChain c k (modChain c k.first (fun k => { k with cells := k.needs })
    { s with cellar := { s.cellar with txUsed := s.cellar.txUsed + k.needs } })

/-- The next chain of channel c begins to wait for the transmit region, when the channel has fewer than two chains
staged and not launched (R173); it is staged at once when nothing waits before it and it fits. -/
def enqueueStage (c : Nat) (s : State) : State :=
  let ch := chan c s
  let busy := (ch.tx.chains.filter Chain.stagedNotLaunched).length
    + (s.cellar.txWaiting.filter fun w => w.1 == c).length
  if busy < 2 then
    match ch.tx.chains.find? fun k => k.stage == .waiting && !s.cellar.txWaiting.contains (c, k.first) with
    | none => s
    | some k =>
      if s.cellar.txWaiting.isEmpty && k.needs ≤ txFree s then startStaging c k s
      else count .cellar 0x0A 1 (chainAttr c k s)
        { s with cellar := { s.cellar with txWaiting := s.cellar.txWaiting ++ [(c, k.first)] } }
  else s

/-! ### Chains that end (R92, R98, R494) -/

/-- Forgets the header copies of a chain that is discarded. -/
def forgetCopies (c : Nat) (first : Word) (s : State) : State :=
  { s with presses := trim {} (s.presses.map fun e => (e.1, { e.2 with
      waiting := e.2.waiting.filter fun w => w.item != .chain c first
      window := e.2.window.map fun w => if w.item = .chain c first then { w with item := .gone } else w })) }

/-- Whether a request reads data of the chain of channel c that begins at first. -/
def Req.isDataOf (c : Nat) (first : Word) (r : Req) : Bool :=
  match r.purpose with
  | .txData d f _ | .chainDesc d f _ => d == c && f == first
  | _ => false

/-- Takes a chain out of its channel, frees its cells and gives up its reads and header copies. -/
def removeChain (c : Nat) (k : Chain) (s : State) : State :=
  let s := discardReqs (·.isDataOf c k.first) (forgetCopies c k.first s)
  let s := { s with cellar := { s.cellar with
    txUsed := s.cellar.txUsed - k.cells, txWaiting := s.cellar.txWaiting.erase (c, k.first) } }
  let s := match k.frame with
    | some id => k.dests.foldl (fun s _ => discardRef id s) (discardRef id s)
    | none => s
  let i := k.first.toNat
  syncChan c (modTx c (fun x => { x with
    chains := x.chains.filter fun j => j.first != k.first
    wait := x.wait.filter (·.item != i), logWait := x.logWait.filter (· != i) }) s)

/-- The completion entry of a chain (R69): zero but for the named fields when it is flushed. -/
def chainEntry (c : Nat) (k : Chain) (status : Nat) (ts : Option Stamp) (cv : List CvBlock) (s : State) : CEntry :=
  if status = 0x30 then { first := k.first, descCount := k.count, status := status, chan := c }
  else
    { first := k.first, descCount := k.count, status := status, chan := c, port := k.port,
      length := if status = 0x40 then 0 else k.total + 4, tc := (chan c s).ctx.tc,
      cvValid := !cv.isEmpty, cvValue := (cv.getLast?.map (·.value)).getD 0,
      tsValid := ts.isSome, tsNs := (ts.map (·.ns)).getD 0, tsSecLo := (ts.map (·.sec)).getD 0 }

/-- Discards a chain of channel c without a completion: its place is free again, and its samples end (R467). -/
def discardChain (c : Nat) (k : Chain) (s : State) : State :=
  endTags (chainTag c k.first) (fun _ => chainLost c k.first s) (removeChain c k (releasePlace (chan c s).ctx.cring k.place s))

/-- A chain that did not launch settles with its status in the place reserved for it: its launched and sent points
advance past it together when its completion is committed (R98, R494). -/
def settleChain (c : Nat) (k : Chain) (status : Nat) (p : Place) (s : State) : State :=
  let u := k.first + BitVec.ofNat 32 k.count
  let e := chainEntry c k status none [] s
  let s := removeChain c k s
  let s := setPoints c { points c s with launched := u, sent := u } s
  commit (chan c s).ctx.cring p e u (finTags (chainTag c k.first) (chan c s).ctx.cring e u s)

/-- The oldest chain of channel c that is neither launched nor settled (R298). -/
def headChain (c : Nat) (s : State) : Option Chain := (chan c s).tx.chains.find? fun k => k.stage != .launched

/-- The transmission bytes of a chain's copy at its port (R315). -/
def TxCopy.txBytes (x : TxCopy) (s : State) : Nat := Machine.txBytes x.port (x.bytes.length + 4) x.oneStep s

/-- Whether a copy never fits at its port, in a class that is not exempt (R317). -/
def TxCopy.noFit (x : TxCopy) (s : State) : Bool :=
  x.phase == .queued && !exempt x.port x.tc s && neverFits x.port x.tc (x.txBytes s) s

/-- Applies R317 to the head chain of channel c, a decided chain: a copy that never fits is dropped at its port, and a
chain of which nothing is left completes with 0x10 (R318). -/
def headFit (c : Nat) (s : State) : State :=
  match headChain c s with
  | none => s
  | some k =>
    if k.stage != .decided || k.tested then s
    else
      let bad := k.copies.filter fun x => x.noFit s
      if bad.isEmpty then modChain c k.first (fun k => { k with tested := true }) s
      else
        let s := bad.foldl (fun s x => fset (PRT_GATE_STAT.nofit_seen x.port) 1 s) s
        if bad.length == (k.copies.filter fun x => x.phase == .queued).length && k.dests.isEmpty then
          syncChan c (modChain c k.first (fun k => { k with stage := .settling 0x10, copies := [] }) s)
        else
          let s := bad.foldl (fun s x => countNofit x.port (chainAttr c k s) s) s
          let copies := k.copies.map fun x => if bad.contains x then { x with phase := .dropped } else x
          syncChan c (modChain c k.first (fun k => { k with tested := true, copies := copies }) s)

/-- Gives the head chains of channel c that settle their outcome, in order, while places are free (R494), and tests each
new head chain for its gates (R317); fuel bounds the number. -/
def settleHeads (c : Nat) : Nat → State → State
  | 0, s => headFit c s
  | n + 1, s =>
    let s := headFit c s
    match (chan c s).tx.chains with
    | [] => s
    | k :: _ =>
      match k.stage with
      | .settling status =>
        match reservePlace (chan c s).ctx.cring c false k.first.toNat s with
        | (.none, s) => s
        | (p, s) => settleHeads c n (settleChain c k status p s)
      | _ => s

/-! ### Stopping (R40, R82) -/

/-- The 40 bytes of the block-written context fields (R39). -/
def cvBytes (t r : CvState) : Bytes :=
  leBytes 8 t.reg.toNat ++ leBytes 8 t.tag.toNat ++ leBytes 8 r.reg.toNat ++ leBytes 8 r.tag.toNat
    ++ leBytes 4 t.count ++ leBytes 4 r.count

/-- Whether channel c has a fabric read outstanding of the kinds that RESET and R82 name. -/
def readsPending (c : Nat) (s : State) : Bool :=
  s.fabric.reqs.any fun r => !r.write && r.port.isSome &&
    (r.isFetch c || (match r.purpose with | .txData d _ _ | .chainDesc d _ _ => d == c | _ => false))

/-- Writes the block-written fields back before STOPPED, or defers that while the function is quiesced (R40). What a frame
commits after the write has been asked for is kept for the next START (R97). -/
def writeBack (c : Nat) (s : State) : State :=
  let ch := chan c s
  if !mayIssue ch.ctx.func s then
    setChan c { ch with state := .stopped, deferred := true, keptCv := some (ch.tx.cv, ch.rx.cv) } s
  else
    submitWrite (ownerFunc s) (ctxAddr c s + 0x50) (cvBytes ch.tx.cv ch.rx.cv) (.writeBack c)
      (setChan c { ch with writeBack := true, keptCv := none } s)

/-- Whether every item of channel c that is past its launched or assigned point has ended. -/
def settledPoints (c : Nat) (s : State) : Bool :=
  (chan c s).tx.chains.all (fun k => k.stage != .launched) && (chan c s).rx.assigned.isEmpty

/-- In a drain the check-value state of channel c, committed with its last points, goes back to its context entry
once: the next START takes it from there (R97, R328, R339; DEDUCED, as R105 names no such write). -/
def drainSave (c : Nat) (s : State) : State :=
  let ch := chan c s
  if s.power.drain.isSome && (ch.writable || ch.keptCv.isSome) && !ch.saved && !ch.writeBack && settledPoints c s
      && mayIssue ch.ctx.func s && mayIssue (ownerFunc s) s then
    submitWrite (ownerFunc s) (ctxAddr c s + 0x50) (cvBytes ch.tx.cv ch.rx.cv) (.writeBack c)
      (setChan c { ch with saved := true } s)
  else s

/-- Whether a STOPPING channel has completed all accepted work and written its backlog (R82). -/
def workDone (c : Nat) (s : State) : Bool :=
  let ch := chan c s
  ch.tx.chains.isEmpty && ch.rx.assigned.isEmpty && !ch.tx.marks.any (·.waits) && !ch.rx.marks.any (·.waits)
    && chanBacklog c false s == 0 && chanBacklog c true s == 0

/-- Takes a STOPPING or RESETTING channel whose work or reads are finished on to STOPPED (R82). A RESETTING channel of
a quiesced function waits for the end of the drain (R372). -/
def stopCheck (c : Nat) (s : State) : State :=
  let ch := chan c s
  if ch.writeBack then s
  else
    match ch.state with
    | .stopping => if workDone c s then writeBack c s else drainSave c s
    | .resetting => if readsPending c s || (func ch.ctx.func s).qState == 1 then s else writeBack c s
    | _ => drainSave c s

/-- After a change of channel c's work: chains settle, the next chain is staged, descriptors are fetched, and a
stopping channel may be done. -/
def advance (c : Nat) (s : State) : State :=
  let s := settleHeads c (chan c s).tx.chains.length s
  stopCheck c (fetchRx c (fetchTx c (enqueueStage c s)))

/-! ### Received frames queued and assigned (R64 to R68, R217, R282, R495) -/

/-- Queues a frame to channel c, or drops it when the channel is not RUNNING (R495, R282, R219). k is the press that
queues it. -/
def queueFrame (c k : Nat) (r : RxRef) (s : State) : State :=
  if (chan c s).state == .running then
    fetchRx c (modRx c (fun x => { x with queue := x.queue ++ [r] }) s)
  else
    match r.kind with
    | .mirror => discardRef r.frame (count (.press k) 0x3A 1 (waitAttr c r s) s)
    | .slow _ =>
      discardRef r.frame (fset (PRS_STAT.exc_drop_seen k) 1 (count (.press k) 0x25 1 (waitAttr c r s) s))
    | _ => dropWaiting c 0x07 r s

/-- The buffers that the bytes of a frame fill, in order (R64): address and length of each part. -/
def fillBufs (len : Nat) : List RxDesc → List (DWord × Nat)
  | [] => []
  | d :: ds => if len ≤ d.len then [(d.addr, len)] else (d.addr, d.len) :: fillBufs (len - d.len) ds

/-- Writes a frame's bytes to its buffers and says how many requests that takes. -/
def writeBufs (fn : Nat) (p : Purpose) : Bytes → List (DWord × Nat) → State → State × Nat
  | _, [], s => (s, 0)
  | bs, (a, n) :: rest, s =>
    let r := submitData fn a (bs.take n) p s
    let q := writeBufs fn p (bs.drop n) rest r.1
    (q.1, r.2 + q.2)

/-- The slow-path reason of a queued frame, 0 for other frames (R217). -/
def RxKind.reason : RxKind → Nat
  | .slow x => x
  | _ => 0

/-- The status of a delivered frame (R80); a mirror copy completes with 0x00 whatever its checksums (R282). -/
def deliveredStatus (r : RxRef) : Nat :=
  match r.kind with
  | .slow _ => 0x21
  | .mirror => 0x00
  | _ => if r.l3err || r.l4err then 0x20 else 0x00

/-- The completion entry of a received frame, before its check value is known (R69, R348). -/
def rxEntry (c : Nat) (r : RxRef) (first : Word) (n len status : Nat) (s : State) : CEntry :=
  let f := frame r.frame s
  let p := f.bind (·.port)
  let ts := if status = 0x40 then none else p.bind fun _ => f.map (·.stamp)
  { first := first, descCount := (if status = 0x40 then 0 else n), status := status, rx := true, chan := c,
    port := p.getD 0, slowReason := (if status = 0x21 then r.kind.reason else 0),
    length := (if status = 0x40 then 0 else len), tc := r.tc, vlan := r.vlan, l3err := r.l3err, l4err := r.l4err,
    tsValid := ts.isSome, tsNs := (ts.map (·.ns)).getD 0, tsSecLo := (ts.map (·.sec)).getD 0 }

/-- Samples of a received frame. -/
def frameTag (id : Nat) (t : Tag) : Bool := t.kind == 1 && t.key == id && t.fin.isNone

/-- The bytes of a frame that the receive unit sees: as delivered, less the FCS (R324). -/
def cvView (x : Ctx) (bs : Bytes) : Bytes := if x.stripFcs then bs else stripFcs bs

/-- Writes again, from the first byte, the data of the assigned frames of channel c whose writes a quiesce ended
(R375). -/
def rewriteAssigned (c : Nat) (s : State) : State :=
  (chan c s).rx.assigned.foldl (fun s a =>
    if a.done || a.writesLeft != 0 then s
    else
      let w := writeBufs (chan c s).ctx.func (.rxData c a.serial) a.bytes a.bufs s
      modRx c (fun x => { x with
        assigned := x.assigned.map fun b => if b.serial = a.serial then { b with writesLeft := w.2 } else b }) w.1) s

/-- The bytes of a frame as channel x delivers them (R63). -/
def deliveredBytes (x : Ctx) (bs : Bytes) : Bytes := if x.stripFcs then stripFcs bs else bs

/-- What the receive unit makes of delivered bytes from the state cv. -/
def rxCover (x : Ctx) (cv : CvState) (bs : Bytes) : Cover :=
  if x.conf.rxEn then cover x.conf (rxTag x.conf (cvView x bs)) cv (cvView x bs) else ⟨cv, true, []⟩

/-- What the receive unit makes of an assigned frame: one that is flushed, malformed or failed is not covered (R325). -/
def Assigned.cover (x : Ctx) (cv : CvState) (a : Assigned) : Cover :=
  if !a.failed && (a.entry.status == 0x00 || a.entry.status == 0x20 || a.entry.status == 0x21) then rxCover x cv a.bytes
  else ⟨cv, true, []⟩

/-- The assigned frames of a channel with the log slots that each needs when those before it are committed from cv, and the
state after them (R335). -/
def reslot (x : Ctx) : CvState → List Assigned → List Assigned × CvState
  | cv, [] => ([], cv)
  | cv, a :: as =>
    let k := a.cover x cv
    let r := reslot x k.cv as
    ({ a with logSlots := if x.conf.logEn then k.blocks.length else 0 } :: r.1, r.2)

/-- The log slots that a list of assigned frames holds. -/
def slotsOf (as : List Assigned) : Nat := (as.map (·.logSlots)).sum

/-- What the receive unit makes of a further frame of a channel, after those that are assigned (R335, R338). -/
def rxLogNeed (ch : Chan) (bs : Bytes) : Cover :=
  rxCover ch.ctx (reslot ch.ctx ch.rx.cv ch.rx.assigned).2 (deliveredBytes ch.ctx bs)

/-- Delivers the assigned frames at the head of channel c's list whose data writes are all acknowledged, in order
(R31, R92): the check values are committed (R97, R338), the entry is committed, the delivered point advances, the log
records are written and the cells are freed. Where a frame ends uncovered, those after it need other log slots. fuel
bounds the number. -/
def deliverHeads (c : Nat) : Nat → State → State
  | 0, s => s
  | n + 1, s =>
    let ch := chan c s
    match ch.rx.assigned with
    | [] => s
    | a :: rest =>
      if !a.done then s
      else
        let status := if a.failed then 0x41 else a.entry.status
        let k := a.cover ch.ctx ch.rx.cv
        let as := (reslot ch.ctx k.cv rest).1
        let e := if status = 0x30 then { first := a.first, descCount := a.n, status := status, rx := true, chan := c }
                 else { a.entry with status := status, slowReason := (if status = 0x21 then a.entry.slowReason else 0),
                                     cvValid := !k.blocks.isEmpty,
                                     cvValue := (k.blocks.getLast?.map (·.value)).getD 0,
                                     tsValid := a.entry.tsValid && status != 0x41,
                                     tsNs := if status = 0x41 then 0 else a.entry.tsNs,
                                     tsSecLo := if status = 0x41 then 0 else a.entry.tsSecLo }
        let u := a.first + BitVec.ofNat 32 a.n
        let kept := if ch.state == .stopped || ch.writeBack then some (ch.tx.cv, k.cv) else ch.keptCv
        let s := setChan c { ch with
          rx := { ch.rx with assigned := as, cv := k.cv }, keptCv := kept
          log := { ch.log with reserved := ch.log.reserved + slotsOf as - slotsOf rest } } s
        let s := commit ch.ctx.cring a.place e u (finTags (frameTag a.frame) ch.ctx.cring e u s)
        let s := setPoints c { points c s with delivered := u } s
        let s := writeLogs c true a.logSlots k.blocks s
        deliverHeads c n (dropRef a.frame s)

/-- Delivers what is ready and lets the channel go on. -/
def deliver (c : Nat) (s : State) : State :=
  stopCheck c (fetchTx c (deliverHeads c (chan c s).rx.assigned.length s))

/-- Assigns the frame at the head of channel c's queue (R65): it becomes accepted work, rx_taken advances by n, its
hold ends and its data writes start. status 0x40 writes nothing. slots are the log slots that it holds. -/
def assignFrame (c : Nat) (r : RxRef) (n status reason : Nat) (p : Place) (slots : Nat) (s : State) : State :=
  let ch := chan c s
  let first := ch.rx.taken
  let bs := deliveredBytes ch.ctx r.bytes
  let bufs := if status = 0x40 then [] else fillBufs bs.length (ch.rx.descs.take n)
  let serial := s.serial
  let s := { s with serial := serial + 1 }
  let s := match frame r.frame s with
    | some f => count .fabric 0x15 1
                  { waitAttr c r s with
                    priv := funcPriv ch.ctx.func s, port := none
                    item := some (f.tag r.frame (f.press s)) }
                  (if r.held then endHold f s else s)
    | none => s
  let w := writeBufs ch.ctx.func (.rxData c serial) bs bufs s
  let a : Assigned :=
    { serial := serial, frame := r.frame, first := first, n := n, bufs := bufs, bytes := bs, writesLeft := w.2,
      failed := false, done := w.2 == 0, entry := rxEntry c r first n bs.length status w.1, place := p,
      logSlots := slots }
  let s := modRx c (fun x => { x with
    wait := none, logWait := none, queue := x.queue.drop 1, taken := first + BitVec.ofNat 32 n, descs := x.descs.drop n,
    assigned := x.assigned ++ [a] }) w.1
  let s := markIndex c false s
  let s := if status = 0x40 then fence c true reason 0x40 s else s
  fetchRx c (deliver c s)

end Sys2Proof.Machine
end

