-- ==== Sys2Proof/Machine/Shaper.lean ====
section
/-!
DEFINITION. Token buckets: the refill shared by shapers (R305) and policers (R290), and a channel's shaper with its
fields held to their ranges (R306, R307).
-/

namespace Sys2Proof.Machine

/-- What a bucket gains, in units of 2^-20 byte, at a rate in Mbit/s over a number of DCLK cycles of 0.625 ns: one
Mbit/s adds 0.000125 byte per ns, which is 2048/25 units per cycle. A part of a unit is rounded as the free value
says. -/
def refillUnits (mbit cycles : Nat) : Nat :=
  let n := mbit * cycles * 2048
  n / 25 + (if n % 25 = 0 then 0 else b2n (Sys2Proof.Config.roundUp mbit cycles))

/-- Committed rate in force (R307). -/
def Ctx.cirOn (x : Ctx) : Nat := min x.cir 800000

/-- Peak rate in force (R307). -/
def Ctx.pirOn (x : Ctx) : Nat := clamp x.cirOn 800000 x.pir

/-- Committed burst in force, in bytes (R307). -/
def Ctx.cbsOn (x : Ctx) : Nat := clamp 64 16777216 x.cbs

/-- Peak burst in force, in bytes (R307). -/
def Ctx.pbsOn (x : Ctx) : Nat := clamp x.cbsOn 16777216 x.pbs

/-- Round-robin weight in force (R307). -/
def Ctx.weightOn (x : Ctx) : Nat := max 1 x.weight

/-- Deficit burst in force (R307). -/
def Ctx.burstOn (x : Ctx) : Nat := clamp 64 1048576 x.burst

/-- A level after a refill of gain units, held to a cap in bytes. -/
def fillTo (cap : Nat) (level : Int) (gain : Nat) : Int := min (level + Int.ofNat gain) (Int.ofNat (cap * 2 ^ 20))

/-- A channel's buckets brought to the present (R305). -/
def refillShaper (x : Ctx) (now_ : Nat) (t : ChTx) : ChTx :=
  { t with
    tcLevel := fillTo x.cbsOn t.tcLevel (refillUnits x.cirOn (now_ - t.last))
    tpLevel := fillTo x.pbsOn t.tpLevel (refillUnits x.pirOn (now_ - t.last))
    last := now_ }

/-- A channel's buckets full (R306). -/
def fullShaper (x : Ctx) (now_ : Nat) (t : ChTx) : ChTx :=
  { t with tcLevel := Int.ofNat (x.cbsOn * 2 ^ 20), tpLevel := Int.ofNat (x.pbsOn * 2 ^ 20), last := now_ }

end Sys2Proof.Machine
end

