-- ==== Sys2Proof/Machine/Start.lean ====
section
/-!
DEFINITION. Channel commands and context reads (spec/02, spec/03): START and START_FRESH with the checks of R41, R330
and R371, resuming and its report (R102, R107, R111 to R117, R492), STOP (R83), RESET (R86), and the invalidations
of FAB_CTX_INVAL (R42, R89, R496).
-/

namespace Sys2Proof.Machine

/-! ### The retention mirrors (R99, R432) -/

/-- A retention mirror reports an error beyond ECC: the other mirror serves, and the spare macro is filled when it is
free (R99). -/
def mirrorFault (s : State) : State :=
  let s := fset AUX_BOOK_STAT.mirror_fault 1 s
  if s.book.spareUsed || s.book.copying then
    postError 2 12 0x04 0 0 { s with book := { s.book with oneMirror := true } }
  else postError 2 7 0x04 0 0 { s with book := { s.book with oneMirror := true, copying := true } }

/-- Takes note of how the retention book read (R99, R420): clean, corrected, or with an error of a mirror beyond ECC. -/
def readBook (r : BookRead) (s : State) : State :=
  match r with
  | .clean => s
  | .corrected => corrected 0 s
  | .mirrorError => mirrorFault s

/-! ### Reading a channel context entry (R39) -/

/-- The channel context that an entry's bytes spell. -/
def parseCtx (b : Bytes) : Ctx :=
  let w := fun o => leAt o 4 b
  { txBase := BitVec.ofNat 64 (leAt 0x00 8 b), rxBase := BitVec.ofNat 64 (leAt 0x08 8 b)
    idxAddr := BitVec.ofNat 64 (leAt 0x10 8 b), logBase := BitVec.ofNat 64 (leAt 0x18 8 b)
    stripFcs := bit (w 0x20) 24, logLog2 := bits (w 0x20) 20 16, rxLog2 := bits (w 0x20) 12 8
    txLog2 := bits (w 0x20) 4 0, homeRow := bits (w 0x24) 28 24, cring := bits (w 0x24) 23 12
    func := bits (w 0x24) 11 0, inflight := bits (w 0x28) 28 16, pollK := bits (w 0x28) 4 0
    weight := bits (w 0x2C) 15 8, tc := bits (w 0x2C) 2 0, burst := bits (w 0x30) 20 0
    cir := bits (w 0x34) 19 0, pir := bits (w 0x38) 19 0, cbs := bits (w 0x3C) 24 0, pbs := bits (w 0x40) 24 0
    cvCfg := BitVec.ofNat 32 (w 0x44), cvLayout := BitVec.ofNat 64 (leAt 0x48 8 b) }

/-- The check-value state of the transmit direction in an entry (R328). -/
def parseTxCv (b : Bytes) : CvState :=
  ⟨BitVec.ofNat 64 (leAt 0x50 8 b), BitVec.ofNat 64 (leAt 0x58 8 b), bits (leAt 0x70 4 b) 20 0⟩

/-- The check-value state of the receive direction in an entry. -/
def parseRxCv (b : Bytes) : CvState :=
  ⟨BitVec.ofNat 64 (leAt 0x60 8 b), BitVec.ofNat 64 (leAt 0x68 8 b), bits (leAt 0x74 4 b) 20 0⟩

/-- The RES0 bits of each word of the entry from offset 0x20 on (R39, R329). -/
def ctxRes0 : List (Nat × Nat) :=
  [(0x20, 0xFEE0E0E0), (0x24, 0xE0000000), (0x28, 0xE000FFE0), (0x2C, 0xFFFF00F8), (0x30, 0xFFE00000),
   (0x34, 0xFFF00000), (0x38, 0xFFF00000), (0x3C, 0xFE000000), (0x40, 0xFE000000), (0x44, 0x0007FFFF),
   (0x48, 0x00003FFF), (0x4C, 0xFF000000), (0x70, 0xFFE00000), (0x74, 0xFFE00000), (0x78, 0xFFFFFFFF),
   (0x7C, 0xFFFFFFFF)]

/-- Whether a RES0 field of the entry is not zero. -/
def ctxRes0Bad (b : Bytes) : Bool := ctxRes0.any fun e => leAt e.1 4 b &&& e.2 != 0

/-- Whether a ring size as log2 is legal. -/
def log2Ok (n : Nat) : Bool := 6 ≤ n && n ≤ 16

/-- Whether START is rejected for what the entry holds (R41, R330). -/
def Ctx.bad (x : Ctx) (s : State) : Bool :=
  !log2Ok x.txLog2 || !log2Ok x.rxLog2 || (23 ≤ x.pollK && x.pollK ≤ 30)
    || x.inflight == 0 || 4096 < x.inflight
    || x.txBase.toNat % 64 != 0 || x.rxBase.toNat % 64 != 0 || x.idxAddr.toNat % 64 != 0
    || !(fget GLB_ROW_EN.row_en s).testBit x.homeRow
    || (let c := x.conf
        (c.txEn || c.rxEn) && (11 < c.blockLog2 || c.tagSrc == 3 || !fbit CVU_CTL.en s
          || (c.logEn && (x.logBase.toNat % 64 != 0 || !log2Ok x.logLog2))))

/-- Whether START is rejected for the state of the channel's function (R371). -/
def funcStartBad (f : Nat) (s : State) : Bool :=
  let x := func f s
  !x.present || !x.bme || x.flr || (!x.adapterMem && !s.fabric.hostUp) || x.qState != 0 || !fbit FAB_CTL.en s

/-! ### Rejection and the start of a START -/

/-- Whether the block holds ring n's completion context (R493). -/
def ringHeld (n : Nat) (s : State) : Bool :=
  (ring n s).held && (s.chans.any (fun e => e.2.active && e.2.ctx.cring == n) || hasBacklog n s)

/-- Whether memory does not hold ring n's prod_index yet: the read of its completion context waits for that (R361,
R44). -/
def ringUnsettled (n : Nat) (s : State) : Bool :=
  (ring n s).memOut || s.fabric.reqs.any fun r => r.purpose == .ringProd n || (match r.purpose with
    | .entry m _ _ _ => m == n
    | _ => false)

/-- Gives up the requests of a START of channel c. -/
def Req.isStart (c : Nat) (r : Req) : Bool :=
  match r.purpose with
  | .chanCtx d | .cringCtx d _ | .startIndex d | .startWrite d => d == c
  | _ => false

/-- A rejected command (R82). -/
def rejectCmd (c : Nat) (s : State) : State := modChan c (fun ch => { ch with rejected := true }) s

/-- A START that is rejected after it began: the channel keeps its state and the cellar book is unchanged (R367). What its
writes have held back is written. -/
def rejectStart (c : Nat) (s : State) : State :=
  flushBook c (flushIndex c
    (modChan c (fun ch => { ch with startOp := none, rejected := true }) (discardReqs (·.isStart c) s)))

/-- A START whose read or write met a fabric fault (R367). -/
def faultStart (c : Nat) (s : State) : State := rejectStart c (fset FAB_STAT.ctx_fault 1 s)

/-- The receive index up to which buffers are reserved, as the block holds it (R116). -/
def takenHeld (c : Nat) (s : State) : Word :=
  if (chan c s).rx.assigned.isEmpty then (points c s).delivered else (chan c s).rx.taken

/-- Whether START_FRESH may succeed (R116). -/
def freshOk (c : Nat) (s : State) : Bool :=
  (points c s).accepted == (points c s).sent && (points c s).delivered == takenHeld c s
    && chanBacklog c false s == 0 && chanBacklog c true s == 0

/-- START or START_FRESH of channel c (R82): rejected, also where no request may be issued for the contexts (R369,
R371), or the channel context entry is read (R40). book says how the retention book reads for it (R99). The context
read of a START counts as one miss, and no other read does (DESIGN CHOICE, log entry 15: R40 has every start command
read the entry, and no rule says which reads miss). -/
def startCmd (fresh : Bool) (book : BookRead) (c : Nat) (s : State) : State :=
  let ch := chan c s
  if ch.startOp.isSome || ch.active || ch.writeBack || !fbit FAB_CTL.en s || !mayIssue (ownerFunc s) s
      || (fresh && !freshOk c s) then rejectCmd c s
  else
    let s := readBook book s
    let s := fadd FAB_CTX_CACHE_STAT.miss_cnt 1 s
    submitRead (ownerFunc s) (ctxAddr c s) 128 (.chanCtx c)
      (setChan c { ch with startOp := some { fresh := fresh, phase := .context, next := {} } } s)

/-! ### Where a channel resumes (R107, R109 to R117) -/

/-- The source that a START resumes from: 0 retention book, 1 aux image, 2 index-block copies (rep_source). A channel
that has run since its book was selected resumes from the retention book (R113). -/
def startSource (c : Nat) (s : State) : Nat := if (chan c s).resumed then 0 else s.power.source

/-- Whether a START reads the index block: for the fallback, for rep_rx_lost after a loss without a complete drain (R107,
R111), and for the bk_epoch to increment, where no START since power-on reset has given the block one (R101). -/
def startReadsIndex (c : Nat) (s : State) : Bool := !(chan c s).resumed

/-- The first index of the oldest entry of channel c in the backlog pool, in one direction (R492). -/
def oldestPending (c : Nat) (rx : Bool) (s : State) : Option Word :=
  (s.book.pool.find? fun x => x.entry.chan == c && x.entry.rx == rx).map (·.entry.first)

/-- The done index before the first of the marks that waits for an acknowledgement. -/
def doneBefore (done : Word) (marks : List DoneMark) : Word :=
  (marks.takeWhile (!·.waits)).foldl (fun _ m => m.upTo) done

/-- The marks that stay after a START: entries whose write failed hold the done index back no longer (R492). -/
def startMarks (marks : List DoneMark) : List DoneMark := (marks.dropWhile (!·.waits)).filter (!·.failed)

/-- The done index that a START sets (R492, R117): the point, held back by entries that wait or are not acknowledged. -/
def startDone (c : Nat) (rx : Bool) (p : Points) (s : State) : Word :=
  let ch := chan c s
  if rx then
    if ch.rx.marks.any (·.waits) then doneBefore ch.rx.done ch.rx.marks else (oldestPending c true s).getD p.delivered
  else
    if ch.tx.marks.any (·.waits) then doneBefore ch.tx.done ch.tx.marks else (oldestPending c false s).getD p.sent

/-- What the recovery report says (R101). -/
structure Report where
  txResume : Word := 0
  rxResume : Word := 0
  indetFirst : Word := 0
  rxLost : Word := 0
  source : Nat := 3
  indetCount : Nat := 0
  pending : Nat := 0
  deriving DecidableEq, Repr

/-- Bytes 0x28 to 0x3B of the index block (R101, R102). -/
def Report.bytes (r : Report) : Bytes :=
  leBytes 4 r.txResume.toNat ++ leBytes 4 r.rxResume.toNat ++ leBytes 4 r.indetFirst.toNat ++ leBytes 4 r.rxLost.toNat
    ++ leBytes 4 (r.source * 2 ^ 29 + r.indetCount * 2 ^ 23 + (if r.indetCount = 0 then 0 else 0x31 * 2 ^ 15) + r.pending)

/-- The points at which a channel resumes when no chain is indeterminate and no frame was lost: accepted goes back to
launched (R113), but not past chains that the channel still holds, which a function-level reset has flushed and which wait
for a launched chain (R98, R375). -/
def bookPoints (c : Nat) (s : State) : Points :=
  let held := (chan c s).tx.chains.getLast?.map fun k => k.first + BitVec.ofNat 32 k.count
  { points c s with accepted := held.getD (points c s).launched }

/-- The report of a span of chains that is indeterminate (R107, fallback rule of spec/03). -/
def indetCount (sent launched : Word) : Nat :=
  let n := (launched - sent).toNat
  if n ≤ 32 then n else 63

/-- The report of a START that resumes from the retention book or the aux image. -/
def bookReport (c : Nat) (s : State) : Report :=
  let src := startSource c s
  { txResume := (bookPoints c s).accepted, rxResume := takenHeld c s, source := src,
    pending := (if src = 1 then chanBacklog c false s + chanBacklog c true s else 0) }

/-- Points, report and epoch that the index block's bytes give: the fallback rule, or R107 for the retention book. -/
def resumeFromIndex (c : Nat) (b : Bytes) (s : State) : Points × Report × Word :=
  let w := fun o => BitVec.ofNat 32 (leAt o 4 b)
  if startSource c s == 2 then
    let sent := later (w 0x1C) (w 0x0C)
    let l := later (w 0x18) sent
    let r := later (w 0x20) (w 0x14)
    (⟨l, l, l, r⟩,
     { txResume := l, rxResume := r, rxLost := later (w 0x10) r - r, source := 2,
       indetCount := indetCount sent l, indetFirst := (if l = sent then 0 else sent) },
     w 0x24 + 1)
  else if s.power.lossy then
    let p := points c s
    (⟨p.launched, p.launched, p.launched, p.delivered⟩,
     { txResume := p.launched, rxResume := p.delivered, rxLost := later (w 0x10) p.delivered - p.delivered, source := 0,
       indetCount := indetCount p.sent p.launched, indetFirst := (if p.launched = p.sent then 0 else p.sent) },
     w 0x24 + 1)
  else (bookPoints c s, bookReport c s, w 0x24 + 1)

/-! ### The writes of a START (R87, R102, R492) -/

/-- Writes bytes 0x08 to 0x3B of the index block: indices, book copy with epoch, report. -/
def startWrites (c : Nat) (x : Ctx) (idx book : Bytes) (r : Report) (s : State) : State :=
  submitWrite x.func (x.idxAddr + 0x28) r.bytes (.startWrite c)
    (submitWrite x.func (x.idxAddr + 0x18) book (.startWrite c)
      (submitWrite x.func (x.idxAddr + 0x08) idx (.startWrite c) s))

/-- The channel's index block is written before it enters RUNNING. -/
def startReport (c : Nat) (op : StartOp) (idx : Option Bytes) (s : State) : State :=
  let x := op.next.ctx
  let put := fun (n : Resume) (s : State) =>
    modChan c (fun ch => { ch with startOp := some { op with phase := .report, next := n } }) s
  if op.fresh then
    startWrites c x (leBytes 16 0) (leBytes 16 0) {} (put { op.next with points := some {}, epoch := 0 } s)
  else
    let r := match idx with
      | some b => let q := resumeFromIndex c b s; (q.1, q.2.1, q.2.2, true)
      | none => (bookPoints c s, bookReport c s, (chan c s).epoch + 1, false)
    let p := r.1
    let taken := if r.2.2.2 then p.delivered else takenHeld c s
    startWrites c x
      (leBytes 4 p.accepted.toNat ++ leBytes 4 (startDone c false p s).toNat
        ++ leBytes 4 taken.toNat ++ leBytes 4 (startDone c true p s).toNat)
      (leBytes 4 p.launched.toNat ++ leBytes 4 p.sent.toNat ++ leBytes 4 p.delivered.toNat ++ leBytes 4 r.2.2.1.toNat)
      r.2.1
      (put { op.next with points := (if r.2.2.2 then some p else none), epoch := r.2.2.1,
                          indet := r.2.1.indetCount != 0 } s)

/-- The ring's context is known: its function is compared (R38), and the index block is read where that is needed. -/
def startRingKnown (c : Nat) (op : StartOp) (s : State) : State :=
  let x := op.next.ctx
  if (ring x.cring s).func != x.func then rejectStart c s
  else if !op.fresh && startReadsIndex c s then
    count .fabric 0x12 1 { reqWho c s with addr := some x.idxAddr.toNat }
      (submitRead x.func x.idxAddr 64 (.startIndex c)
        (modChan c (fun ch => { ch with startOp := some { op with phase := .index } }) s))
  else startReport c op none s

/-- Reads the completion context of ring n for a START of channel c, once memory holds its prod_index. -/
def readRingCtx (c n : Nat) (s : State) : State :=
  if ringUnsettled n s then s else submitRead (ownerFunc s) (cctxAddr n s) 64 (.cringCtx c n) s

/-- Whether a START of a channel waits to read its completion context. -/
def awaitsRing (n c : Nat) (ch : Chan) (s : State) : Bool :=
  match ch.startOp with
  | some op => op.phase == .cring && op.next.ctx.cring == n && !(s.fabric.reqs.any fun r => r.purpose == .cringCtx c n)
  | none => false

/-- The STARTs that wait for ring n's prod_index go on when memory holds it. -/
def ringSettled (n : Nat) (s : State) : State :=
  s.chans.foldl (fun s e =>
    if !awaitsRing n e.1 e.2 s then s
    else if ringHeld n s then
      match (chan e.1 s).startOp with
      | some op => startRingKnown e.1 op s
      | none => s
    else readRingCtx e.1 n s) s

/-- The channel context entry of a START was read (R40, R41, R330, R371). Kept check-value fields take the place of
those in memory, and START_FRESH takes zero (R328). -/
def chanCtxDone (c : Nat) (b : Bytes) (s : State) : State :=
  let ch := chan c s
  match ch.startOp with
  | none => s
  | some op =>
    let x := parseCtx b
    if ctxRes0Bad b || x.bad s || funcStartBad x.func s then rejectStart c s
    else
      let cv := if op.fresh then ({}, {}) else ch.keptCv.getD (parseTxCv b, parseRxCv b)
      let op := { op with phase := .cring, next := { op.next with ctx := x, txCv := cv.1, rxCv := cv.2 } }
      let s := setChan c { ch with startOp := some op } s
      if ringHeld x.cring s then startRingKnown c op s else readRingCtx c x.cring s

/-- The live fields of a completion context entry (R43). -/
def parseCringLive (b : Bytes) (r : Ring) : Ring :=
  { r with eventEn := bit (leAt 0x0C 4 b) 16, modTime := min (bits (leAt 0x10 4 b) 27 16) 4000,
           modCount := bits (leAt 0x10 4 b) 15 0, stallTime := bits (leAt 0x14 4 b) 15 0 }

/-- The whole completion context entry, taken over by the block (R43, R493, R114). -/
def parseCring (b : Bytes) (r : Ring) : Ring :=
  { parseCringLive b r with
    held := true, base := BitVec.ofNat 64 (leAt 0x00 8 b), func := bits (leAt 0x08 4 b) 19 8,
    sizeLog2 := bits (leAt 0x08 4 b) 4 0, vector := bits (leAt 0x0C 4 b) 10 0,
    cons := BitVec.ofNat 32 (leAt 0x20 4 b),
    prod := (if r.prodKept then r.prod else BitVec.ofNat 32 (leAt 0x28 4 b)),
    stalled := bit (leAt 0x2C 4 b) 0, alerted := false, since := 0, timer := false }

/-- The completion context entry of a START was read; cons_index may lie beyond the ring (R72). -/
def cringCtxDone (c n : Nat) (b : Bytes) (s : State) : State :=
  match (chan c s).startOp with
  | none => s
  | some op =>
    if ringHeld n s then startRingKnown c op s
    else
      let s := modRing n (parseCring b) s
      let r := ring n s
      startRingKnown c { op with next := { op.next with consBad := 2 ^ r.sizeLog2 < used r.prod r.cons } } s

/-- The index block of a resuming START was read. -/
def startIndexDone (c : Nat) (b : Bytes) (s : State) : State :=
  match (chan c s).startOp with
  | none => s
  | some op => startReport c op (some b) s

/-- Puts channel c into RUNNING with what its START gives it (R82, R57, R91, R306, R492). Check-value state that a frame of
the channel has committed since its context was read is not lost (R97). Where cons_index lies beyond the ring, every
channel of the ring is fenced as soon as this one runs (R72). -/
def enterRunning (c : Nat) (op : StartOp) (s : State) : State :=
  let ch := chan c s
  let n := op.next
  let p := n.points.getD (bookPoints c s)
  let taken := if n.points.isSome then p.delivered else takenHeld c s
  let txDone := if op.fresh then 0 else startDone c false p s
  let rxDone := if op.fresh then 0 else startDone c true p s
  let cv := if op.fresh then (n.txCv, n.rxCv) else ch.keptCv.getD (n.txCv, n.rxCv)
  let t : ChTx := { prod := p.accepted, accepted := p.accepted, done := txDone, fetch := p.accepted, cv := cv.1,
                    chains := ch.tx.chains, marks := (if op.fresh then [] else startMarks ch.tx.marks) }
  let r : ChRx := { prod := taken, taken := taken, done := rxDone, fetch := taken, cv := cv.2,
                    assigned := ch.rx.assigned, marks := (if op.fresh then [] else startMarks ch.rx.marks) }
  let s := setChan c { ch with
    state := .running, left := .running, resumed := true, startOp := none, fence := none, ctx := n.ctx,
    tx := fullShaper n.ctx s.time.dclk t, rx := r, keptCv := none, deferred := false, epoch := n.epoch,
    log := (if op.fresh then { ch.log with prod := 0, cons := 0 } else ch.log), saved := false } s
  let s := modRing n.ctx.cring (fun r => { r with prodKept := false }) (setPoints c p s)
  let s := if n.indet then
      { s with aux := { s.aux with indets := if s.aux.indets.contains c then s.aux.indets else s.aux.indets ++ [c] } }
    else s
  let s := readRxProd c (readTxProd c (began s) (rewriteAssigned c (drainOrAsk n.ctx.cring (flushBook c (flushIndex c s)))))
  if n.consBad then fenceRing n.ctx.cring 11 s else s

/-- One write of a START was acknowledged; after the last the channel enters RUNNING. -/
def startWriteDone (c : Nat) (s : State) : State :=
  match (chan c s).startOp with
  | none => s
  | some op =>
    let more := s.fabric.reqs.any fun r => r.write && r.isStart c && !r.discard
    if op.phase != .report || more then s else enterRunning c op s

/-! ### STOP and RESET (R82, R83, R86) -/

/-- STOP of channel c. -/
def stopCmd (c : Nat) (s : State) : State :=
  let ch := chan c s
  if ch.state == .running || ch.state == .fenced then
    advance c (modChan c (fun ch => { ch with state := .stopping }) (discardFetches c (dropQueued c s)))
  else rejectCmd c s

/-- Discards every chain of channel c that is not launched; accepted goes back to launched (R113). -/
def discardUnlaunched (c : Nat) (s : State) : State :=
  let s := (chan c s).tx.chains.foldl (fun s k =>
    if k.stage == .launched then s else discardChain c k s) s
  let p := points c s
  let s := modTx c (fun x => { x with accepted := p.launched, fetch := p.launched }) s
  markIndex c true (setPoints c { p with accepted := p.launched } s)

/-- RESET of channel c. -/
def resetCmd (c : Nat) (s : State) : State :=
  let ch := chan c s
  if ch.state == .running || ch.state == .stopping || ch.state == .fenced then
    let s := modChan c (fun ch => { ch with state := .resetting, expired := false }) (discardFetches c (dropQueued c s))
    stopCheck c (discardUnlaunched c s)
  else rejectCmd c s

/-- A command code written to FAB_CHN_CTL for the channel in FAB_CHN_SEL (R82, R90). -/
def chnCommand (cmd : Nat) (book : BookRead) (s : State) : State :=
  let c := fget FAB_CHN_SEL.channel s
  match cmd with
  | 0 => s
  | 1 => startCmd false book c s
  | 2 => if (chan c s).startOp.isSome then rejectCmd c s else stopCmd c s
  | 3 => if (chan c s).startOp.isSome then rejectCmd c s else resetCmd c s
  | 4 => startCmd true book c s
  | _ => rejectCmd c s

/-! ### FAB_CTX_INVAL (R42, R89, R496) -/

/-- Adds n accesses to the invalidation in progress. -/
def invalAccess (n : Nat) (s : State) : State :=
  { s with fabric := { s.fabric with invalBusy := s.fabric.invalBusy + n } }

/-- One access of the invalidation completed. -/
def invalDone (s : State) : State := { s with fabric := { s.fabric with invalBusy := s.fabric.invalBusy - 1 } }

/-- An access of the invalidation met a fabric fault (R367). -/
def invalFail (s : State) : State := invalDone (fset FAB_STAT.ctx_fault 1 s)

/-- A go with kind 0: the live fields of a RUNNING channel are read again. -/
def invalChannel (c : Nat) (s : State) : State :=
  if (chan c s).state == .running then
    submitRead (ownerFunc s) (ctxAddr c s) 128 (.liveChan c) (invalAccess 1 s)
  else s

/-- A go with kind 1: the live fields of the completion context entry are read again. -/
def invalCring (n : Nat) (s : State) : State :=
  submitRead (ownerFunc s) (cctxAddr n s) 64 (.liveCring n) (invalAccess 1 s)

/-- A go with kind 1 and ring_reset 1 (R89). -/
def ringReset (n : Nat) (s : State) : State :=
  if s.chans.any fun e => e.2.active && e.2.ctx.cring == n then s
  else
    let s := modRing n (fun r => { r with prod := 0, prodKept := true, unacked := [], stalled := false, alerted := false,
                                          memDirty := false, consOut := false }) (discardReqs (·.purpose == .consIndex n) s)
    submitWrite (ownerFunc s) (cctxAddr n s + 0x28) (leBytes 8 0) (.ringResetWrite n) (invalCring n (invalAccess 1 s))

/-- A go written to FAB_CTX_INVAL; ignored while an invalidation is in progress. Of a completion ring the low 12 bits
of index are taken (DESIGN CHOICE, log entry 74: rings are 0 to 4,095, and no rule gives a larger index an effect). -/
def ctxInval (kind reset : Bool) (index : Nat) (s : State) : State :=
  if s.fabric.invalBusy != 0 then s
  else if !kind then invalChannel index s
  else if reset then ringReset (index % 4096) s
  else invalCring (index % 4096) s

/-- The live fields of channel c were read again: they apply from now, and the buckets keep their levels under the new
caps (R42, R306). -/
def liveChanDone (c : Nat) (b : Bytes) (s : State) : State :=
  let ch := chan c s
  let s := invalDone s
  if ch.state == .running then
    let y := parseCtx b
    let x := { ch.ctx with pollK := y.pollK, weight := y.weight, burst := y.burst, cir := y.cir, pir := y.pir,
                           cbs := y.cbs, pbs := y.pbs }
    let t := refillShaper ch.ctx s.time.dclk ch.tx
    let t := { t with tcLevel := fillTo x.cbsOn t.tcLevel 0, tpLevel := fillTo x.pbsOn t.tpLevel 0 }
    syncChan c (setChan c { ch with ctx := x, tx := t } s)
  else s

/-- The live fields of ring n were read again (R89). -/
def liveCringDone (n : Nat) (b : Bytes) (s : State) : State := modRing n (parseCringLive b) (invalDone s)

/-- The write of a ring reset was acknowledged or failed. -/
def ringResetWritten (ok : Bool) (s : State) : State := if ok then invalDone s else invalFail s

end Sys2Proof.Machine
end

