-- ==== Sys2Proof/Machine/Deal.lean ====
section
/-!
DEFINITION. Header copies at a press (spec/06): waiting, dealing to the parser lanes (R195, R196), the reorder window
(R197, R198), lanes in service (R199 to R201), and the press clock (R398 to R400).
-/

namespace Sys2Proof.Machine

/-! ### The press clock (R398 to R400) -/

/-- Whether press k takes part in a racking. -/
def inRacking (k : Nat) (s : State) : Bool :=
  s.racking.state != 0 && (s.racking.source == k || s.racking.target == k)

/-- The force field of press k (GLB_CLK_CTL). -/
def clkForce (k : Nat) (s : State) : Nat := bits (fget GLB_CLK_CTL.force s) (2 * k + 1) (2 * k)

/-- Whether press k throttles (R400). -/
def throttles (k : Nat) (s : State) : Bool :=
  clkForce k s == 0 && fbit GLB_THROTTLE_CFG.en s && !inRacking k s

/-- The window of press k and its count of windows restart. -/
def restartWindow (k : Nat) (s : State) : State :=
  modPress k (fun p => { p with winDealt := 0, winCycles := 0, winWaiting := 0, winDelivered := 0, winLost := 0, downRun := 0 }) s

/-- Press k takes divisor code d, and no step up is pending any longer; a change is a clock step (PRS_CLK_STAT.steps,
global event 0x08). -/
def setDiv (k d : Nat) (s : State) : State :=
  if (press k s).div = d then modPress k (fun p => { p with stepUp := false }) s
  else
    count .global 0x08 1 {} (fadd (PRS_CLK_STAT.steps k) 1
      (restartWindow k (modPress k (fun p => { p with div := d, stepUp := false }) s)))

/-- The divisor that force, throttle enable and racking fix for press k (R400). -/
def fixedDiv (k : Nat) (s : State) : Option Nat :=
  if inRacking k s then some 0
  else if clkForce k s != 0 then some (clkForce k s - 1)
  else if fbit GLB_THROTTLE_CFG.en s then none
  else some 0

/-- Applies a fixed divisor to every press. -/
def applyDivs (s : State) : State :=
  (List.range 5).foldl (fun s k => match fixedDiv k s with | some d => setDiv k d s | none => s) s

/-- A step up of press k is triggered (R399); the switch follows. -/
def triggerUp (k : Nat) (backlog : Bool) (s : State) : State :=
  let p := press k s
  if throttles k s && p.div != 0 && !p.stepUp then
    fset (if backlog then GLB_THROTTLE_STAT.backlog_trig else GLB_THROTTLE_STAT.pct_trig) 1
      (setPress k { p with stepUp := true } s)
  else s

/-- Triggers a step up when up_backlog or more copies wait at press k, as every DCLK cycle tests (R399). -/
def backlogCheck (k : Nat) (s : State) : State :=
  if max 1 (fget GLB_THROTTLE_CFG.up_backlog s) ≤ (press k s).waiting.length then triggerUp k true s else s

/-- Whether press k has a clock edge in this DCLK cycle (R25). -/
def pressEdge (k : Nat) (s : State) : Bool := s.time.dclk % 2 ^ (press k s).div == 0

/-! ### Waiting copies (R195) -/

/-- Whether a copy is taken before another that came in the same cycle: received frames first, then by port or
channel. -/
def WaitCopy.before (a b : WaitCopy) : Bool := (a.rx && !b.rx) || (a.rx == b.rx && a.port ≤ b.port)

/-- The waiting copies with one more, behind every copy handed over or of an earlier cycle. -/
def insertCopy (w : WaitCopy) : List WaitCopy → List WaitCopy
  | [] => [w]
  | x :: xs =>
    if !x.handed && x.cycle == w.cycle && !x.before w then w :: x :: xs else x :: insertCopy w xs

/-- A header copy comes to the dealer of the press that owns its row. port orders it among those of its cycle. -/
def enqueueCopy (rx : Bool) (row port : Nat) (item : Item) (s : State) : State :=
  let k := ownerPress row s
  backlogCheck k (modPress k (fun p => { p with
    waiting := insertCopy ⟨false, s.time.dclk, row, rx, port, item⟩ p.waiting }) s)

/-! ### Lanes (R196, R199, R201) -/

/-- Whether lane l of press k is in service. -/
def laneIn (k l : Nat) (s : State) : Bool := !(press k s).lanesOut.testBit l

/-- The first lane in service after lane l. -/
def nextLane (k l : Nat) (s : State) : Nat :=
  (((List.range 8).map fun i => (l + 1 + i) % 8).find? fun i => laneIn k i s).getD l

/-- The lanes of press k taken out by lane_dis and lane_err; when that would be all of them, the mask stays (R201). -/
def refreshLanes (k : Nat) (s : State) : State :=
  let out := fget (PRS_CFG.lane_dis k) s ||| fget (PRS_LANE_STAT.lane_err k) s
  if out = 0xFF then s else modPress k (fun p => { p with lanesOut := out }) s

/-- The parser and classification registers of press k (R220, R296). -/
def pressCfg (k : Nat) (s : State) : PressCfg :=
  { parse := regW (PRS_PARSE_CFG.reg k) s, tag := regW (PRS_TAG_CFG.reg k) s
    tunnel := regW (PRS_TUNNEL_CFG.reg k) s, ports := regW (PRS_TUNNEL_PORTS.reg k) s
    csum := regW (PRS_CSUM_CFG.reg k) s, slow := regW (PRS_SLOW_CFG.reg k) s
    lpm := regW (PRS_LPM_CFG.reg k) s, cls := regW (PRS_CLS_CFG.reg k) s
    defAct := regW (PRS_DEFAULT_ACTION.reg k) s, mirror := regW (PRS_MIRROR_CFG.reg k) s
    etypes := (List.range 8).map fun i => regW (PRS_ETYPE_CFG.reg k i) s
    ranges := (List.range 32).map fun i => (regW (PRS_RANGE_CFG.reg k i) s, regW (PRS_RANGE_BOUNDS.reg k i) s) }

/-- The registers that a copy dealt now takes: as they were before the writes of the DCLK cycle in progress (R220, R296). -/
def cfgInForce (k : Nat) (s : State) : PressCfg := (press k s).cfgOld.getD (pressCfg k s)

/-- A register of the parser or of classification is about to be written: copies dealt in this DCLK cycle keep the values
from before. -/
def keepCfg (k : Nat) (s : State) : State := modPress k (fun p => { p with cfgOld := some (cfgInForce k s) }) s

/-! ### Dealing (R195, R196, R198) -/

/-- The attributes of an event of the item of a header copy. -/
def itemAttr (it : Item) (s : State) : Attr :=
  match it with
  | .frame id => match frame id s with
    | some f => frameAttr id f s
    | none => {}
  | .chain c first => match chainOf c first s with
    | some k => chainAttr c k s
    | none => chanAttr c s
  | .gone => {}

/-- A chain whose header copy is dealt is in its press. -/
def itemDealt (it : Item) (s : State) : State :=
  match it with
  | .chain c first => modChain c first (fun k => { k with stage := .inPress }) s
  | _ => s

/-- Counts a copy that was dealt (R454). -/
def countDealt (k : Nat) (rx : Bool) (it : Item) (s : State) : State :=
  count (.press k) (if rx then 0x01 else 0x02) 1 (itemAttr it s) s

/-- Deals one waiting copy of press k to lane l. -/
def dealOne (k l : Nat) (w : WaitCopy) (s : State) : State :=
  let p := press k s
  let c : Copy := { seq := p.nextSeq, rx := w.rx, row := w.row, lane := l, item := w.item, cfg := cfgInForce k s,
                    dealt := s.time.dclk, ready := none }
  let s := setPress k { p with waiting := p.waiting.drop 1, window := p.window ++ [c], nextSeq := p.nextSeq + 1,
                               lastLane := l, taken := p.taken ++ [l], winDealt := p.winDealt + 1 } s
  let n := (press k s).window.length
  let s := fset (PRS_REORDER_STAT.peak k) (max (fget (PRS_REORDER_STAT.peak k) s) n) s
  let s := if n = 256 then fset (PRS_REORDER_STAT.window_full k) 1 s else s
  countDealt k w.rx w.item (itemDealt w.item s)

/-- Deals up to n copies in this cycle, round robin over the lanes in service that have a slot left. After a full window it
resumes in the cycle after a result retires (R198). -/
def dealCopies (k : Nat) : Nat → State → State
  | 0, s => s
  | n + 1, s =>
    let p := press k s
    let l := nextLane k p.lastLane s
    match p.waiting with
    | [] => s
    | w :: _ =>
      if p.stopped || p.full || 256 ≤ p.window.length || p.taken.contains l || !laneIn k l s then s
      else dealCopies k n (dealOne k l w s)

/-! ### Lane faults (R199, R422) -/

/-- The state with the copy of sequence number q of press k changed. -/
def modCopy (k q : Nat) (f : Copy → Copy) (s : State) : State :=
  modPress k (fun p => { p with window := p.window.map fun c => if c.seq = q then f c else c }) s

/-- The result of a copy will be discarded when it comes (R199, R426, R459). -/
def discardResult (k : Nat) (c : Copy) (s : State) : State :=
  modPress k (fun p => { p with dropped := p.dropped ++ [(c.seq, c.lane, c.dealt)] }) s

/-- The counter of slot class i of press k: 0 delivered, 1 discarded, 2 starved, 3 stalled (R451). -/
def slotCounter (k i : Nat) : Nat := 512 + 32 * k + 28 + i

/-- A result that press k discards has come: its slot moves from delivered to discarded, in the counters when its copy was
dealt since the last COUNTER_RESET (R459), and for slow detection when it was dealt in the window in progress (R430). -/
def slotDiscarded (k dealt : Nat) (s : State) : State :=
  let s := modPress k (fun p => if s.time.dclk ≤ dealt + p.winCycles then { p with winLost := p.winLost + 1 } else p) s
  if s.pmu.resetAt ≤ dealt then
    let c := counter (slotCounter k 0) s
    count (.press k) 0x31 1 { filtered := false }
      (addCount (slotCounter k 1) 1 false (setCounter (slotCounter k 0) { c with value := c.value - 1 } s))
  else s

/-- The result of a lane for a copy that is not the lane's any longer comes, and is discarded. -/
def lateResult (k q l : Nat) (s : State) : State :=
  let p := press k s
  match p.dropped.find? fun d => d.1 == q && d.2.1 == l with
  | none => s
  | some d => slotDiscarded k d.2.2 (setPress k { p with dropped := p.dropped.erase d } s)

/-- How many lanes of press k are out of service. -/
def lanesOutCount (k : Nat) (s : State) : Nat :=
  ((List.range 8).filter fun l => !laneIn k l s).length

end Sys2Proof.Machine
end

