-- ==== Sys2Proof/Machine/Tables.lean ====
section
/-!
DEFINITION. Contents of the table replicas (spec/07): keys and their buckets (R230), placement and eviction (R231,
R232), the LPM rows and zones (R263, R264), entry images (R225 to R227, R263), shadowing (R266) and presses in use
(R242).
-/

namespace Sys2Proof.Machine

/-! ### Keys (R225, R230) -/

/-- The slots a key takes. -/
def EmKey.width : EmKey → Nat
  | .mac _ _ => 1
  | .host _ _ _ => 2

/-- The key image that is hashed (R230). -/
def EmKey.image : EmKey → Bytes
  | .mac fd a => 0x01#8 :: leBytes 2 fd ++ beBytes 6 a.toNat
  | .host vrf v6 a =>
    (if v6 then 0x03#8 else 0x02#8) :: leBytes 2 vrf ++ (if v6 then beBytes 16 a.toNat else beBytes 4 a.toNat)

/-- The bucket of a key (R230). -/
def keyBucket (k : EmKey) (s : State) : Nat := bucketOf (fget TBL_HASH_CFG.seed s) k.image

/-- The number of the first overflow entry. -/
def ovfBase : Nat := 1048576

/-- Overflow entries of a replica. -/
def ovfSize : Nat := 16384

/-- The slot of a key in a replica, in its bucket b or in the overflow store. -/
def findKey (b : Nat) (k : EmKey) (r : Replica) : Option (Nat × EmEntry) :=
  r.em.find? fun e => (e.1 / 4 == b || ovfBase ≤ e.1) && e.2.key == k

/-- The entry that lies in a slot: in it, or with its second half. -/
def occupant (n : Nat) (r : Replica) : Option (Nat × EmEntry) :=
  r.em.find? fun e => e.1 == n || (e.1 + 1 == n && e.2.key.width == 2)

/-- The occupants of a place of width w at slot n (spec/07, "Placement and eviction"). -/
def occupants (n w : Nat) (r : Replica) : List (Nat × EmEntry) :=
  r.em.filter fun e => e.1 < n + w && n < e.1 + e.2.key.width

/-- Whether a place is free. -/
def placeFree (n w : Nat) (r : Replica) : Bool := (occupants n w r).isEmpty

/-- The aligned places of width w in bucket b. -/
def bucketPlaces (b w : Nat) : List Nat := if w = 1 then [4 * b, 4 * b + 1, 4 * b + 2, 4 * b + 3] else [4 * b, 4 * b + 2]

/-- The lowest free aligned place of width w in the overflow store. -/
def freeOverflow (w : Nat) (r : Replica) : Option Nat :=
  ((List.range (ovfSize / w)).map fun i => ovfBase + i * w).find? fun n => placeFree n w r

/-- Puts an entry at a place, removing whatever occupies it. -/
def emPut (n : Nat) (e : EmEntry) (r : Replica) : Replica :=
  { r with em := mput n e ((occupants n e.key.width r).foldl (fun m o => merase o.1 m) r.em) }

/-- Removes the entry at a slot. -/
def emErase (n : Nat) (r : Replica) : Replica := { r with em := merase n r.em }

/-! ### Placement (R231) -/

/-- Where a key goes: replaced in place, at a free place, at a place to be evicted, or nowhere. -/
inductive Placing where
  | replace (n : Nat)
  | free (n : Nat)
  | evict (n : Nat)
  | none
  deriving DecidableEq, Repr

/-- The slot of a placing. -/
def Placing.slot : Placing → Nat
  | .replace n | .free n | .evict n => n
  | .none => 0

/-- The places of width w in bucket b that may be evicted. -/
def evictable (b w : Nat) (r : Replica) : List Nat :=
  (bucketPlaces b w).filter fun n => (occupants n w r).all fun e => !e.2.isStatic

/-- The place whose oldest occupant has the highest age, the lowest on a tie. -/
def oldestPlace (age : Nat × EmEntry → Nat) (w : Nat) (r : Replica) : List Nat → Option Nat
  | [] => none
  | n :: ns =>
    let a := fun n => (occupants n w r).foldl (fun m e => max m (age e)) 0
    match oldestPlace age w r ns with
    | none => some n
    | some m => if a m ≤ a n then some n else some m

/-- Where the engine places a key of bucket b in a replica (R231): of several free places of the bucket, the lowest
(DESIGN CHOICE: the spec names the lowest for the overflow store alone). evict says that eviction is allowed, lfsr the
draw of the random policy, age how an occupant's age is taken (R232). -/
def decidePlace (evict : Bool) (policy : Nat) (lfsr : Nat) (age : Nat × EmEntry → Nat) (b : Nat) (k : EmKey)
    (r : Replica) : Placing :=
  let w := k.width
  match findKey b k r with
  | some e => .replace e.1
  | none =>
    match (bucketPlaces b w).find? fun n => placeFree n w r with
    | some n => .free n
    | none =>
      match freeOverflow w r with
      | some n => .free n
      | none =>
        if !evict then .none
        else
          let cands := evictable b w r
          if policy = 0 then
            match cands[lfsr % cands.length]? with
            | some n => .evict n
            | none => .none
          else
            match oldestPlace age w r cands with
            | some n => .evict n
            | none => .none

/-- The random draw of an eviction, which advances the generator (R231). -/
def advanceLfsr (s : State) : State :=
  { s with engine := { s.engine with lfsr := Sys2Proof.Config.evictDraw s.freeCount }, freeCount := s.freeCount + 1 }

/-- Counts an eviction in one replica (TBL_EVICT_CFG.evict_cnt, global event 0x05). -/
def countEvict (s : State) : State := count .global 0x05 1 {} (fadd TBL_EVICT_CFG.evict_cnt 1 s)

/-! ### Presses in use (R242) and shadowing (R266) -/

/-- Whether press k is in use. -/
def inUse (k : Nat) (s : State) : Bool :=
  (List.range 32).any fun r => (fget GLB_ROW_EN.row_en s).testBit r && ownerPress r s == k

/-- Whether the learning mode is coordinated. -/
def coordinated (s : State) : Bool := fbit TBL_LEARN_CFG.mode s

/-- The presses in use. -/
def pressesInUse (s : State) : Nat := ((List.range 5).filter fun k => inUse k s).length

/-- The learning mode becomes coordinated or independent (R244): shadowing ends; the replicas then hold different learned
contents, or the learn filters are emptied. -/
def setLearnMode (coord : Bool) (s : State) : State :=
  if coordinated s = coord then s
  else
    let s := fset TBL_LEARN_CFG.mode (b2n coord) { s with engine := { s.engine with shadows := [], copied := [] } }
    if coord then fset TBL_LEARN_STAT.diverged 1 s
    else { s with presses := trim {} (s.presses.map fun e => (e.1, { e.2 with filter := [] })) }

/-- A third press comes into use in independent mode (R243). -/
def forceCoordinated (s : State) : State :=
  if !coordinated s && 3 ≤ pressesInUse s then fset TBL_LEARN_STAT.forced_coord 1 (setLearnMode true s) else s

/-- A change of one replica that is also applied to the targets that shadow it (R266). -/
def changeShadowed (k : Nat) (f : Replica → Replica) (s : State) : State :=
  s.engine.shadows.foldl (fun s p => if p.1 = k then modReplica p.2 f s else s) (modReplica k f s)

/-! ### LPM (R263, R264) -/

/-- The zone of a prefix length. -/
def lpmZone (v6 : Bool) (len : Nat) : Nat := if v6 then 128 - len else 161 - len

/-- Base and size of a zone. -/
def zoneOf (z : Nat) (r : Replica) : Nat × Nat := mgetD (0, 0) z r.zones

/-- The rows that an LPM entry takes. -/
def LpmEntry.rows (e : LpmEntry) : Nat := if e.v6 then 2 else 1

/-- The address bits that a prefix length keeps. -/
def prefixOf (v6 : Bool) (len : Nat) (a : BitVec 128) : BitVec 128 :=
  let w := if v6 then 128 else 32
  BitVec.ofNat 128 (a.toNat / 2 ^ (w - len) * 2 ^ (w - len))

/-- Whether the zone table is valid (R264). A table without rows, as power-on reset leaves it, is not: zones_valid has the
reset value 0 (DEDUCED). -/
def zonesValid (r : Replica) : Bool :=
  r.zones.any (·.2.2 != 0) && ((List.range 162).foldl (fun (acc : Nat × Bool) z =>
    let e := zoneOf z r
    (acc.1 + e.2, acc.2 && e.1 == acc.1 && (128 < z || (e.1 % 2 == 0 && e.2 % 2 == 0)) && acc.1 + e.2 ≤ 65536))
    (0, true)).2

/-- Rows of a replica that hold no valid entry. -/
def freeRows (r : Replica) : Nat := 65536 - r.lpm.foldl (fun a e => a + e.2.rows) 0

/-- Whether rows from n on, w of them, are free. -/
def rowsFree (n w : Nat) (r : Replica) : Bool := r.lpm.all fun e => n + w ≤ e.1 || e.1 + e.2.rows ≤ n

/-- The free places of width w (even rows for a pair) among the rows from lo up to hi. -/
def freePlaces (w lo hi : Nat) (r : Replica) : List Nat :=
  ((List.range (hi - lo)).map (lo + ·)).filter fun n => n % w == 0 && n + w ≤ hi && n + w ≤ 65536 && rowsFree n w r

/-- The entry that a lookup of an address meets: the lowest-numbered row that matches. -/
def lpmLookup (vrf : Nat) (v6 : Bool) (a : BitVec 128) (r : Replica) : Option LpmEntry :=
  (r.lpm.find? fun e => e.2.vrf == vrf && e.2.v6 == v6 && prefixOf v6 e.2.length a == e.2.addr).map (·.2)

/-- The row of the entry of a VRF, family, length and prefix. -/
def findLpm (vrf : Nat) (v6 : Bool) (len : Nat) (a : BitVec 128) (r : Replica) : Option (Nat × LpmEntry) :=
  r.lpm.find? fun e => e.2.vrf == vrf && e.2.v6 == v6 && e.2.length == len && e.2.addr == a

/-- A free value chooses one of the free rows that may be taken (R264 leaves the row open). -/
def pickRow (draw : Nat) (l : List Nat) : Option Nat := l[Sys2Proof.Config.freeRow draw % l.length]?

/-! ### Entry images -/

/-- The first 8 bytes of an exact-match entry (R225). -/
def EmKey.head : EmKey → Nat
  | .mac fd a => 2 ^ 62 + fd * 2 ^ 48 + a.toNat
  | .host vrf v6 _ => 2 ^ 63 + vrf * 2 ^ 48 + b2n v6

/-- The 16 bytes of the first slot of an entry. -/
def EmEntry.headBytes (e : EmEntry) : Bytes :=
  leBytes 8 e.key.head ++ leBytes 4 e.action.toNat
    ++ leBytes 4 (e.vintage.toNat * 2 ^ 16 + b2n e.isStatic * 2 ^ 15 + e.age * 2 ^ 11 + e.origin * 2 ^ 8)

/-- The 16 bytes of the tail of a host key. -/
def EmKey.tail : EmKey → Bytes
  | .mac _ _ => leBytes 16 0
  | .host _ v6 a => if v6 then beBytes 16 a.toNat else beBytes 4 a.toNat ++ leBytes 12 0

/-- The 32-byte image of an entry: a MAC key's second half is zero. -/
def EmEntry.bytes (e : EmEntry) : Bytes := e.headBytes ++ e.key.tail

/-- The key that an image names; none when its kind is empty or reserved or a field that must be zero is not. -/
def parseKey (b : Bytes) : Option EmKey :=
  let w := leAt 0 8 b
  let fd := bits w 61 48
  match bits w 63 62 with
  | 1 => some (.mac fd (BitVec.ofNat 48 w))
  | 2 =>
    if bits w 47 1 ≠ 0 then none
    else if bit w 0 then some (.host fd true (BitVec.ofNat 128 (beAt 0x10 16 b)))
    else if leAt 0x14 12 b ≠ 0 then none
    else some (.host fd false (BitVec.ofNat 128 (beAt 0x10 4 b)))
  | _ => none

/-- The entry that a WRITE's image gives, before the block sets its own fields. -/
def parseEm (b : Bytes) : Option EmEntry :=
  if leAt 0x0C 1 b ≠ 0 ∨ bits (leAt 8 4 b) 28 16 ≠ 0 then none
  else (parseKey b).map fun k =>
    { key := k, action := BitVec.ofNat 32 (leAt 8 4 b), vintage := 0, isStatic := bit (leAt 0x0C 2 b) 15,
      age := 0, origin := 7 }

/-- The LPM entry that an image gives: its key and action; none when a RES0 field is not zero or the length is out of
range. -/
def parseLpm (b : Bytes) : Option LpmEntry :=
  let w := leAt 0 4 b
  let v6 := bit w 8
  let len := bits w 7 0
  if bits w 31 30 ≠ 0 ∨ bits w 15 9 ≠ 0 ∨ leAt 0x0C 4 b ≠ 0 ∨ bits (leAt 4 4 b) 28 16 ≠ 0
      ∨ (if v6 then 128 else 32) < len then none
  else
    let a := BitVec.ofNat 128 (if v6 then beAt 0x10 16 b else beAt 0x10 4 b)
    some { vrf := bits w 29 16, v6 := v6, length := len, addr := prefixOf v6 len a, action := BitVec.ofNat 32 (leAt 4 4 b) }

/-- The 32 bytes of an LPM entry at a row. -/
def LpmEntry.bytes (e : LpmEntry) (row : Nat) : Bytes :=
  leBytes 4 (e.vrf * 2 ^ 16 + b2n e.v6 * 2 ^ 8 + e.length) ++ leBytes 4 e.action.toNat ++ leBytes 4 row ++ leBytes 4 0
    ++ (if e.v6 then beBytes 16 e.addr.toNat else beBytes 4 e.addr.toNat ++ leBytes 12 0)

/-- A group entry: its port mask. -/
def groupPorts (g : Nat) (r : Replica) : List Nat :=
  let m := leAt 0 32 (mgetD [] g r.groups)
  (List.range 256).filter fun p => m.testBit p

/-- A group entry: its valid channels. -/
def groupChans (g : Nat) (r : Replica) : List Nat :=
  let b := mgetD [] g r.groups
  (List.range 4).filterMap fun i =>
    let w := leAt (0x20 + 2 * i) 2 b
    if bit w 15 then some (bits w 12 0) else none

/-- Whether a port is in the mask of a group. -/
def groupHas (g p : Nat) (r : Replica) : Bool := (leAt 0 32 (mgetD [] g r.groups)).testBit p

/-! ### Occupancy (TBL_OCC, TBL_OVF_OCC) -/

/-- Bucket slots in use. -/
def bucketOcc (r : Replica) : Nat := r.em.foldl (fun a e => if e.1 < ovfBase then a + e.2.key.width else a) 0

/-- Overflow entries in use. -/
def overflowOcc (r : Replica) : Nat := r.em.foldl (fun a e => if e.1 < ovfBase then a else a + e.2.key.width) 0

/-! ### Learn filters (R237) -/

/-- The key leaves the learn filter of press k. -/
def unfilter (k : Nat) (key : EmKey) (s : State) : State :=
  match key with
  | .mac fd a => modPress k (fun p => { p with filter := p.filter.erase ⟨fd, a⟩ }) s
  | .host _ _ _ => s

end Sys2Proof.Machine
end

