-- ==== Sys2Proof/Machine/Egress.lean ====
section
/-!
DEFINITION. Destinations of a decided frame: ports that are no destination (R164), twin pairs (R120), the forwarding
queues (R153, R298, R317), the cellarmaster's slow-path queue (R217 to R219, R434), and the copies of a chain (R23, R62,
R121).
-/

namespace Sys2Proof.Machine

/-! ### Ports -/

/-- Whether port g is a destination: its row is not disabled and its speed is not off (R164). -/
def isDest (g : Nat) (s : State) : Bool := (row (g / 8) s).state != 0 && portSpeed g s != 0

/-- The largest frame of port g (PRT_FRAME_CFG). -/
def maxFrame (g : Nat) (s : State) : Nat := clamp 64 16384 (fget (PRT_FRAME_CFG.max_frame g) s)

/-- A frame or MAC control frame is ready at port g: a port in LPI starts to wake (R157). -/
def wakePort (g : Nat) (s : State) : State :=
  if (port g s).txLpi == 2 then modPort g (fun p => { p with txLpi := 1 }) s else s

/-- Destination ports with both ports of every pair (R120), each port once, and no port that is no destination. -/
def expandPorts (ds : List PortDest) (s : State) : List PortDest :=
  let all := ds.flatMap fun d =>
    match pairOfPort d.port s with
    | some p => [d, { d with port := p.mate d.port }]
    | none => [d]
  (all.foldl (fun acc d =>
    if acc.any fun x => x.port == d.port && x.mirror == d.mirror then acc else acc ++ [d]) []).filter
      fun d => isDest d.port s

/-! ### Forwarding queues (R298, R153, R317) -/

/-- The attributes of an event of a frame in a forwarding queue (R455). -/
def fwdAttr (tc : Nat) (f : FwdItem) (s : State) : Attr :=
  match f.frame with
  | none => { priv := 2, tc := some tc }
  | some id =>
    match frame id s with
    | none => { priv := 3, tc := some tc }
    | some x =>
      if f.cm then { frameAttr id x s with priv := 2, tc := some tc }
      else if x.port.isSome then { frameAttr id x s with tc := some tc }
      else
        match x.chan with
        | some c => { chanAttr c s with tc := some tc, item := some (x.tag id (x.press s)) }
        | none => { tc := some tc }

/-- A copy of a forwarding queue is done with its frame. -/
def dropFwd (f : FwdItem) (s : State) : State :=
  match f.frame with
  | some id => discardRef id s
  | none => s

/-- Drops a copy of a forwarding queue of class tc, which lost counts as it counts every port-to-port frame (R297); a
mirror copy is counted as mirror_drop too (R282; DEDUCED, log entry 50). -/
def loseFwd (tc : Nat) (f : FwdItem) (lost : State → State) (s : State) : State :=
  dropFwd f (match f.mirror with
    | some k => count (.press k) 0x3A 1 (fwdAttr tc f s) (lost s)
    | none => lost s)

/-- The transmission bytes of a forwarding-queue frame at port g. -/
def FwdItem.txBytes (f : FwdItem) (g : Nat) (s : State) : Nat := Machine.txBytes g f.bytes.length f.oneStep s

/-- Applies R317 to the head of a forwarding queue until a frame stands there that may fit; fuel bounds the number. -/
def fwdFit (g tc : Nat) : Nat → State → State
  | 0, s => s
  | n + 1, s =>
    match fwdQueue g tc s with
    | [] => s
    | f :: rest =>
      if !exempt g tc s && neverFits g tc (f.txBytes g s) s then
        let s := setFwdQueue g tc rest (fset (PRT_GATE_STAT.nofit_seen g) 1 s)
        fwdFit g tc n (loseFwd tc f (countNofit g (fwdAttr tc f s)) s)
      else s

/-- Queues a frame to a class of port g. k is the press that counts tx_oversize, for a frame longer than the port's
max_frame (R153). -/
def pushFwd (g tc k : Nat) (f : FwdItem) (s : State) : State :=
  if maxFrame g s < f.bytes.length then loseFwd tc f (count (.press k) 0x3C 1 (fwdAttr tc f s)) s
  else
    let q := fwdQueue g tc s
    let s := wakePort g (setFwdQueue g tc (q ++ [f]) s)
    if q.isEmpty then fwdFit g tc 1 s else s

/-! ### The slow path (R217 to R219, R434) -/

/-- Records the depth of the slow-path queue for MGT_LOAD_IND (R437). -/
def noteSlowDepth (s : State) : State :=
  { s with cm := { s.cm with winSlow := max s.cm.winSlow s.cm.slowQ.length } }

/-- A slow-path frame of press k comes to the cellarmaster's queue, or is dropped when that is full (R21, R434). -/
def slowToCm (id k reason : Nat) (bs : Bytes) (l3 l4 : Bool) (s : State) : State :=
  match frame id s with
  | none => s
  | some f =>
    if 4096 ≤ s.cm.slowQ.length then
      let s := count (.press k) 0x26 1 (frameAttr id f s) (fadd (PRS_STAT.slow_q_drop k) 1 s)
      discardRef id { s with cm := { s.cm with winDrop := true } }
    else
      noteSlowDepth (count .global 0x06 1 { priv := 2 }
        { s with cm := { s.cm with slowQ := s.cm.slowQ ++ [⟨id, bs, f.port.getD 0, k, reason, f.stamp, l3, l4⟩] } })

/-- Whether the slow-path frames of press k with a reason go to its exception channel (R217). -/
def slowToHost (k reason : Nat) (s : State) : Bool := reason != 13 && fbit (PRS_CFG.slow_host k) s

/-! ### A decided received frame (step 7 of "The block in one pass") -/

/-- A number for the copies of one frame. -/
def takeSerial (s : State) : Nat × State := (s.serial, { s with serial := s.serial + 1 })

/-- Queues the copies of frame id to ports; every copy holds a reference. -/
def framePorts (id k : Nat) (ingress : Stamp) (ds : List PortDest) (s : State) : State :=
  let n := takeSerial s
  ds.foldl (fun s d =>
    pushFwd d.port d.tc k { frame := some id, bytes := d.bytes, unmodified := d.unmodified, oneStep := d.oneStep,
                            ingress := ingress, item := n.1, mirror := if d.mirror then some k else none } s) n.2

/-- Queues frame id to channels; every copy holds a reference. -/
def frameChans (id k : Nat) (d : Decision) (s : State) : State :=
  d.chans.foldl (fun s x =>
    queueFrame x.chan k { frame := id, kind := x.kind, bytes := x.bytes, tc := x.tc, l3err := d.l3err,
                          l4err := d.l4err, held := false, vlan := x.vlan } s) s

/-- Queues a received frame to what its press decided. A frame with no destination is discarded (R19); one that was given
only destinations that are none (R164), or an empty group, is counted as tbl_drop (DESIGN CHOICE: step 7 of "The block in
one pass" has it counted, and names no event). -/
def frameDecided (id k : Nat) (d : Decision) (s : State) : State :=
  match frame id s with
  | none => s
  | some f =>
    let ports := expandPorts d.ports s
    let s := if d.away && ports.isEmpty && d.chans.isEmpty then count (.press k) 0x28 1 (frameAttr id f s) s else s
    let s := addRefs id (ports.length + d.chans.length + (if d.slow.isSome then 1 else 0)) s
    let s := frameChans id k d (framePorts id k f.stamp ports s)
    let s := match d.slow with
      | some (r, bs) => slowToCm id k r bs d.l3err d.l4err s
      | none => s
    discardRef id s

/-! ### A decided chain (R23, R62, R164, R304) -/

/-- The sum that is compared with the maximum frame of a port (R62, R121, R289), but for the R-TAG. -/
def Chain.sum (k : Chain) (encap : Nat) : Nat := k.total + 4 + (if k.head.vlanIns then 4 else 0) + encap

/-- Whether a chain is oversize at port g. -/
def chainOversize (k : Chain) (encap g : Nat) (s : State) : Bool :=
  maxFrame g s < k.sum encap + (if (pairOfPort g s).isSome then 6 else 0)

/-- A chain's cells pass to a cellar frame that its channel copies and mirror copies share with it (R19, R23): the frame
has no arrival port, and a sample of it starts as one of the chain would (DESIGN CHOICE, log entry 64). -/
def shareChain (c : Nat) (k : Chain) (bs : Bytes) (n : Nat) (s : State) : Nat × State :=
  let id := s.cellar.nextFrame
  let f : Frame := { bytes := bs, keyPort := 8 * (chan c s).ctx.homeRow, pool := .transmit, cells := k.cells, refs := n + 1,
                     chan := some c, arrived := k.start.at_, stamp := k.start.time, prio := (chan c s).ctx.tc }
  let s := setFrame id f { s with cellar := { s.cellar with nextFrame := id + 1 } }
  (id, modChain c k.first (fun k => { k with cells := 0, frame := some id }) s)

/-- Queues the mirror copies of a chain (R281, R282). -/
def chainMirrors (id p : Nat) (ports : List PortDest) (chans : List ChanDest) (s : State) : State :=
  let s := framePorts id p (now s) (ports.map fun d => { d with bytes := withFcs d.bytes }) s
  chans.foldl (fun s x =>
    queueFrame x.chan p { frame := id, kind := .mirror, bytes := withFcs x.bytes, tc := x.tc, l3err := false, l4err := false,
                          held := false, vlan := x.vlan } s) s

/-- The chain of channel c waits for its decision to be carried out: its copies at ports, and its channel copies, which
enter their queues when it launches (R23). -/
def placeChain (c : Nat) (k : Chain) (copies : List TxCopy) (dests : List ChanDest) (port : Nat) (s : State) : State :=
  let s := modChain c k.first (fun k => { k with stage := .decided, copies := copies, dests := dests, port := port }) s
  copies.foldl (fun s x => wakePort x.port s) (syncChan c (headFit c s))

/-- Carries out the decision of press p for a chain of channel c that is not launched: it settles with a status, or is
queued to its destinations. encap is the length that a template adds. The completion of a chain with several destination
ports, or a twin pair, names the first of them that takes a copy, and with status 0x12 the first of them (DESIGN CHOICE:
R69 says only "destination port"). -/
def chainDecided (c p : Nat) (k : Chain) (d : Decision) (encap : Nat) (s : State) : State :=
  let mports := expandPorts (d.ports.filter (·.mirror)) s
  let mchans := d.chans.filter fun x => x.kind == .mirror
  let shared := mports.length + mchans.length
  let dests := if d.status.isSome then [] else d.chans.filter fun x => x.kind != .mirror
  let alive := expandPorts (d.ports.filter fun x => !x.mirror) s
  let fit := alive.filter fun x => !chainOversize k encap x.port s
  let settle := fun (n : Nat) (s : State) => modChain c k.first (fun k => { k with stage := .settling n }) s
  let share := shared + dests.length
  let bs := (((d.chans ++ dests).map (·.bytes)) ++ d.ports.map (·.bytes)).headD k.data
  let r := if share = 0 then (0, s) else shareChain c k bs share s
  let s := chainMirrors r.1 p mports mchans r.2
  match d.status with
  | some n => settle n s
  | none =>
    let copies : List TxCopy := fit.map fun x =>
      { port := x.port, tc := (chan c s).ctx.tc, bytes := x.bytes, oneStep := x.oneStep, phase := .queued, stamp := none }
    if copies.isEmpty && dests.isEmpty then
      match alive with
      | [] => settle 0x11 s
      | x :: _ => settle 0x12 (modChain c k.first (fun k => { k with port := x.port }) s)
    else placeChain c k copies dests ((copies.head?.map (·.port)).getD 0) s

end Sys2Proof.Machine
end

