-- ==== Sys2Proof/Machine/Lookup.lean ====
section
/-!
DEFINITION. Looking a frame up in a press's tables (R228, R229): domain and membership, source lookup and learning
(R233 to R237), destination lookup, routing and next hops.
-/

namespace Sys2Proof.Machine

/-- A frame as its press looks it up. src is the arrival port under R234 or the channel; vid and pcp are those of R144,
or the outer tag's for a chain; bs has no FCS; noL4 says that no L4 fields go to the lookups (R215). -/
structure Look where
  k : Nat
  cfg : PressCfg
  rx : Bool
  attr : Attr
  src : Nat
  vid : Nat
  pcp : Nat
  tagged : Bool
  ucMark : Bool
  bs : Bytes
  levels : List Level
  noL4 : Bool

/-- Where the lookups send a frame; toClass leaves it to classification (R228). -/
inductive Dest where
  | port (g : Nat)
  | chan (c : Nat)
  | group (n : Nat)
  | flood (n except : Nat)
  | drop
  | toClass
  deriving DecidableEq, Repr

/-- The outcome of the lookups: discarded and counted, decided by slow-path reason 4, 5 or 7, or a destination with the
frame and its levels as they now are. -/
inductive Found where
  | discard
  | slow (reason : Nat)
  | to (fd : Nat) (d : Dest) (bs : Bytes) (levels : List Level)

/-- Counts an event of the frame's press. -/
def Look.count (l : Look) (code : Nat) (s : State) : State := Machine.count (.press l.k) code 1 l.attr s

/-! ### Slow-path dispositions (R215) -/

/-- The disposition of a reason: 0 slow path, 1 forward, 2 drop. -/
def disposition (cfg : PressCfg) (reason : Nat) : Nat :=
  let v := fun (f : Nat → Fld) => (f 0).read cfg.slow
  let three := fun n => if n = 1 ∨ n = 2 then n else 0
  let two := fun n => if n = 2 then n else 0
  match reason with
  | 1 => three (v PRS_SLOW_CFG.disp_frag)
  | 2 => three (v PRS_SLOW_CFG.disp_opt)
  | 3 => three (v PRS_SLOW_CFG.disp_ext3)
  | 4 => two (v PRS_SLOW_CFG.disp_ttl)
  | 5 => two (v PRS_SLOW_CFG.disp_hop)
  | 6 => three (v PRS_SLOW_CFG.disp_depth)
  | 7 => two (v PRS_SLOW_CFG.disp_etype)
  | 8 => three (v PRS_SLOW_CFG.disp_stack)
  | 11 => three (v PRS_SLOW_CFG.disp_lldp)
  | 12 => three (v PRS_SLOW_CFG.disp_arp)
  | 14 => three (v PRS_SLOW_CFG.disp_ptp)
  | _ => 0

/-! ### Action words (R226) -/

/-- What an action word asks for. -/
inductive Action where
  | port (g : Nat)
  | chan (c : Nat)
  | group (n : Nat)
  | route (vrf : Nat)
  | nextHop (n : Nat)
  | drop
  deriving DecidableEq, Repr

/-- The action of a word in a MAC key entry, or in a host key or LPM entry. -/
def actionOf (mac : Bool) (w : Word) : Action :=
  let arg := bits w.toNat 15 0
  match bits w.toNat 31 29 with
  | 0 => if arg ≤ 255 then .port arg else .drop
  | 1 => if arg ≤ 8191 then .chan arg else .drop
  | 2 => if arg ≤ 4095 then .group arg else .drop
  | 3 => if mac && arg ≤ 16383 then .route arg else .drop
  | 4 => if !mac && arg ≤ 16383 then .nextHop arg else .drop
  | _ => .drop

/-- The port of an action of kind 0, else 0 (R239). -/
def actionPort (w : Word) : Nat := if bits w.toNat 31 29 = 0 then bits w.toNat 7 0 else 0

/-! ### Learning (R233 to R237) -/

/-- Whether the bucket of a key is locked for press k's replica (R235, R258). -/
def bucketLocked (k b : Nat) (s : State) : Bool :=
  s.engine.locks.any fun l => l.held && l.bucket == b && (l.all || l.replica == k)

/-- Whether a change of press k's replica would change a locked bucket, there or in a replica that shadows it (R258,
R266). -/
def changeLocked (k b : Nat) (s : State) : Bool :=
  bucketLocked k b s || s.engine.shadows.any fun p => p.1 == k && bucketLocked p.2 b s

/-- Posts a type 1 or type 2 event under the press's filter (R237, R238). -/
def postStation (k : Nat) (e : LearnEvent) (s : State) : State :=
  let key : FilterKey := ⟨e.fd, e.mac⟩
  if (press k s).filter.contains key then s
  else
    let r := postLearn e s
    if r.2 then
      modPress k (fun p => { p with filter := (p.filter ++ [key]).drop (p.filter.length + 1 - 1024) }) r.1
    else r.1

/-- Posts an event that notify asks for (R236). -/
def notifyLearn (e : LearnEvent) (s : State) : State :=
  if fbit TBL_LEARN_CFG.notify s then (postLearn e s).1 else s

/-- The event of an entry that a hardware insertion evicted (type 7). -/
def notifyEvicted (k : Nat) (e : EmEntry) (s : State) : State :=
  match e.key with
  | .mac fd a => notifyLearn { fd := fd, mac := a, type := 7, press := k, vintage := e.vintage.toNat } s
  | .host vrf _ _ =>
    notifyLearn { fd := vrf, mac := Sys2Proof.Config.hostEvictMac s.freeCount, type := 7, press := k,
                  vintage := e.vintage.toNat } { s with freeCount := s.freeCount + 1 }

/-- The action word of kind 0 for a port. -/
def portAction (g : Nat) : Word := BitVec.ofNat 32 g

/-- The age of an entry of one replica (R231). -/
def ownAge (e : Nat × EmEntry) : Nat := e.2.age

/-- Whether insertions evict, and under which policy (TBL_EVICT_CFG). -/
def evictOn (s : State) : Bool := fbit TBL_EVICT_CFG.evict_en s
/-- The eviction policy: 0 random, 1 oldest. -/
def evictPolicy (s : State) : Nat := fget TBL_EVICT_CFG.policy s

/-- Hardware inserts a station it has not met (R233, R236). The events of evicted entries, type 7, are posted before
the type 4 of the insertion (DESIGN CHOICE, log entry 63: R236 gives no order). -/
def learnInsert (k fd port : Nat) (mac : BitVec 48) (s : State) : State :=
  let key := EmKey.mac fd mac
  let b := keyBucket key s
  let r := replica k s
  let e : EmEntry := { key := key, action := portAction port, vintage := 0, isStatic := false, age := 0, origin := k }
  let note : LearnEvent := { fd := fd, mac := mac, type := 4, press := k, port := port,
                             vintage := (nth 0 k s.engine.vintages).toNat }
  match decidePlace (evictOn s) (evictPolicy s) s.engine.lfsr.toNat ownAge b key r with
  | .none => s
  | .evict n =>
    let out := occupants n 1 r
    let s := countEvict (advanceLfsr (changeShadowed k (emPut n e) s))
    notifyLearn note (out.foldl (fun s o => notifyEvicted k o.2 s) s)
  | p => notifyLearn note (changeShadowed k (emPut p.slot e) s)

/-- An entry's age is set to 0 in the press's own replica (R233); shadows do not follow (R266). -/
def ageReset (k n : Nat) (s : State) : State :=
  modReplica k (fun r => { r with em := r.em.map fun e => if e.1 = n then (n, { e.2 with age := 0 }) else e }) s

/-- Whether what a lookup of this DCLK cycle found for a key still stands in the replica of press k: no change of the same
cycle has put, moved or removed the key. -/
def stands (k : Nat) (key : EmKey) (found : Option (Nat × EmEntry)) (s : State) : Bool :=
  let face := fun (o : Option (Nat × EmEntry)) => o.map fun e => (e.1, e.2.action, e.2.isStatic)
  face (findKey (keyBucket key s) key (replica k s)) == face found

/-- The source lookup of a received frame, with learning (R233, R235). The answer says whether the frame goes on. A lookup
that a change of the same cycle has overtaken changes nothing itself (DESIGN CHOICE, log entry 63: R223 has it see the
contents from before, and no rule says what it then learns). -/
def sourceLookup (l : Look) (fd port : Nat) (learn : Bool) (s : State) : State × Bool :=
  let mac : BitVec 48 := BitVec.ofNat 48 (beAt 6 6 l.bs)
  let group := (beAt 6 1 l.bs).testBit 0
  if !fbit TBL_LEARN_CFG.learn_en s || !learn || group || mac == 0 then (s, true)
  else
    let key := EmKey.mac fd mac
    let b := keyBucket key s
    let k := l.k
    let locked := changeLocked k b s && !coordinated s
    let found := findKey b key (replicaSeen k s)
    let now := stands k key found s
    match found with
    | none =>
      if coordinated s || locked then
        (postStation k { fd := fd, mac := mac, type := 1, deferred := locked, press := k, port := port,
                         vintage := (nth 0 k s.engine.vintages).toNat } s, true)
      else (if now then learnInsert k fd port mac s else s, true)
    | some (n, e) =>
      let same := actionOf true e.action == .port port
      if e.isStatic then
        if same then (s, true) else (l.count 0x2E s, !fbit TBL_LEARN_CFG.sm_drop s)
      else if same then (if now && (coordinated s || !bucketLocked k b s) then ageReset k n s else s, true)
      else
        let move : LearnEvent := { fd := fd, mac := mac, type := 2, press := k, oldPort := actionPort e.action,
                                   port := port, vintage := e.vintage.toNat }
        if locked then (postStation k { move with deferred := true } s, true)
        else if coordinated s then (postStation k move (if now then ageReset k n s else s), true)
        else if !now then (s, true)
        else
          let f := emPut n { e with action := portAction port, age := 0, origin := k }
          (notifyLearn { move with type := 5 } (changeShadowed k f s), true)

/-! ### Rewriting (R228 step 6) -/

/-- An offset moved by delta when it lies at or behind from. -/
def moved (start : Nat) (delta : Int) (n : Nat) : Nat :=
  if start ≤ n then (Int.ofNat n + delta).toNat else n

/-- The levels of a frame into which bytes were put, or from which they were taken, at an offset. -/
def shiftLevels (start : Nat) (delta : Int) (ls : List Level) : List Level :=
  let m := moved start delta
  ls.map fun l =>
    { l with
      eth := l.eth.map m
      tags := l.tags.map fun t => { t with off := m t.off }
      ip := l.ip.map fun h => { h with off := m h.off, stop := m h.stop }
      l4 := l.l4.map fun h => { h with off := m h.off }
      tun := l.tun.map fun t => { t with stop := m t.stop }
      ptp := l.ptp.map m }

/-- The outermost level of a frame. -/
def outer (ls : List Level) : Level := ls.headD {}

/-- The frame with the outer VID that a next hop gives: 0 removes the outer tag, another VID replaces that of the tag or
adds a tag. -/
def rewriteVid (vid : Nat) (bs : Bytes) (ls : List Level) (s : State) : Bytes × List Level × State :=
  match (outer ls).tags with
  | t :: rest =>
    if vid = 0 then
      let ls := match ls with
        | l :: more => { l with tags := rest } :: more
        | [] => []
      (bs.take t.off ++ bs.drop (t.off + 4), shiftLevels (t.off + 4) (-4) ls, s)
    else (put16 (t.off + 2) (t.tci / 2 ^ 12 * 2 ^ 12 + vid) bs, ls, s)
  | [] =>
    if vid = 0 then (bs, ls, s)
    else
      let tci := (Sys2Proof.Config.routedPri s.freeCount).toNat * 2 ^ 12 + vid
      let ls := shiftLevels 12 4 ls
      let ls := match ls with
        | l :: more => { l with tags := [⟨12, 0x8100, tci⟩] } :: more
        | [] => []
      (bs.take 12 ++ beBytes 2 0x8100 ++ beBytes 2 tci ++ bs.drop 12, ls, { s with freeCount := s.freeCount + 1 })

/-- The destination that a next-hop entry names. -/
def hopDest (w1 : Nat) : Dest :=
  let i := bits w1 62 50
  match bits w1 49 48 with
  | 0 => if i ≤ 255 then .port i else .drop
  | 1 => .chan i
  | 2 => if i ≤ 4095 then .group i else .drop
  | _ => .drop

/-- Step 6: next hop n. -/
def nextHop (l : Look) (fd n : Nat) (s : State) : Found × State :=
  let e := mgetD [] n (replicaSeen l.k s).hops
  let w0 := leAt 0 8 e
  let w1 := leAt 8 8 e
  let bs := splice 0 (beBytes 6 (bits w0 47 0) ++ beBytes 6 (bits w1 47 0)) l.bs
  let bs := if bit w0 60 then decTtl (outer l.levels) bs else bs
  let r := rewriteVid (bits w0 59 48) bs l.levels s
  (.to fd (hopDest w1) r.1 r.2.1, r.2.2)

/-! ### Routing (R228 step 5) -/

/-- Slow-path reason 4, 5 or 7 is met: it is counted, and decides as slow path or as drop. -/
def routeReason (l : Look) (reason : Nat) (s : State) : Found × State :=
  let s := l.count (0x10 + reason) s
  (if disposition l.cfg reason = 2 then .discard else .slow reason, s)

/-- The action that routing finds for a destination address. A host key that is hit has its age set to 0. -/
def routeLookup (l : Look) (vrf : Nat) (ip : IpHdr) (s : State) : Option Word × State :=
  let on := if ip.v6 then (PRS_LPM_CFG.v6_en 0).read l.cfg.lpm != 0 else (PRS_LPM_CFG.v4_en 0).read l.cfg.lpm != 0
  let r := replicaSeen l.k s
  let a := BitVec.ofNat 128 ip.dst
  if !on then (none, s)
  else
    let key := EmKey.host vrf ip.v6 a
    let found := findKey (keyBucket key s) key r
    match found with
    | some (n, e) => (some e.action, if stands l.k key found s then ageReset l.k n s else s)
    | none => ((lpmLookup vrf ip.v6 a r).map (·.action), s)

/-- What an action that routing or a destination lookup found gives, routing apart. -/
def Action.dest : Action → Dest
  | .port g => .port g
  | .chan c => .chan c
  | .group n => .group n
  | _ => .drop

/-- Step 5: routing with a VRF. A transmit chain that meets reason 7 takes its destination from classification alone, as a
frame whose routed level is MPLS does; with none it is counted as route_no_ip and completes with 0x11 (DESIGN CHOICE: R216
forwards it on the fields parsed, which give no destination). -/
def route (l : Look) (fd vrf : Nat) (s : State) : Found × State :=
  let o := outer l.levels
  if o.etype == 0x8847 || o.etype == 0x8848 || o.custom then (.to fd .toClass l.bs l.levels, s)
  else if !o.known || (o.etype != 0x0800 && o.etype != 0x86DD) then
    if l.rx then routeReason l 7 s else (.to fd .toClass l.bs l.levels, l.count 0x17 s)
  else
    match o.ip with
    | none => (.discard, l.count 0x2C s)
    | some ip =>
      let reason := if ip.v6 then 5 else 4
      if ip.ttl ≤ 1 && l.rx then routeReason l reason s
      else
        let s := if ip.ttl ≤ 1 then l.count (0x10 + reason) s else s
        let r := routeLookup l vrf ip s
        match r.1 with
        | none => (.discard, l.count 0x2C r.2)
        | some w =>
          match actionOf false w with
          | .nextHop n => nextHop l fd n r.2
          | a => (.to fd a.dest l.bs l.levels, r.2)

/-! ### The sequence (R228, R229) -/

/-- Steps 4 to 6 in domain fd with flood group g. -/
def destLookup (l : Look) (fd g : Nat) (s : State) : Found × State :=
  let key := EmKey.mac fd (BitVec.ofNat 48 (beAt 0 6 l.bs))
  match findKey (keyBucket key s) key (replicaSeen l.k s) with
  | some (_, e) =>
    match actionOf true e.action with
    | .route vrf => route l fd vrf s
    | a => (.to fd a.dest l.bs l.levels, s)
  | none =>
    if l.ucMark then (.discard, l.count 0x2B s)
    else (.to fd (.flood g (if l.rx then l.src else 256)) l.bs l.levels, l.count 0x03 s)

/-- The lookups of a frame. -/
def lookup (l : Look) (s : State) : Found × State :=
  let r := replicaSeen l.k s
  let v := (mgetD 0 l.vid r.vids).toNat
  let fd := bits v 13 0
  let d := (mgetD 0 fd r.domains).toNat
  if !bit v 31 || !bit d 31 then (.discard, l.count 0x29 s)
  else if !l.rx then destLookup l fd (bits d 23 12) s
  else if !groupHas (bits d 11 0) l.src r then (.discard, l.count 0x2A s)
  else
    let q := sourceLookup l fd l.src (bit d 30) s
    if q.2 then destLookup l fd (bits d 23 12) q.1 else (.discard, q.1)

end Sys2Proof.Machine
end

