-- ==== Sys2Proof/Machine/Classify.lean ====
section
/-!
DEFINITION. Classification, policing and tunnels (spec/08): the key (R273), range comparators (R274), rows and actions
(R275 to R278), policers (R290 to R294), decapsulation and encapsulation (R283 to R289), and what one-step needs of a
PTP message (R350).
-/

namespace Sys2Proof.Machine

/-! ### The key (R273, R274) -/

/-- The level from which the key is filled. -/
def keyLevel (l : Look) (ls : List Level) : Level :=
  if (PRS_CLS_CFG.key_level 0).read l.cfg.cls = 0 then outer ls else (ls.getLast?).getD {}

/-- The L4 header that the key may show. -/
def keyL4 (l : Look) (v : Level) : Option L4Hdr :=
  if l.noL4 || (v.ip.map (·.frag)).getD 0 == 2 then none else v.l4

/-- The result of one range comparator (R274). -/
def rangeBit (cfg bounds : Word) (value : Nat → Option Nat) : Bool :=
  let f := (PRS_RANGE_CFG.field 0 0).read cfg
  if (PRS_RANGE_CFG.en 0 0).read cfg = 0 ∨ 5 ≤ f then false
  else
    match value f with
    | none => false
    | some v =>
      let hit := decide (bits bounds.toNat 15 0 ≤ v) && decide (v ≤ bits bounds.toNat 31 16)
      if (PRS_RANGE_CFG.invert 0 0).read cfg = 0 then hit else !hit

/-- The value of a field that a comparator may select, none where the frame has no such field. -/
def rangeField (l : Look) (v : Level) (size : Nat) (f : Nat) : Option Nat :=
  match f with
  | 0 => (keyL4 l v).map (·.sport)
  | 1 => (keyL4 l v).bind fun h => if h.checked then some h.dport else none
  | 2 => if l.rx || l.tagged then some l.vid else none
  | 3 => if v.etypeSet && v.etype != 0 then some v.etype else none
  | _ => some size

/-- Bits of the range field. -/
def rangeBits (value : Nat → Option Nat) : List (Word × Word) → Nat
  | [] => 0
  | (c, b) :: rest => b2n (rangeBit c b value) + 2 * rangeBits value rest

/-- The 480-bit classification key. -/
def clsKey (l : Look) (fd : Nat) (bs : Bytes) (ls : List Level) : Nat :=
  let v := keyLevel l ls
  let h := keyL4 l v
  let ip := v.ip
  let tun := ls.findSome? (·.tun)
  let at_ := fun (lo n : Nat) => n * 2 ^ lo
  at_ 477 (b2n (!l.rx)) + at_ 464 l.src + at_ 463 (b2n tun.isSome) + at_ 449 fd + at_ 437 l.vid + at_ 434 l.pcp
    + at_ 418 v.etype + at_ 370 ((v.eth.map fun o => beAt o 6 bs).getD 0)
    + at_ 242 ((ip.map (·.dst)).getD 0) + at_ 114 ((ip.map (·.src)).getD 0) + at_ 106 ((ip.map (·.proto)).getD 0)
    + at_ 100 ((ip.map (·.dscp)).getD 0) + at_ 98 ((ip.map (·.ecn)).getD 0) + at_ 96 ((ip.map (·.frag)).getD 0)
    + at_ 80 ((h.map (·.sport)).getD 0) + at_ 64 ((h.map fun x => if x.checked then x.dport else 0).getD 0)
    + at_ 56 ((h.map (·.flags)).getD 0) + at_ 32 ((tun.map (·.vni)).getD 0)
    + rangeBits (rangeField l v (bs.length + 4)) l.cfg.ranges

/-! ### Rows and actions (R275 to R277) -/

/-- Whether a row image matches a key (R276). -/
def clsMatches (key : Nat) (b : Bytes) : Bool :=
  let m := leAt 0x40 60 b
  bit (leAt 0x7C 4 b) 31 && (key &&& m) == (leAt 0 60 b &&& m)

/-- A classification action (R277): the parts that an action may have. -/
structure ClsAction where
  verdict : Nat := 0
  dest : Dest := .drop
  police : Option Nat := none
  mirror : Option Nat := none
  tc : Option Nat := none
  dscp : Option Nat := none
  decap : Bool := false
  encap : Option Nat := none
  oneStep : Bool := false
  deriving DecidableEq, Repr

/-- The action that 16 bytes spell. -/
def parseAction (b : Bytes) : ClsAction :=
  let w := leAt 0 4 b
  let x := leAt 4 4 b
  let i := bits w 26 14
  { verdict := (if bits w 31 29 ≤ 3 then bits w 31 29 else 0)
    dest := (match bits w 28 27 with
      | 0 => if i ≤ 255 then .port i else .drop
      | 1 => .chan i
      | 2 => if i ≤ 4095 then .group i else .drop
      | _ => .drop)
    police := (if bit x 31 then some (bits w 13 0) else none)
    mirror := (if bit x 30 then some (bits x 29 29) else none)
    tc := (if bit x 28 then some (bits x 27 25) else none)
    dscp := (if bit x 24 then some (bits x 23 18) else none)
    decap := bit x 17
    encap := (if bit x 16 then some (bits x 11 0) else none)
    oneStep := bit x 15 }

/-- The default action (R272). -/
def defaultAction (w : Word) : ClsAction :=
  let v := (PRS_DEFAULT_ACTION.verdict 0).read w
  { verdict := (if v = 2 ∨ v = 3 then v else 0)
    police := (if (PRS_DEFAULT_ACTION.police_en 0).read w = 0 then none else some ((PRS_DEFAULT_ACTION.policer 0).read w))
    mirror := (if (PRS_DEFAULT_ACTION.mirror_en 0).read w = 0 then none
               else some ((PRS_DEFAULT_ACTION.mirror_session 0).read w)) }

/-- The action of a frame: that of the first row that matches as this cycle sees the rows, or the default (R270, R272,
R276). -/
def clsAction (l : Look) (fd : Nat) (bs : Bytes) (ls : List Level) (s : State) : ClsAction :=
  let on := (PRS_CLS_CFG.en 0).read l.cfg.cls != 0 && (l.rx || (PRS_CLS_CFG.tx_en 0).read l.cfg.cls != 0)
  let row := if on then (replicaSeen l.k s).cls.find? fun e => clsMatches (clsKey l fd bs ls) e.2 else none
  match row with
  | some e => parseAction (slice 0x80 16 e.2)
  | none => defaultAction l.cfg.defAct

/-- The destination of a mirror session, none when it makes no copies (R281). -/
def mirrorDest (cfg : PressCfg) (session : Nat) : Option Dest :=
  let m := cfg.mirror
  let en := if session = 0 then (PRS_MIRROR_CFG.en0 0).read m else (PRS_MIRROR_CFG.en1 0).read m
  let kind := if session = 0 then (PRS_MIRROR_CFG.kind0 0).read m else (PRS_MIRROR_CFG.kind1 0).read m
  let i := if session = 0 then (PRS_MIRROR_CFG.index0 0).read m else (PRS_MIRROR_CFG.index1 0).read m
  if en = 0 then none
  else
    match kind with
    | 0 => if i ≤ 255 then some (.port i) else none
    | 1 => some (.chan i)
    | 2 => if i ≤ 4095 then some (.group i) else none
    | _ => none

/-! ### Policers (R290 to R294) -/

/-- The colours of RFC 2698. -/
inductive Colour where
  | green | yellow | red
  deriving DecidableEq, Repr

/-- What a bucket gains, in units of 2^-20 byte, at a rate in kbit/s over a number of DCLK cycles: one kbit/s adds
1/8,000,000 byte per ns, which is 256/3125 units per cycle of 0.625 ns. -/
def policerUnits (kbit cycles : Nat) : Nat :=
  let n := kbit * cycles * 256
  n / 3125 + (if n % 3125 = 0 then 0 else b2n (Sys2Proof.Config.roundUp kbit cycles))

/-- Committed rate in force, in kbit/s. -/
def Policer.cirOn (p : Policer) : Nat := min p.cir 800000000
/-- Peak rate in force, in kbit/s. -/
def Policer.pirOn (p : Policer) : Nat := clamp p.cirOn 800000000 p.pir
/-- Committed burst in force, in bytes. -/
def Policer.cbsOn (p : Policer) : Nat := min p.cbs 16777216
/-- Peak burst in force, in bytes. -/
def Policer.pbsOn (p : Policer) : Nat := clamp p.cbsOn 16777216 p.pbs

/-- Meters b bytes at time t (R290). -/
def Policer.meter (t b : Nat) (p : Policer) : Colour × Policer :=
  let tc := min (p.cbsOn * 2 ^ 20) (p.tc + policerUnits p.cirOn (t - p.last))
  let tp := min (p.pbsOn * 2 ^ 20) (p.tp + policerUnits p.pirOn (t - p.last))
  let q := { p with tc := tc, tp := tp, last := t }
  if tp < b * 2 ^ 20 then (.red, q)
  else if tc < b * 2 ^ 20 then (.yellow, { q with tp := tp - b * 2 ^ 20 })
  else (.green, { q with tc := tc - b * 2 ^ 20, tp := tp - b * 2 ^ 20 })

/-- What the colour of a frame does to it (R291): pass, pass with a DSCP, or drop. -/
inductive Treat where
  | pass
  | remark (dscp : Nat)
  | drop
  deriving DecidableEq, Repr

/-- The treatment of a colour by a policer's PRS_POL_CTL (R291). -/
def treatment (ctl : Word) (c : Colour) : Treat :=
  match c with
  | .green => .pass
  | .yellow =>
    match (PRS_POL_CTL.yellow_act 0).read ctl with
    | 1 => .remark ((PRS_POL_CTL.yellow_dscp 0).read ctl)
    | 2 => .drop
    | _ => .pass
  | .red =>
    match (PRS_POL_CTL.red_act 0).read ctl with
    | 0 => .pass
    | 1 => .remark ((PRS_POL_CTL.red_dscp 0).read ctl)
    | _ => .drop

/-- Policer n of press k. -/
def policer (k n : Nat) (s : State) : Policer := mgetD {} n (press k s).policers

/-- The policer that meters frames in the DCLK cycle in progress: as it was before a commit of this cycle (R293). -/
def policerNow (k n : Nat) (s : State) : Policer := (mget n (press k s).polOld).getD (policer k n s)

/-- Sets policer n of press k. -/
def setPolicer (k n : Nat) (p : Policer) (s : State) : State :=
  modPress k (fun x => { x with policers := mputD {} n p x.policers }) s

/-- A policer has metered a frame. -/
def metered (k n : Nat) (p : Policer) (s : State) : State :=
  if (mget n (press k s).polOld).isSome then modPress k (fun x => { x with polOld := mput n p x.polOld }) s
  else setPolicer k n p s

/-- Meters a frame of size bytes (R290, R293, R294) and counts its colour. -/
def police (l : Look) (n size : Nat) (s : State) : Treat × State :=
  let p := policerNow l.k n s
  if (PRS_POL_CTL.en 0).read p.ctl = 0 then (.pass, l.count 0x37 s)
  else
    let b := size + (if (PRS_POL_CTL.count_ipg 0).read p.ctl = 0 then 0 else 20)
    let r := p.meter s.time.dclk b
    let code := match r.1 with | .green => 0x37 | .yellow => 0x38 | .red => 0x39
    (treatment p.ctl r.1, l.count code (metered l.k n r.2 s))

/-! ### Tunnels (R283 to R288) -/

/-- Removes the outermost tunnel, none when there is none that carries Ethernet (R283, R284). -/
def decapsulate (bs : Bytes) (ls : List Level) : Option (Bytes × List Level) :=
  match ls.find? fun v => v.tun.isSome with
  | none => none
  | some v =>
    match v.tun with
    | none => none
    | some t =>
      if !t.ether then none
      else
        let rest := (ls.dropWhile fun v => v.tun.isNone).drop 1
        some (bs.drop t.stop, shiftLevels 0 (-(Int.ofNat t.stop)) rest)

/-- The bytes over which the UDP source port of an encapsulation is computed (R288). -/
def entropyImage (cfg : PressCfg) (bs : Bytes) : Bytes :=
  let v := outer (parse cfg false bs).levels
  let ip := match v.ip with
    | none => []
    | some h =>
      let w := if h.v6 then 16 else 4
      beBytes w h.src ++ beBytes w h.dst ++ beBytes 1 h.proto
  let l4 := match v.l4 with
    | some h => if h.checked then beBytes 2 h.sport ++ beBytes 2 h.dport else []
    | none => []
  bs.take 12 ++ beBytes 2 v.etype ++ ip ++ l4

/-- The UDP source port of an encapsulation (R288). -/
def entropyPort (cfg : PressCfg) (bs : Bytes) : Nat :=
  0xC000 + crcRun (cvCode 1) 0xFFFFFFFF (entropyImage cfg bs) % 0x4000

/-- An encapsulation template's fields (R286). -/
structure Template where
  kind : Nat
  v6 : Bool
  hash : Bool
  len : Nat
  l3 : Nat
  hdr : Bytes
  deriving DecidableEq, Repr

/-- The template that an image spells. -/
def parseTemplate (b : Bytes) : Template :=
  let w := leAt 0 4 b
  { kind := bits w 31 28, v6 := bit w 27, hash := bit w 26, len := bits w 23 16, l3 := bits w 15 8,
    hdr := slice 0x10 (bits w 23 16) b }

/-- Whether a template's tunnel runs over UDP. -/
def Template.udp (t : Template) : Bool := t.kind == 1 || t.kind == 2

/-- The offset at which the header behind the outer IP header begins. -/
def Template.l4 (t : Template) : Nat := t.l3 + (if t.v6 then 40 else 4 * (beAt t.l3 1 t.hdr % 16))

/-- Encapsulates a frame (R288): id is the IPv4 identification, mode PRS_CSUM_CFG.outer_udp_mode. -/
def encapsulate (cfg : PressCfg) (t : Template) (id : Nat) (bs : Bytes) : Bytes :=
  let out := t.hdr ++ bs
  let out := if t.v6 then put16 (t.l3 + 4) (out.length - t.l3 - 40) out
    else put16 (t.l3 + 4) id (put16 (t.l3 + 2) (out.length - t.l3) out)
  let ip : IpHdr :=
    { v6 := t.v6, off := t.l3, hlen := t.l4 - t.l3, proto := 17,
      src := (if t.v6 then beAt (t.l3 + 8) 16 out else beAt (t.l3 + 12) 4 out),
      dst := (if t.v6 then beAt (t.l3 + 24) 16 out else beAt (t.l3 + 16) 4 out),
      dscp := 0, ecn := 0, ttl := 0, stop := out.length }
  let out := if t.v6 then out else fixIpv4 ip out
  if !t.udp then out
  else
    let out := put16 (t.l4 + 4) (out.length - t.l4) out
    let out := if t.hash then put16 t.l4 (entropyPort cfg bs) out else out
    let h : L4Hdr := { proto := 17, off := t.l4, hlen := 8, sport := 0, dport := 0 }
    if !t.v6 && (PRS_CSUM_CFG.outer_udp_mode 0).read cfg.csum == 0 then put16 h.csumOff 0 out else fixL4 ip h out

/-! ### One-step (R350, R351) -/

/-- The header levels that a level and those outside it give a one-step update. -/
def nestings (ls : List Level) : List Nesting :=
  ls.filterMap fun v => v.ip.map fun h =>
    ⟨h.off, h.v6, v.l4.bind fun u => if u.proto = 17 then some u.off else none⟩

/-- Whether the PTP message of a level stands directly behind its Ethernet header and VLAN tags (R350; DEDUCED: an
R-TAG is none of the tags meant, nor are SNAP or a custom header). -/
def Level.ptpDirect (v : Level) : Bool := v.ip.isNone && (v.eth.map fun o => o + 14 + 4 * v.tags.length) == v.ptp

/-- The one-step update of a frame that asks for one: possible when the parser found an event message whose header and
rewritten fields lie within the parse depth, in the frame as parsed, and within the frame (R350). -/
def oneStepOf (cfg : PressCfg) (ofChain : Bool) (bs : Bytes) (ls : List Level) : OneStep :=
  match ls.find? fun v => v.ptp.isSome with
  | none => .skip
  | some v =>
    match v.ptp with
    | none => .skip
    | some p =>
      let kind := beAt p 1 bs % 16
      let need := if ofChain then 44 else 34
      let carried := match v.l4 with | some h => h.dport == 319 | none => v.ptpDirect
      if carried && beAt (p + 1) 1 bs % 16 == 2 && (if ofChain then kind ≤ 2 else kind ≤ 3)
          && v.ptpAt + need ≤ cfg.depth && p + need ≤ bs.length then
        .rewrite p ofChain (nestings ls)
      else .skip

/-- A one-step update of a frame to which a template has put a header in front (R288). -/
def OneStep.encap (t : Template) (o : OneStep) : OneStep :=
  match o with
  | .rewrite p c ns =>
    .rewrite (p + t.len) c
      (⟨t.l3, t.v6, if t.udp then some t.l4 else none⟩ ::
        ns.map fun n => { n with ip := n.ip + t.len, udp := n.udp.map (· + t.len) })
  | o => o

end Sys2Proof.Machine
end

