-- ==== Sys2Proof/Machine/Work.lean ====
section
/-!
DEFINITION. Producer index reads and their check (R51), transmit descriptors and the acceptance of chains (R58 to R61),
receive buffer descriptors (R63), and the data of chains (R173, R115, R336, R339).
-/

namespace Sys2Proof.Machine

/-! ### Producer indices (R51, R55) -/

/-- A read of tx_prod of channel c returned p. -/
def txProdDone (c : Nat) (p : Word) (s : State) : State :=
  let ch := chan c s
  let t := ch.tx
  let size := 2 ^ ch.ctx.txLog2
  let s := setChan c { ch with tx := { t with idxOut := false } } s
  if size < used p t.done then fence c false 7 0 s
  else if size < used p t.prod then fence c false 8 0 s
  else
    let reads := if p = t.prod then t.reads else t.reads ++ [(p, t.start)]
    let s := setChan c { ch with tx := { t with idxOut := false, idxAgain := false, prod := p, reads := reads } } s
    fetchTx c (if t.idxAgain then readTxProd c t.startAgain s else s)

/-- A read of rx_prod of channel c returned p. -/
def rxProdDone (c : Nat) (p : Word) (s : State) : State :=
  let ch := chan c s
  let r := ch.rx
  let size := 2 ^ ch.ctx.rxLog2
  let s := setChan c { ch with rx := { r with idxOut := false } } s
  if size < used p r.done then fence c true 7 0 s
  else if size < used p r.prod then fence c true 8 0 s
  else
    let s := setChan c { ch with rx := { r with idxOut := false, idxAgain := false, prod := p } } s
    fetchRx c (if r.idxAgain then readRxProd c s else s)

/-- An index block or descriptor read of channel c met a fabric fault (R367). -/
def fetchFail (c : Nat) (rx : Bool) (s : State) : State := fence c rx 10 0 s

/-! ### Transmit descriptors (R58, R59) -/

/-- The transmit descriptor that 32 bytes spell. -/
def parseTxDesc (b : Bytes) : TxDesc :=
  let w := leAt 8 4 b
  { addr := BitVec.ofNat 64 (leAt 0 8 b), len := bits w 14 0
    vlanIns := bit w 26, cvEn := bit w 25, csumL4 := bit w 24, csumL3 := bit w 23, oneStep := bit w 22, tsReq := bit w 21
    last := bit w 20, first := bit w 19, tci := BitVec.ofNat 16 (leAt 0x0C 2 b), cvTag := BitVec.ofNat 64 (leAt 0x10 8 b)
    res0 := w &&& 0xF8078000 != 0 || leAt 0x0E 2 b != 0 || leAt 0x18 8 b != 0 }

/-- Whether a field that only a first descriptor may carry is not zero. -/
def TxDesc.firstOnly (d : TxDesc) : Bool :=
  d.vlanIns || d.cvEn || d.csumL4 || d.csumL3 || d.oneStep || d.tsReq || d.tci != 0 || d.cvTag != 0

/-- The first reason of R59 that makes descriptor d, fetched after the descriptors before, malformed. -/
def txDescReason (before : List TxDesc) (d : TxDesc) : Option Nat :=
  if d.len = 0 ∨ 16380 < d.len then some 1
  else if d.first != before.isEmpty then some 2
  else if d.res0 || (!d.first && d.firstOnly) then some 5
  else if before.length + 1 = 32 ∧ !d.last then some 3
  else if 16380 < (before.map (·.len)).sum + d.len then some 4
  else none

/-- When the read of tx_prod that covers the descriptors before index u was asked for (R467), and the reads still of
use. -/
def chainStart (u base : Word) : List (Word × Began) → Began × List (Word × Began)
  | [] => ({}, [])
  | (p, t) :: rest => if (u - base).toNat ≤ (p - base).toNat then (t, (p, t) :: rest) else chainStart u base rest

/-- The samples of an accepted chain, tagged while its descriptors were fetched, take its start and its length (R467,
R469). -/
def retag (c : Nat) (k : Chain) (s : State) : State :=
  let f := fun (t : Tag) =>
    if chainTag c k.first t then { t with startAt := k.start.at_, start := k.start.time, length := k.total + 4 } else t
  { s with pmu := { s.pmu with tags := s.pmu.tags.map f } }

/-- Accepts a chain, whole or as malformed: it becomes accepted work and tx_accepted passes its last descriptor
(R61, R92). -/
def acceptChain (c : Nat) (ds : List TxDesc) (stage : ChainStage) (s : State) : State :=
  let ch := chan c s
  let first := ch.tx.accepted
  let u := first + BitVec.ofNat 32 ds.length
  let st := chainStart u first ch.tx.reads
  let k : Chain := { first := first, count := ds.length, descs := ds, total := (ds.map (·.len)).sum, stage := stage,
                     start := st.1 }
  let s := setChan c { ch with tx := { ch.tx with
    accepted := u, partialDescs := [], chains := ch.tx.chains ++ [k], reads := st.2 } } s
  let s := retag c k (setPoints c { points c s with accepted := u } s)
  let s := if stage == .waiting then count .fabric 0x14 1 (chainAttr c k s) s else s
  markIndex c true s

/-- The attributes of the fetch of a chain's latest descriptor (R454, R455): its item is the chain that they begin. -/
def descAttr (c : Nat) (ds : List TxDesc) (s : State) : Attr :=
  let t := (chan c s).tx
  let u := t.accepted + BitVec.ofNat 32 ds.length
  chainAttr c { first := t.accepted, count := ds.length, descs := ds, total := (ds.map (·.len)).sum, stage := .waiting,
                start := (chainStart u t.accepted t.reads).1 } s

/-- A transmit descriptor of channel c was read: the chain is held, accepted, or completed as malformed. -/
def txDescDone (c : Nat) (b : Bytes) (s : State) : State :=
  let ch := chan c s
  let d := parseTxDesc b
  let ds := ch.tx.partialDescs ++ [d]
  let s := count .fabric 0x13 1 { descAttr c ds s with addr := some (ch.ctx.txAddr ch.tx.fetch).toNat } s
  let s := modTx c (fun x => { x with descOut := false, fetch := x.fetch + 1 }) s
  match txDescReason ch.tx.partialDescs d with
  | some r => advance c (fence c false r 0x40 (acceptChain c ds (.settling 0x40) s))
  | none =>
    if d.last then advance c (acceptChain c ds .waiting s)
    else fetchTx c (modTx c (fun x => { x with partialDescs := ds }) s)

/-! ### Receive buffer descriptors (R63) -/

/-- The receive buffer descriptor that 16 bytes spell. -/
def parseRxDesc (b : Bytes) : RxDesc :=
  let w := leAt 8 4 b
  let len := bits w 14 0
  { addr := BitVec.ofNat 64 (leAt 0 8 b), len := len
    bad := (if len < 64 ∨ 16384 < len ∨ len % 64 ≠ 0 then some 1
            else if w / 2 ^ 15 ≠ 0 ∨ leAt 0x0C 4 b ≠ 0 then some 5 else none) }

/-- A buffer descriptor of channel c was read; the item of the fetch is the frame for which it was made. -/
def rxDescDone (c : Nat) (b : Bytes) (s : State) : State :=
  let ch := chan c s
  let item := (ch.rx.queue.head?.bind fun r => frame r.frame s).bind fun f =>
    (ch.rx.queue.head?).map fun r => f.tag r.frame (f.press s)
  let s := count .fabric 0x13 1
    { chanAttr c s with addr := some (ch.ctx.rxAddr ch.rx.fetch).toNat, item := item } s
  fetchRx c (modRx c (fun x => { x with descOut := false, fetch := x.fetch + 1, descs := x.descs ++ [parseRxDesc b] }) s)

/-! ### Chain data (R173, R115, R339) -/

/-- A check-value mismatch (R339, R421); bad says that the self-check finds one copy wrong. -/
def cvMismatch (rx bad : Bool) (s : State) : State :=
  let s := fset CVU_STAT.mismatch_seen 1 (postError 2 (if bad then 6 else 12) 0x0A (b2n rx) 0 s)
  if bad then
    { s with cvTest := if rx then { s.cvTest with rxAlone := true } else { s.cvTest with txAlone := true } }
  else s

/-- What the duplicate computation does to an item that a unit covers: the state, and whether the item may go on
(R339). A unit that runs on one copy finds no mismatch. -/
def cvOutcome (rx covered : Bool) (v : CvCheck) (s : State) : State × Bool :=
  let alone := if rx then s.cvTest.rxAlone else s.cvTest.txAlone
  if !covered || alone then (s, true)
  else
    match v with
    | .agree => (s, true)
    | .mismatch bad => (cvMismatch rx bad s, true)
    | .mismatchTwice bad => (cvMismatch rx bad (cvMismatch rx false s), false)

/-- Whether the transmit unit covers a chain of channel c (R325). -/
def chainCovered (c : Nat) (k : Chain) (s : State) : Bool := k.head.cvEn && (chan c s).ctx.conf.txEn

/-- Whether a press has decided a chain: it keeps its decision, and its launch, when its data is read again (R171). -/
def Chain.placed (k : Chain) : Bool := k.stage == .decided || k.stage == .launched

/-- A chain is read again from memory, its descriptors first (R115). -/
def rereadChain (c : Nat) (k : Chain) (s : State) : State :=
  let s := discardReqs (·.isDataOf c k.first) (forgetCopies c k.first s)
  let s := modChain c k.first (fun k => { k with
    stage := (if k.placed then k.stage else .reading), frags := [], data := [], again := List.replicate k.count none }) s
  rereadDescs c (chan c s).ctx k.first 0 k.count s

/-- A descriptor of a chain that is read again has come; after the last the data is read (R115). R48 forbids a change of
these descriptors, so the chain keeps its length and its number of descriptors. -/
def chainDescDone (c : Nat) (first : Word) (i : Nat) (b : Bytes) (s : State) : State :=
  match chainOf c first s with
  | none => s
  | some k =>
    let s := count .fabric 0x13 1 { chainAttr c k s with addr := some ((chan c s).ctx.txAddr (first + BitVec.ofNat 32 i)).toNat } s
    let again := setNth i (some (parseTxDesc b)) k.again
    if again.all (·.isSome) then
      let k := { k with descs := again.filterMap id, again := [] }
      let s := readChain c k (modChain c first (fun _ => k) s)
      if k.placed then modChain c first (fun j => { j with stage := k.stage }) s else s
    else modChain c first (fun k => { k with again := again }) s

/-- Whether all of a chain's data has been read. -/
def Chain.complete (k : Chain) : Bool := !k.frags.isEmpty && k.frags.all (·.data.isSome)

/-- A chain's data is all in the transmit region: its header copy goes to the press of its home row. -/
def chainStaged (c : Nat) (k : Chain) (s : State) : State :=
  let bs := k.frags.flatMap fun f => f.data.getD []
  if k.placed then modChain c k.first (fun k => { k with data := bs }) s
  else
    enqueueCopy false (chan c s).ctx.homeRow c (.chain c k.first)
      (modChain c k.first (fun k => { k with data := bs, stage := .staged }) s)

/-- Data of a chain arrived (R173). v is the outcome of the check-value units on the last piece. -/
def txDataDone (c : Nat) (first : Word) (i : Nat) (b : Bytes) (v : CvCheck) (s : State) : State :=
  match chainOf c first s with
  | none => s
  | some k =>
    match k.frags[i]? with
    | none => s
    | some f =>
      let k := { k with frags := setNth i { f with data := some b } k.frags }
      let s := modChain c first (fun _ => k) s
      if k.complete then
        let r := cvOutcome false (chainCovered c k s) v s
        if r.2 then chainStaged c k r.1 else rereadChain c k r.1
      else s

end Sys2Proof.Machine
end

