-- ==== Sys2Proof/Machine/Launch.lean ====
section
/-!
DEFINITION. The launch of a chain (R22, R23, R94, R95, R335, R336) and its sent point with the completion (R92, R331,
R332).
-/

namespace Sys2Proof.Machine

/-! ### May a chain launch (R94, R95, R105, R335) -/

/-- What the transmit unit makes of a chain from the committed state of its channel (R325, R326, R337). -/
def chainCover (c : Nat) (k : Chain) (s : State) : Cover :=
  let ch := chan c s
  let x := ch.ctx.conf
  if chainCovered c k s then cover x (if x.txTagDesc then some k.head.cvTag else none) ch.tx.cv k.data
  else ⟨ch.tx.cv, true, []⟩

/-- Log slots that a chain needs: one for each block that ends in it (R335). -/
def chainLogNeed (c : Nat) (k : Chain) (s : State) : Nat :=
  if (chan c s).ctx.conf.logEn then (chainCover c k s).blocks.length else 0

/-- Whether a place for the completion entry of chain k of channel c can be reserved now (R95). -/
def placeReady (c : Nat) (k : Chain) (s : State) : Bool :=
  !(ring (chan c s).ctx.cring s).full || (reread c false k.first.toNat s && poolRoom s)

/-- Whether chain k of channel c is next to launch and wholly staged: the sent point of every earlier chain is recorded
(R94), and no drain has stopped launching (R105). -/
def launchNext (c : Nat) (k : Chain) (s : State) : Bool :=
  s.power.drain.isNone && k.stage == .decided && k.tested && k.complete
    && ((chan c s).tx.chains.head?.map (·.first)) == some k.first

/-- Whether a place and the log slots of chain k are free. -/
def slotsReady (c : Nat) (k : Chain) (s : State) : Bool :=
  placeReady c k s && chainLogNeed c k s ≤ (chan c s).log.free (chan c s).ctx.logLog2

/-- Asks for the place and log slots that chain k lacks: cons_index and cons are read again (R73, R335). -/
def askSlots (c : Nat) (k : Chain) (s : State) : State :=
  let s := if placeReady c k s then s else (reservePlace (chan c s).ctx.cring c false k.first.toNat s).2
  if chainLogNeed c k s ≤ (chan c s).log.free (chan c s).ctx.logLog2 then s
  else (reserveLog c false k.first.toNat (chainLogNeed c k s) s).2

/-- The index after a chain's last descriptor. -/
def Chain.stop (k : Chain) : Word := k.first + BitVec.ofNat 32 k.count

/-- The channel copies of a launching chain enter their queues (R23). -/
def enterChans (c : Nat) (k : Chain) (s : State) : State :=
  k.dests.foldl (fun s x =>
    queueFrame x.chan (ownerPress (chan c s).ctx.homeRow s)
      { frame := k.frame.getD 0, kind := x.kind, bytes := x.bytes, tc := x.tc, l3err := false, l4err := false,
        held := false, vlan := x.vlan } s) s

/-- Chain k of channel c launches: place and log slots are reserved, the check-value state is committed with the launched
point (R97, R336), and its channel copies enter their queues. The next head chain meets its gate test, and the next chain
may be staged (R173). -/
def launch (c : Nat) (k : Chain) (s : State) : State :=
  let cv := chainCover c k s
  let n := chainLogNeed c k s
  let r := reservePlace (chan c s).ctx.cring c false k.first.toNat s
  let q := (reserveLog c false k.first.toNat n r.2).2
  let s := modChain c k.first (fun k => { k with
    stage := .launched, place := r.1, logSlots := n, cvBlocks := cv.blocks, dests := [] }) q
  let s := modTx c (fun t => { t with cv := cv.cv }) s
  let s := setPoints c { points c s with launched := k.stop } s
  enqueueStage c (headFit c (enterChans c k s))

/-! ### The sent point (R22, R92, R349) -/

/-- Whether copy a crossed the row interface before copy b, the anchor row's copy or the lower port first on a tie
(R349). -/
def TxCopy.before (s : State) (a b : TxCopy) : Bool :=
  let anchored := fun (x : TxCopy) => ((pairOfPort x.port s).map (·.main)) == some x.port
  a.crossed < b.crossed
    || (a.crossed == b.crossed && ((anchored a && !anchored b) || (anchored a == anchored b && a.port ≤ b.port)))

/-- The copy of a chain that crossed first. -/
def firstCrossed (s : State) : List TxCopy → Option TxCopy
  | [] => none
  | x :: xs =>
    match firstCrossed s xs with
    | none => if x.stamp.isSome then some x else none
    | some y => if x.stamp.isSome && x.before s y then some x else some y

/-- The last byte of chain k of channel c has left every row: the sent point, the completion entry and the log records
(R92, R331, R332, R349). -/
def sent (c : Nat) (k : Chain) (s : State) : State :=
  let ts := if k.head.tsReq then (firstCrossed s k.copies).bind (·.stamp) else none
  let e := chainEntry c k 0x00 ts k.cvBlocks s
  let n := (chan c s).ctx.cring
  let s := removeChain c k s
  let s := setPoints c { points c s with sent := k.stop } s
  let s := commit n k.place e k.stop (finTags (chainTag c k.first) n e k.stop s)
  writeLogs c false k.logSlots k.cvBlocks s

/-- Whether a copy still has to leave its row. -/
def TxCopy.open_ (x : TxCopy) : Bool := x.phase == .queued || x.phase == .started

/-- The head chain of channel c launches into channels when it goes to no port (R23); fuel bounds the number. -/
def launchToChans (c : Nat) : Nat → State → State
  | 0, s => s
  | n + 1, s =>
    match (chan c s).tx.chains with
    | [] => s
    | k :: _ =>
      if !launchNext c k s || k.copies.any TxCopy.open_ then s
      else if !slotsReady c k s then askSlots c k s
      else
        let s := launch c k s
        match chainOf c k.first s with
        | none => s
        | some k => launchToChans c n (settleHeads c (chan c s).tx.chains.length (sent c k s))

/-- Everything of channel c that can go on without a port. -/
def progress (c : Nat) (s : State) : State :=
  let s := advance c s
  let n := (chan c s).tx.chains.length
  advance c (launchToChans c n s)

end Sys2Proof.Machine
end

