-- ==== Sys2Proof/Machine/Unit.lean ====
section
/-!
DEFINITION. Unit errors and what they call for (spec/14): the start of a drain (R105) and of a block soft reset (R394,
R395, R397), requests for a racking and its abort (R424, R425, R429), escalation (R419, R423) and isolation (R422).
-/

namespace Sys2Proof.Machine

/-! ### The start of a drain (R105) -/

/-- Steps 1, 4 and 5 as far as they happen at the start of a drain: partial chains and the reads that feed chains that
will not launch are given up, no chain waits for cells, cons_index of each stalled ring is read again, and channels with
nothing in flight write their check-value state back. -/
def startDrain (cause : DrainCause) (s : State) : State :=
  let s := { s with power := { s.power with drain := some cause }, aux := { s.aux with drainBusy := true }
                    cellar := { s.cellar with txWaiting := [] } }
  let s := s.chans.foldl (fun s e => discardFetches e.1 s) s
  let unlaunched := fun (r : Req) => match r.purpose with
    | .txData c f _ | .chainDesc c f _ => ((chainOf c f s).map fun k => k.stage != .launched).getD true
    | _ => false
  let s := discardReqs unlaunched s
  let s := s.rings.foldl (fun s e => if e.2.stalled then readCons e.1 s else s) s
  s.chans.foldl (fun s e => stopCheck e.1 s) s

/-! ### Racking requests (R424, R425, R429) -/

/-- Whether a row is being enabled or disabled. -/
def rowsChanging (s : State) : Bool := s.rows.any fun r => r.2.state == 1 || r.2.state == 3

/-- The reserve press (GLB_PRESS_MAP). -/
def reservePress (s : State) : Nat := fget GLB_PRESS_MAP.reserve s

/-- Whether a press owns rows. -/
def isActive (k : Nat) (s : State) : Bool :=
  fget GLB_PRESS_MAP.group0 s == k || fget GLB_PRESS_MAP.group1 s == k
    || fget GLB_PRESS_MAP.group2 s == k || fget GLB_PRESS_MAP.group3 s == k

/-- The reason for which a racking of a source press is refused (R424). -/
def rackRefusal (source : Nat) (s : State) : Option Nat :=
  if !isActive source s || s.racking.isolated.toNat.testBit (reservePress s) then some 1
  else if s.racking.state != 0 then some 2
  else if rowsChanging s || s.power.dorm != 0 || s.power.drain.isSome || s.power.resetBusy then some 3
  else none

/-- Requests a racking with a cause (R424); the answer says whether PREPARE began (R425). -/
def requestRack (source cause : Nat) (s : State) : State × Bool :=
  match rackRefusal source s with
  | some r => ({ s with racking := { s.racking with result := 2, abort := r } }, false)
  | none =>
    (raiseSource 5 (applyDivs
      { s with racking := { s.racking with state := 1, source := source, target := reservePress s,
                                           cause := cause, isolateAfter := cause != 0, code := 0x0F } }), true)

/-- Whether the unit action of press k, a racking away from it, is in progress (R420, R422). -/
def unitActs (k : Nat) (s : State) : Bool := s.racking.state != 0 && s.racking.source == k

/-- The unit action of press k is over: the lookups that a word of its tables has stopped are repeated, at the press that
owns their row now (R224). -/
def repeatLookups (k : Nat) (s : State) : State :=
  s.chans.foldl (fun s e => e.2.tx.chains.foldl (fun s x =>
    if x.stage = .unitWait k then
      enqueueCopy false e.2.ctx.homeRow e.1 (.chain e.1 x.first) (modChain e.1 x.first (fun y => { y with stage := .staged }) s)
    else s) s) s

/-- Aborts a racking in PREPARE with a reason. -/
def abortRacking (reason : Nat) (s : State) : State :=
  repeatLookups s.racking.source
    (raiseSource 5 (applyDivs { s with racking := { s.racking with state := 0, result := 2, abort := reason } }))

/-! ### Block soft reset and escalation (R394 to R397, R419, R423, R429) -/

/-- A block soft reset starts: reset_busy sets and the drain starts, unless the power-fail warning has started one. A
racking in PREPARE is aborted first, and one in CUTOVER ends first: a reset by escalation that waits for it stays one
(R423). -/
def startSoftReset (escalated : Bool) (s : State) : State :=
  match s.racking.state with
  | 2 => { s with power := { s.power with resetAfterRack := some (escalated || s.power.resetAfterRack.getD false) } }
  | n =>
    let s := if n = 1 then abortRacking 3 s else s
    let s := { s with power := { s.power with resetBusy := true } }
    if s.power.drain = some .powerFail then s else startDrain (.softReset escalated) s

/-- Whether the hold after the last escalated soft reset is in force (R423). -/
def inHold (s : State) : Bool :=
  match s.power.escalatedAt with
  | none => false
  | some t => s.time.dclk < t + fget GLB_ESCALATE_CFG.hold_s s * 1600000000

/-- A tier 2 action of the error with a code and unit was refused or failed (R419): the error's record is posted with the
tier 3 action, when that is taken, or as report only. -/
def escalate (code unit : Nat) (s : State) : State :=
  if !fbit GLB_ESCALATE_CFG.reset_en s || inHold s then postError 2 12 code unit 0 s
  else if s.power.resetBusy || s.power.resetAfterRack.isSome then postError 3 11 code unit 0 s
  else if s.power.dorm != 0 then
    postError 2 12 code unit 0 (fset GLB_STATUS.reset_refused 1 s)
  else
    let s := postError 3 11 code unit 0 s
    startSoftReset true { s with power := { s.power with escalation := some (code, unit) } }

/-- Sets a press's bit in GLB_RACK_STAT.isolated. -/
def setIsolated (k : Nat) (on : Bool) (s : State) : State :=
  { s with racking := { s.racking with isolated := BitVec.ofNat 8 (setBit s.racking.isolated.toNat k on) } }

/-- An uncorrectable error of press k with a code (R420, R422): the press is racked when rack_on_fault is 1. A press that
takes part in a racking, whatever caused it, is isolated: the target at once, the source when the racking ends (R428). -/
def pressError (code k : Nat) (s : State) : State :=
  let r := s.racking
  if r.state != 0 && r.target == k then
    let s := setIsolated k true (postError 2 6 code k 0 s)
    if r.state == 1 then abortRacking 6 s else s
  else if r.state != 0 && r.source == k then
    modPress k (fun p => { p with stopped := true })
      { postError 2 6 code k 0 s with racking := { r with isolateAfter := true } }
  else if !fbit GLB_ESCALATE_CFG.rack_on_fault s then postError 2 12 code k 0 s
  else
    let q := requestRack k 2 s
    if q.2 then postError 2 5 code k 0 { q.1 with racking := { q.1.racking with code := code } }
    else escalate code k q.1

end Sys2Proof.Machine
end

