-- ==== Sys2Proof/Machine/Press.lean ====
section
/-!
DEFINITION. A press at work: the decision for a header copy (step 5 of "The block in one pass"), retiring in stream
order (R197), results, timeouts and lanes (R199 to R201), and the commands that write the policer window (R293).
-/

namespace Sys2Proof.Machine

/-! ### Destinations of a decision (R228, R120) -/

/-- The ports and channels that a destination names. A flood leaves out the arrival port, and the port that is its
twin. -/
def resolve (k : Nat) (d : Dest) (s : State) : List Nat × List Nat :=
  let r := replicaSeen k s
  match d with
  | .port g => ([g], [])
  | .chan c => ([], [c])
  | .group n => (groupPorts n r, (groupChans n r).eraseDups)
  | .flood n x =>
    let gone := match pairOfPort x s with
      | some p => [p.main, p.other]
      | none => [x]
    ((groupPorts n r).filter fun g => !gone.contains g, (groupChans n r).eraseDups)
  | _ => ([], [])

/-- The mirror copies that an action asks for (R281): with the priority's class, and the frame as it is. -/
def mirrorCopies (l : Look) (act : ClsAction) (tc : Nat) (bs : Bytes) (unmodified : Bool) (s : State) :
    List PortDest × List ChanDest :=
  match act.mirror.bind (mirrorDest l.cfg) with
  | none => ([], [])
  | some d =>
    let r := resolve l.k d s
    (r.1.map fun g => { port := g, tc := tc, bytes := bs, unmodified := unmodified, oneStep := .off, mirror := true },
     r.2.map fun c => { chan := c, kind := .mirror, tc := tc, bytes := bs })

/-! ### Steps 3 to 7 of R278 -/

/-- A frame on its way through the steps of R278. -/
structure Shaped where
  bs : Bytes
  levels : List Level
  dest : Dest
  dropped : Bool
  encap : Nat
  oneStep : OneStep

/-- Step 6: decapsulation. -/
def stepDecap (l : Look) (act : ClsAction) (f : Shaped) (s : State) : Shaped × State :=
  if !act.decap then (f, s)
  else
    match decapsulate f.bs f.levels with
    | none => (f, l.count 0x3B s)
    | some r => ({ f with bs := r.1, levels := r.2 }, s)

/-- Step 6: encapsulation with the template that this cycle sees (R296). An entry that no command has written adds
nothing. -/
def stepEncap (l : Look) (act : ClsAction) (f : Shaped) (s : State) : Shaped × State :=
  match act.encap with
  | none => (f, s)
  | some n =>
    let t := parseTemplate (mgetD [] n (replicaSeen l.k s).templates)
    if t.kind = 0 then (f, s)
    else
      let id := (press l.k s).ipId
      let s := if t.v6 then s else modPress l.k (fun p => { p with ipId := id + 1 }) s
      ({ f with bs := encapsulate l.cfg t id.toNat f.bs, encap := t.len, oneStep := f.oneStep.encap t }, s)

/-- The levels outside the key level. -/
def outsideKey (l : Look) (ls : List Level) : List Level :=
  if (PRS_CLS_CFG.key_level 0).read l.cfg.cls = 0 then [] else ls.dropLast

/-- Steps 3 to 7 for a frame that stays on the fast path. oneStep says that one-step is asked for. -/
def shapeFrame (l : Look) (act : ClsAction) (oneStep : Bool) (f : Shaped) (s : State) : Shaped × State :=
  let p := match act.police with
    | some n => police l n (f.bs.length + 4) s
    | none => (.pass, s)
  if p.1 = .drop then ({ f with dropped := true }, p.2)
  else
    let dest := if act.verdict = 1 then act.dest else f.dest
    let dscp := match p.1 with | .remark d => some d | _ => act.dscp
    let bs := match dscp with
      | some d => setDscp (outsideKey l f.levels) (keyLevel l f.levels) d f.bs
      | none => f.bs
    let r := stepDecap l act { f with bs := bs, dest := dest } p.2
    let os := if oneStep then oneStepOf l.cfg (!l.rx) r.1.bs r.1.levels else .off
    stepEncap l act { r.1 with oneStep := os } r.2

/-! ### Slow-path reasons of the parser (R214 to R216) -/

/-- Counts the reasons met in order up to the first that decides, and gives that one with its disposition. -/
def parserReason (l : Look) : List Nat → State → Option (Nat × Nat) × State
  | [], s => (none, s)
  | r :: rest, s =>
    let s := l.count (0x10 + r) s
    match disposition l.cfg r with
    | 1 => parserReason l rest s
    | d => (some (r, d), s)

/-- Counts every reason that a chain meets. -/
def countReasons (l : Look) (rs : List Nat) (s : State) : State := rs.foldl (fun s r => l.count (0x10 + r) s) s

/-- Whether a forwarded reason leaves a frame no L4 fields (R215, R273). -/
def noL4Reason (r : Nat) : Bool := r == 1 || r == 3 || r == 6 || r == 8

/-- Adds n to an event of the frame's press. -/
def Look.countBy (l : Look) (code n : Nat) (s : State) : State :=
  if n = 0 then s else Machine.count (.press l.k) code n l.attr s

/-! ### Received frames -/

/-- With drop_bad, a frame with a checksum error and no channel destination is discarded (R210). -/
def dropBad (l : Look) (d : Decision) (s : State) : Decision × State :=
  if (d.l3err || d.l4err) && (PRS_CSUM_CFG.drop_bad 0).read l.cfg.csum != 0 && d.chans.isEmpty then
    ({ d with ports := [], slow := none, away := false }, l.count 0x23 s)
  else (d, s)

/-- A slow-path frame: it goes to the exception channel or to the cellarmaster, as PRS_CFG says when it is decided (R217,
R220). -/
def toSlow (l : Look) (f : Frame) (reason : Nat) (bs : Bytes) (d : Decision) (s : State) : Decision × State :=
  if slowToHost l.k reason s then
    ({ d with chans := d.chans ++ [⟨fget (PRS_CFG.exc_channel l.k) s, .slow reason, f.prio, bs, none⟩] }, s)
  else dropBad l { d with slow := some (reason, bs) } s

/-- The outer tag that the lookups took off a frame whose levels were old and now are new (R228 step 6). -/
def strippedTag (old new : List Level) : Option Nat :=
  if (outer new).tags.length < (outer old).tags.length then ((outer old).tags.head?).map (·.tci) else none

/-- The channel copies of a decision report the tag that was taken off their frame (R69; DESIGN CHOICE, log entry 23). -/
def Decision.report (t : Option Nat) (d : Decision) : Decision :=
  { d with chans := d.chans.map fun x => { x with vlan := t } }

/-- What classification and the steps after it make of a received frame that the lookups sent to dest (R271, R278). -/
def classifyRx (l : Look) (f : Frame) (l3 l4 : Bool) (fd : Nat) (dest : Dest) (bs : Bytes) (ls : List Level)
    (s : State) : Decision × State :=
  let whole := fun (x : Bytes) => if x = stripFcs f.bytes then f.bytes else withFcs x
  let act := clsAction l fd bs ls s
  let m := mirrorCopies l act f.prio (whole bs) (whole bs == f.bytes) s
  let d : Decision := { ports := m.1, chans := m.2, l3err := l3, l4err := l4 }
  match act.verdict with
  | 2 => (d, l.count 0x34 s)
  | 3 => toSlow l f 9 (whole bs) d (l.count 0x19 s)
  | _ =>
    let r := shapeFrame l act act.oneStep ⟨bs, ls, dest, false, 0, .off⟩ s
    let x := r.1
    let s := r.2
    if x.dropped then (d, l.count 0x36 s)
    else if act.verdict == 1 && x.dest == .drop then (d, l.count 0x34 s)
    else
      match x.dest with
      | .drop => (d, l.count 0x28 s)
      | .toClass => (d, l.count 0x2D s)
      | away =>
        let q := resolve l.k away s
        let out := whole x.bs
        let tc := act.tc.getD f.prio
        let d := { d with
          away := true
          ports := d.ports ++ q.1.map fun g =>
            { port := g, tc := tc, bytes := out, unmodified := out == f.bytes, oneStep := x.oneStep }
          chans := d.chans ++ q.2.map fun c => { chan := c, kind := .normal, tc := tc, bytes := out } }
        dropBad l d s

/-- What press k decides for received frame f. -/
def decideRx (k : Nat) (cfg : PressCfg) (id : Nat) (f : Frame) (s : State) : Decision × State :=
  let bs := stripFcs f.bytes
  let p := parse cfg ((fget MGT_INBAND_CFG.row_en s).testBit (f.port.getD 0 / 8)) bs
  let reasons := p.reasons.eraseDups
  let l : Look :=
    { k := k, cfg := cfg, rx := true, attr := frameAttr id f s, src := f.keyPort, vid := f.vid, pcp := f.prio,
      tagged := true, ucMark := f.ucMark, bs := bs, levels := p.levels,
      noL4 := reasons.any noL4Reason }
  let c := verifyCsums cfg p bs
  let s := l.countBy 0x22 c.skipped s
  let d : Decision := { l3err := c.l3err, l4err := c.l4err }
  match parserReason l reasons s with
  | (some (r, 2), s) => let _ := r; (d, s)
  | (some (r, _), s) => toSlow l f r f.bytes d s
  | (none, s) =>
    if p.drop then (d, l.count 0x21 s)
    else
      match lookup l s with
      | (.discard, s) => (d, s)
      | (.slow r, s) => toSlow l f r f.bytes d s
      | (.to fd dest bs ls, s) =>
        let r := classifyRx l f c.l3err c.l4err fd dest bs ls s
        (r.1.report (strippedTag p.levels ls), r.2)

/-! ### Chains (R23, R24, R216, R229, R279) -/

/-- A chain's frame with the tag of vlan_ins (R58, R62). -/
def taggedBytes (k : Chain) : Bytes :=
  if k.head.vlanIns then k.data.take 12 ++ beBytes 2 0x8100 ++ beBytes 2 k.head.tci.toNat ++ k.data.drop 12 else k.data

/-- What classification and the steps after it make of a chain. -/
def classifyTx (l : Look) (c : Nat) (k : Chain) (fd : Nat) (dest : Dest) (bs : Bytes) (ls : List Level)
    (s : State) : Decision × State :=
  let act := clsAction l fd bs ls s
  let m := mirrorCopies l act l.pcp bs false s
  let d : Decision := { ports := m.1, chans := m.2 }
  let no : Decision := { d with status := some 0x11 }
  match act.verdict with
  | 2 => (no, s)
  | 3 => (no, l.count 0x35 s)
  | _ =>
    let r := shapeFrame l act k.head.oneStep ⟨bs, ls, dest, false, 0, .off⟩ s
    let x := r.1
    let s := r.2
    if x.dropped || (act.verdict == 1 && x.dest == .drop) then (no, s)
    else
      match x.dest with
      | .drop => (no, l.count 0x28 s)
      | .toClass => (no, l.count 0x2D s)
      | away =>
        let q := resolve l.k away s
        let tc := (chan c s).ctx.tc
        ({ d with
            encap := x.encap
            ports := d.ports ++ q.1.map fun g =>
              { port := g, tc := tc, bytes := x.bs, unmodified := false, oneStep := x.oneStep }
            chans := d.chans ++ q.2.map fun n => { chan := n, kind := .fromChannel, tc := tc, bytes := withFcs x.bs } }, s)

/-- What press p decides for chain k of channel c. -/
def decideTx (p : Nat) (cfg : PressCfg) (c : Nat) (k : Chain) (s : State) : Decision × State :=
  let bs0 := taggedBytes k
  let q := parse cfg false bs0
  let reasons := q.reasons.eraseDups
  let i := insertCsums cfg k.head.csumL3 k.head.csumL4 q bs0
  let tci := (((outer q.levels).tags.head?).map (·.tci)).getD 0
  let l : Look :=
    { k := p, cfg := cfg, rx := false, attr := chainAttr c k s, src := c, vid := tci % 2 ^ 12, pcp := tci / 2 ^ 13,
      tagged := !(outer q.levels).tags.isEmpty, ucMark := false, bs := i.1, levels := q.levels,
      noL4 := reasons.any noL4Reason }
  let s := countReasons l reasons (l.countBy 0x24 i.2 s)
  if q.drop then ({ status := some 0x11 }, l.count 0x21 s)
  else
    match lookup l s with
    | (.to fd dest bs ls, s) =>
      let r := classifyTx l c k fd dest bs ls s
      (r.1.report (strippedTag q.levels ls), r.2)
    | (_, s) => ({ status := some 0x11 }, s)

/-! ### Results and retiring (R197, R198) -/

/-- What a table word read wrong does, before the decision of press k: a corrected word counts (R420), one that cannot be
corrected posts a unit entry (R224). -/
def tableWord (k : Nat) (tbl : TableRead) (s : State) : State :=
  match tbl with
  | .clean => s
  | .corrected => corrected k s
  | .uncorrectable => pressError 0x03 k s

/-- The decision for a header copy. A table word that cannot be corrected discards a frame, and leaves a chain to be
looked up again (R224); a word of the header copy that cannot be read discards a frame, and has the chain's data read
again (R171). -/
def decideCopy (k : Nat) (c : Copy) (tbl : TableRead) (cell : CellarRead) (s : State) : Decision × State :=
  match c.item with
  | .gone => ({}, s)
  | .frame id =>
    match frame id s with
    | none => ({}, s)
    | some f =>
      let q := readCells cell s
      if !q.2 then ({}, count .cellar 0x06 1 (frameAttr id f q.1) q.1)
      else if tbl = .uncorrectable then ({}, tableWord k tbl (count (.press k) 0x27 1 (frameAttr id f q.1) q.1))
      else decideRx k c.cfg id f (tableWord k tbl q.1)
  | .chain ch first =>
    match chainOf ch first s with
    | none => ({}, s)
    | some x =>
      let q := readCells cell s
      if !q.2 then ({}, rereadChain ch x q.1)
      else if tbl = .uncorrectable then ({ again := true }, tableWord k tbl q.1)
      else decideTx k c.cfg ch x (tableWord k tbl q.1)

/-- Carries out the decision of a copy that retires. A chain whose lookups are to be repeated waits for the unit action of
its press, when one is in progress (R224). -/
def retireItem (k : Nat) (c : Copy) (d : Decision) (s : State) : State :=
  match c.item with
  | .gone => s
  | .frame id => frameDecided id k d s
  | .chain ch first =>
    match chainOf ch first s with
    | none => s
    | some x =>
      if d.again && unitActs k s then modChain ch first (fun x => { x with stage := .unitWait k }) s
      else if d.again then enqueueCopy false c.row ch c.item (modChain ch first (fun x => { x with stage := .staged }) s)
      else progress ch (chainDecided ch k x d d.encap s)

/-- The first copy of the window that is ready and has no earlier copy of its stream before it (R197). -/
def nextRetired : List (Bool × Nat) → List Copy → Option Copy
  | _, [] => none
  | seen, c :: rest =>
    if seen.contains (c.rx, c.row) then nextRetired seen rest
    else if c.ready.isSome then some c
    else nextRetired ((c.rx, c.row) :: seen) rest

/-- Retires what may retire, in sequence-number order; fuel bounds the number. -/
def retireCopies (k : Nat) : Nat → State → State
  | 0, s => s
  | n + 1, s =>
    match nextRetired [] (press k s).window with
    | none => s
    | some c =>
      let s := modPress k (fun p => { p with
        window := p.window.filter fun x => x.seq != c.seq, retired := p.retired + 1
        full := p.full || 256 ≤ p.window.length }) s
      retireCopies k n (retireItem k c (c.ready.getD {}) s)

/-- Retires the results that may retire, up to 8 in a DCLK cycle (R197). -/
def retire (k : Nat) (s : State) : State := retireCopies k (8 - (press k s).retired) s

/-- A DCLK cycle begins at press k: what the cycle before left waiting retires (R197), a policer committed in that cycle
meters from now on with its new values (R293), and registers written in it are in force (R220). -/
def retireCycle (k : Nat) (s : State) : State :=
  retire k (modPress k (fun p => { p with retired := 0, full := false, polOld := [], cfgOld := none }) s)

/-- The state after what a command did is carried through: a MAC control frame that is ready wakes its port (R157),
and what waits is issued (R360). -/
def settle (s : State) : State := pump (wakeDue s)

/-! ### DEAL_HEADER_COPIES (R195, R196, R198) -/

/-- DEAL_HEADER_COPIES: at an edge of the press's clock, up to 8 waiting copies are dealt. -/
def execDealHeaderCopies (k : Fin 5) (s : State) : Host.Outcome State Fault Refusal :=
  if live s && pressEdge k.val s then .next (settle (dealCopies k.val 8 s)) else .next s

/-! ### LANE_RESULT (R197) -/

/-- The longest latency is noted (PRS_LANE_STAT.max_latency). -/
def noteLatency (k latency : Nat) (s : State) : State :=
  fset (PRS_LANE_STAT.max_latency k) (max (fget (PRS_LANE_STAT.max_latency k) s) (min latency 0x3F)) s

/-- Takes a lane's result: it decides its copy, or is discarded as late. -/
def takeResult (k q lane latency : Nat) (tbl : TableRead) (cell : CellarRead) (s : State) : State :=
  match (press k s).window.find? fun c => c.seq == q && c.lane == lane && c.ready.isNone with
  | some c =>
    let r := decideCopy k c tbl cell (noteLatency k latency s)
    modCopy k q (fun c => { c with ready := some r.1 }) r.2
  | none => lateResult k q lane s

/-- A result of press k that another command brings in the same DCLK cycle, with a sequence number below q. -/
def earlierResult (k q : Nat) : Sys2Proof.Instr → Option (Nat × Nat × Nat × TableRead × CellarRead)
  | .laneResult p n lane latency tbl cell =>
    if p.val = k ∧ n < q then some (n, lane.toNat, latency.toNat, tbl, cell) else none
  | _ => none

/-- The results that wait in the queue, so that they fall in the same DCLK cycle, and come before q in sequence-number
order; inserted in that order. -/
def earlierResults (k q : Nat) (s : State) : List (Nat × Nat × Nat × TableRead × CellarRead) :=
  let put := fun (l : List (Nat × Nat × Nat × TableRead × CellarRead)) x =>
    l.takeWhile (fun y => y.1 ≤ x.1) ++ [x] ++ l.dropWhile (fun y => y.1 ≤ x.1)
  (s.pending.filterMap (earlierResult k q)).foldl put []

/-- A lane's result, after those of the same DCLK cycle with lower sequence numbers, which are taken with it so that
policers meter in that order (R292); their own commands then find their copies decided. What may retire retires. -/
def laneDone (k q lane latency : Nat) (tbl : TableRead) (cell : CellarRead) (s : State) : State :=
  let s := (earlierResults k q s).foldl (fun s x => takeResult k x.1 x.2.1 x.2.2.1 x.2.2.2.1 x.2.2.2.2 s) s
  retire k (takeResult k q lane latency tbl cell s)

/-- LANE_RESULT. -/
def execLaneResult (k : Fin 5) (q : Nat) (lane : BitVec 3) (latency : BitVec 16) (tbl : TableRead) (cell : CellarRead)
    (s : State) : Host.Outcome State Fault Refusal :=
  if live s then .next (settle (laneDone k.val q lane.toNat latency.toNat tbl cell s)) else .next s

/-! ### REORDER_TIMEOUT, LANE_ERR_CLEAR (R199 to R201) -/

/-- A copy is dealt again to lane l (R199), which it takes as any copy does (R454, R459). The next lane in service is
counted from the lane that timed out, and the round robin of dealing goes on from it (DESIGN CHOICE, log entry 73:
R199 does not say either). -/
def redeal (k : Nat) (c : Copy) (l : Nat) (s : State) : State :=
  let s := modCopy k c.seq (fun c => { c with lane := l, dealt := s.time.dclk }) (discardResult k c s)
  countDealt k c.rx c.item (modPress k (fun p => { p with
    lastLane := l, winDealt := p.winDealt + 1, taken := if p.taken.contains l then p.taken else p.taken ++ [l] }) s)

/-- A copy waited timeout_us for its result (R199, R200, R420). On the only lane in service the copy goes on waiting
there (DESIGN CHOICE: R201 keeps that lane, and R199 does not say whether the copy is dealt to it again). With
auto_lane_dis 0 the lane leaves dealing too, for R201 puts every lane whose lane_err is 1 out of service, where R199
names this for auto_lane_dis 1 alone (DESIGN CHOICE, log entry 73); only its copy waits (R200). -/
def laneTimeout (k q : Nat) (s : State) : State :=
  match (press k s).window.find? fun c => c.seq == q && c.ready.isNone with
  | none => s
  | some c =>
    let auto := fbit (PRS_REORDER_CFG.auto_lane_dis k) s
    let s := fset (PRS_REORDER_STAT.timeout_seen k) 1 (fsetBit (PRS_LANE_STAT.lane_err k) c.lane s)
    let s := refreshLanes k s
    let s := postError 2 (if auto then 4 else 12) 0x06 (k * 8 + c.lane) 0 s
    if !auto then s
    else
      let l := nextLane k c.lane s
      let s := if l = c.lane then s else redeal k c l s
      if 3 ≤ lanesOutCount k s then pressError 0x0F k s else s

/-- REORDER_TIMEOUT. -/
def execReorderTimeout (k : Fin 5) (q : Nat) (s : State) : Host.Outcome State Fault Refusal :=
  if live s then .next (settle (laneTimeout k.val q s)) else .next s

/-- Clears lane_err bits; a lane returns to service unless lane_dis holds it out (R201). -/
def clearLaneErr (k m : Nat) (s : State) : State :=
  let e := fget (PRS_LANE_STAT.lane_err k) s
  refreshLanes k (fset (PRS_LANE_STAT.lane_err k) (e &&& (0xFF ^^^ m)) s)

/-- LANE_ERR_CLEAR. -/
def execLaneErrClear (k : Fin 5) (lanes : Byte) (s : State) : Host.Outcome State Fault Refusal :=
  if regLive s then .next (clearLaneErr k.val lanes.toNat s) else .next s

/-! ### The policer window (R293) -/

/-- The policer that the window of press k addresses. -/
def polSel (k : Nat) (s : State) : Nat := fget (PRS_POL_SEL.policer k) s

/-- The values held for the selected policer, the committed ones where none has been written. -/
def polHeld (k : Nat) (s : State) : Word × Word × Word × Word :=
  let p := policer k (polSel k s) s
  (press k s).polHeld.getD (BitVec.ofNat 32 p.cir, BitVec.ofNat 32 p.pir, BitVec.ofNat 32 p.cbs, BitVec.ofNat 32 p.pbs)

/-- A write to PRS_POL_CTL commits the held values and fills both buckets (R293). Frames of the same DCLK cycle are still
metered by the policer as it was. -/
def commitPolicer (k : Nat) (data : Word) (s : State) : State :=
  let h := polHeld k s
  let p : Policer := { cir := h.1.toNat, pir := h.2.1.toNat, cbs := h.2.2.1.toNat, pbs := h.2.2.2.toNat,
                       ctl := data &&& 0xFFFFC000, last := s.time.dclk }
  let p := { p with tc := p.cbsOn * 2 ^ 20, tp := p.pbsOn * 2 ^ 20 }
  let n := polSel k s
  let old := policerNow k n s
  modPress k (fun x => { x with polHeld := none, polOld := mput n old x.polOld }) (setPolicer k n p s)

/-- POLICER_COMMIT. -/
def execPolicerCommit (k : Fin 5) (data : Word) (s : State) : Host.Outcome State Fault Refusal :=
  if regLive s then .next (commitPolicer k.val data s) else .next s

/-- A write to PRS_POL_SEL selects a policer and discards held values (R293). -/
def selectPolicer (k : Nat) (data : Word) (s : State) : State :=
  modPress k (fun p => { p with polHeld := none }) (setReg (PRS_POL_SEL.reg k) (data &&& 0x3FFF) s)

/-- POLICER_SELECT. -/
def execPolicerSelect (k : Fin 5) (data : Word) (s : State) : Host.Outcome State Fault Refusal :=
  if regLive s then .next (selectPolicer k.val data s) else .next s

end Sys2Proof.Machine
end

