-- ==== Sys2Proof/Machine/Rows.lean ====
section
/-!
DEFINITION. Rows and ports (spec/04): the calendar (R133, R134), enabling and disabling (R160 to R163), link state
(R155), low-power idle (R156 to R159), words outside frames (R131), the reset of twin recovery (R126), and the end of a
bank copy (R168).
-/

namespace Sys2Proof.Machine

/-! ### The calendar (R132 to R134) -/

/-- Calendar entries of a speed code. -/
def calEntries (code : Nat) : Nat := if code = 0 then 0 else 2 ^ (code - 1)

/-- The speed code of port p of a ROW_CFG value. -/
def codeOf (cfg p : Nat) : Nat := bits cfg (3 * p + 2) (3 * p)

/-- The speeds of a row's ports in Gbit/s, summed (R132). -/
def speedSum (r : Nat) (s : State) : Nat := (List.range 8).foldl (fun a p => a + gbps (8 * r + p) s) 0

/-- The 64 entries of row r's calendar, valid bit and port as four bits each. -/
def calendar (r : Nat) (s : State) : List Nat :=
  (List.range 64).map fun e => bits (regW (ROW_CAL.reg r (e / 8)) s).toNat (4 * (e % 8) + 3) (4 * (e % 8))

/-- Whether entry e is free for a port at a stride. -/
def offsetFree (cal : List Nat) (stride m o : Nat) : Bool :=
  (List.range m).all fun i => nth 0 (o + i * stride) cal < 8

/-- A calendar with port p placed at the smallest free offset; a port for which there is none gets no entry. -/
def placePort (cal : List Nat) (p m : Nat) : List Nat :=
  if m = 0 then cal
  else
    let stride := 64 / m
    match (List.range stride).find? fun o => offsetFree cal stride m o with
    | none => cal
    | some o => (List.range m).foldl (fun cal i => setNth (o + i * stride) (8 + p) cal) cal

/-- The ports of a ROW_CFG value in order of falling speed, equal speeds by rising number. -/
def portOrder (cfg : Nat) : List Nat :=
  [7, 6, 5, 4, 3, 2, 1].flatMap fun c => (List.range 8).filter fun p => codeOf cfg p == c

/-- The calendar that R134 generates for a ROW_CFG value. -/
def generated (cfg : Nat) : List Nat :=
  (portOrder cfg).foldl (fun cal p => placePort cal p (calEntries (codeOf cfg p))) (List.replicate 64 0)

/-- The word that eight calendar entries make, the first in the low bits. -/
def calWord : List Nat → Nat
  | [] => 0
  | e :: es => e + 16 * calWord es

/-- Row r's calendar is generated from its ROW_CFG (R134). -/
def regenerate (r : Nat) (s : State) : State :=
  let cal := generated (regW (ROW_CFG.reg r) s).toNat
  (List.range 8).foldl (fun s i =>
    setReg (ROW_CAL.reg r i) (BitVec.ofNat 32 (calWord ((cal.drop (8 * i)).take 8))) s) s

/-- Whether row r's calendar passes R133 for its ROW_CFG. -/
def calValid (r : Nat) (s : State) : Bool :=
  let cfg := (regW (ROW_CFG.reg r) s).toNat
  let cal := calendar r s
  cal.all (fun e => e < 8 || codeOf cfg (e % 8) != 0)
    && (List.range 8).all fun p =>
      let m := calEntries (codeOf cfg p)
      (List.range m).all fun i => (((cal.drop (i * (64 / m))).take (64 / m)).filter (· == 8 + p)).length == 1

/-! ### What is queued at a port -/

/-- Frames queued to or launched on port g (ROW_STAT.tx_queued). -/
def txQueued (g : Nat) (s : State) : Nat :=
  let p := port g s
  let fwd := (p.queues.map (·.2.length)).sum
  let cur := match p.cur with
    | some { src := .fwd _, .. } => 1
    | _ => 0
  let live_ := fun (x : TxCopy) => x.port == g && (x.phase == .queued || x.phase == .started)
  fwd + cur + (s.chans.map fun e => (e.2.tx.chains.map fun k => (k.copies.filter live_).length).sum).sum

/-- Frames queued to or launched on the ports of row r. -/
def rowQueued (r : Nat) (s : State) : Nat := ((List.range 8).map fun p => txQueued (8 * r + p) s).sum

/-! ### Link state (R155, R154) -/

/-- The fault state of port g that its reconciliation sublayer evaluates; a looped port reads OK. -/
def faultState (g : Nat) (s : State) : LinkFault :=
  if fbit (PRT_MAC_CFG.loopback g) s then .ok else (port g s).fault

/-- Whether a row evaluates the fault state of port g. -/
def evaluates (g : Nat) (s : State) : Bool := rowEnabled (g / 8) s && portSpeed g s != 0

/-- Sets link_up of port g; when the port can send again, frames for asserted priorities are due (R185). -/
def setLink (g : Nat) (up : Bool) (s : State) : State :=
  if (port g s).linkUp = up then s
  else
    let s := fset (PRT_MAC_STAT.link_chg g) 1 (modPort g (fun p => { p with linkUp := up, holding := false }) s)
    if up && fbit (PRT_MAC_CFG.tx_en g) s then redueXoff g s else s

/-- Evaluates the fault state of port g: link_up clears when it is not OK, and the hold starts when it is. -/
def evalLink (g : Nat) (s : State) : State :=
  if !evaluates g s then s
  else if faultState g s != .ok then modPort g (fun p => { p with holding := false }) (setLink g false s)
  else if (port g s).linkUp || (port g s).holding then s
  else if fget (PRT_MAC_CFG.link_hold g) s = 0 then setLink g true s
  else modPort g (fun p => { p with holding := true }) s

/-- LINK_FAULT_CHANGE (R155). While the row's clocks stand, the level that the receive words present is only known:
sentinels look at it in dormancy (R404). -/
def execLinkFaultChange (g : BitVec 8) (f : LinkFault) (s : State) : Host.Outcome State Fault Refusal :=
  let s := modPort g.toNat (fun p => { p with fault := f }) s
  if live s then .next (settle (evalLink g.toNat s)) else .next s

/-- LINK_HOLD_TIMER: the fault state has been OK for link_hold ms (R155). -/
def execLinkHoldTimer (g : BitVec 8) (s : State) : Host.Outcome State Fault Refusal :=
  if live s && (port g.toNat s).holding && evaluates g.toNat s && faultState g.toNat s == .ok then
    .next (settle (setLink g.toNat true s))
  else .next s

/-! ### Low-power idle (R156 to R159) -/

/-- Whether the speed of port g has LPI. -/
def lpiCapable (g : Nat) (s : State) : Bool := 1 ≤ portSpeed g s && portSpeed g s ≤ 4

/-- Whether port g may enter LPI: it is enabled for it and capable, and nothing is to be sent (R156). -/
def mayRest (g : Nat) (s : State) : Bool :=
  evaluates g s && (fget (ROW_LPI_CFG.lpi_en (g / 8)) s).testBit (g % 8) && lpiCapable g s && (port g s).cur.isNone
    && (port g s).txLpi == 0 && txQueued g s == 0 && !ctlReady g s

/-- LPI_IDLE_TIMER: the transmit side has been idle for idle_us. Whether the port enters LPI is decided at the end of the
DCLK cycle, for a frame that becomes ready in it keeps the port active (R156). -/
def execLpiIdleTimer (g : BitVec 8) (s : State) : Host.Outcome State Fault Refusal :=
  if live s && mayRest g.toNat s then .next (modPort g.toNat (fun p => { p with lpiDue := true }) s) else .next s

/-- At the end of the DCLK cycle in which its idle time has expired, port g enters LPI unless a frame became ready. -/
def enterLpi (g : Nat) (s : State) : State :=
  let t := modPort g (fun p => { p with lpiDue := false }) s
  if (port g s).lpiDue && mayRest g s then
    fadd (PRT_LPI_STAT.lpi_entries g) 1 (modPort g (fun p => { p with txLpi := 2 }) t)
  else t

/-- LPI_WAKE_END (R157). -/
def execLpiWakeEnd (g : BitVec 8) (s : State) : Host.Outcome State Fault Refusal :=
  if live s && (port g.toNat s).txLpi == 1 then .next (modPort g.toNat (fun p => { p with txLpi := 0 }) s) else .next s

/-- Whether LPI is presented on the receive path of port g (R159): by the host chip, or on a looped port by the port's own
transmit words (R154). -/
def rxLpiNow (g : Nat) (s : State) : Bool :=
  if fbit (PRT_MAC_CFG.loopback g) s then (port g s).txLpi == 2 else (port g s).rxLpi

/-- RECEIVE_LPI (R159): LPI begins or ends in the words from the host chip. -/
def execReceiveLpi (g : BitVec 8) (on : Bool) (s : State) : Host.Outcome State Fault Refusal :=
  if live s && evaluates g.toNat s then .next (modPort g.toNat (fun p => { p with rxLpi := on }) s) else .next s

/-! ### Words outside frames (R131) -/

/-- Whether row r takes words from its slots. -/
def rowTakes (r : Nat) (s : State) : Bool := (row r s).state == 2 || (row r s).state == 3

/-- MII_WORD_ERROR: no port for a word in a slot whose entry is invalid, or the port whose word carries an undefined
control character. The words of the host chip on a looped port are not looked at (R154). -/
def execMiiWordError (r : BitVec 5) (p : Option (BitVec 3)) (s : State) : Host.Outcome State Fault Refusal :=
  let n := r.toNat
  if !live s || !rowTakes n s then .next s
  else
    match p with
    | none =>
      if (calendar n s).any (· < 8) then .next (fset (ROW_IF_ERR.stray_word n) 1 (fadd (ROW_IF_ERR.err_words n) 1 s))
      else .next s
    | some p =>
      if (calendar n s).contains (8 + p.toNat) && !fbit (PRT_MAC_CFG.loopback (8 * n + p.toNat)) s then
        .next (fsetBit (ROW_IF_ERR.ctl_err_mask n) p.toNat (fadd (ROW_IF_ERR.err_words n) 1 s))
      else .next s

/-! ### Enabling and disabling (R160 to R163) -/

/-- The reason for which an enable of row r is refused. -/
def enableRefusal (r : Nat) (s : State) : Option Nat :=
  if 800 < speedSum r s then some 1
  else if fbit (ROW_CAL_CFG.manual r) s && !calValid r s then some 2
  else if s.racking.state != 0 then some 6
  else if (row r s).state == 1 || (row r s).state == 3 then some 7
  else none

/-- The reason for which a disable of row r is refused. -/
def disableRefusal (r : Nat) (s : State) : Option Nat :=
  if s.chans.any (fun e => e.2.active && e.2.ctx.homeRow == r) then some 3
  else if rowQueued r s != 0 then some 4
  else if fbit (ROW_TWIN_CFG.twin_en r) s then some 5
  else if s.racking.state != 0 then some 6
  else if (row r s).state == 1 || (row r s).state == 3 then some 7
  else none

/-- A request for row r is refused with a reason. -/
def refuseRow (r reason : Nat) (s : State) : State :=
  fset (ROW_STAT.refuse_reason r) reason (fset (ROW_STAT.en_refused r) 1 s)

/-- A GLB_ROW_EN bit written 1 (R160, R162, R243). -/
def requestEnable (r : Nat) (s : State) : State :=
  if (fget GLB_ROW_EN.row_en s).testBit r then s
  else
    match enableRefusal r s with
    | some n => refuseRow r n s
    | none => forceCoordinated (modRow r (fun x => { x with state := 1 }) (fsetBit GLB_ROW_EN.row_en r s))

/-- The links of row r go down as it enters disabling (R155). -/
def dropLinks (r : Nat) (s : State) : State :=
  (List.range 8).foldl (fun s p => modPort (8 * r + p) (fun x => { x with holding := false }) (setLink (8 * r + p) false s)) s

/-- A GLB_ROW_EN bit written 0 (R160, R163). -/
def requestDisable (r : Nat) (s : State) : State :=
  if !(fget GLB_ROW_EN.row_en s).testBit r then s
  else
    match disableRefusal r s with
    | some n => refuseRow r n s
    | none => modRow r (fun x => { x with state := 3 }) (dropLinks r (fclrBit GLB_ROW_EN.row_en r s))

/-- ROW_ENABLE_REQUEST. -/
def execRowEnableRequest (r : BitVec 5) (s : State) : Host.Outcome State Fault Refusal :=
  if auxPort s then .next (requestEnable r.toNat s) else .next s

/-- ROW_DISABLE_REQUEST. -/
def execRowDisableRequest (r : BitVec 5) (s : State) : Host.Outcome State Fault Refusal :=
  if auxPort s then .next (settle (requestDisable r.toNat s)) else .next s

/-- The MAC state of a port after the reset of R162: link down, out of LPI, and no pause timer running. -/
def Port.macReset (p : Port) : Port :=
  { p with linkUp := false, holding := false, rxLpi := false, txLpi := 0, pause := List.replicate 8 0, linkPause := 0,
           loads := [], lpiDue := false }

/-- An enabling row reaches enabled (R162). -/
def enableRow (r : Nat) (s : State) : State :=
  let s := modRow r (fun x => { x with state := 2, roundAt := s.time.dclk }) s
  (List.range 8).foldl (fun s p => evalLink (8 * r + p) (modPort (8 * r + p) Port.macReset s)) s

/-- ROW_ENABLED. -/
def execRowEnabled (r : BitVec 5) (s : State) : Host.Outcome State Fault Refusal :=
  if live s && (row r.toNat s).state == 1 then .next (settle (enableRow r.toNat s)) else .next s

/-- ROW_DISABLED: a disabling row reaches disabled (R163). -/
def execRowDisabled (r : BitVec 5) (s : State) : Host.Outcome State Fault Refusal :=
  if live s && (row r.toNat s).state == 3 then .next (settle (modRow r.toNat (fun x => { x with state := 0 }) s))
  else .next s

/-! ### Row configuration (R134, R161) -/

/-- A write to ROW_CFG of row r, ignored while the row is not disabled. -/
def writeRowCfg (r : Nat) (data : Word) (s : State) : State :=
  if (row r s).state != 0 then s
  else
    let s := setReg (ROW_CFG.reg r) (data &&& 0xFFFFFF) s
    if fbit (ROW_CAL_CFG.manual r) s then s else regenerate r s

/-- A write of manual in ROW_CAL_CFG of row r, ignored while the row is not disabled. -/
def writeCalCfg (r : Nat) (manual : Bool) (s : State) : State :=
  if (row r s).state != 0 then s
  else
    let was := fbit (ROW_CAL_CFG.manual r) s
    let s := fset (ROW_CAL_CFG.manual r) (b2n manual) s
    if was && !manual then regenerate r s else s

/-- ROW_CFG_WRITE. -/
def execRowCfgWrite (r : BitVec 5) (data : Word) (s : State) : Host.Outcome State Fault Refusal :=
  if regLive s then .next (writeRowCfg r.toNat data s) else .next s

/-- CALENDAR_MANUAL_CLEAR. -/
def execCalendarManualClear (r : BitVec 5) (s : State) : Host.Outcome State Fault Refusal :=
  if regLive s then .next (writeCalCfg r.toNat false s) else .next s

/-! ### Twin recovery reset (R126) and the end of a bank copy (R168) -/

/-- TWIN_RECOVERY_RESET: reset_ms has passed without a frame of the pair anchored in row r. -/
def execTwinRecoveryReset (r : BitVec 5) (s : State) : Host.Outcome State Fault Refusal :=
  let n := r.toNat
  if live s && ((pairOfRow n s).map (·.anchor)) == some n && fget (ROW_TWIN_CFG.reset_ms n) s != 0 then
    .next (fset (ROW_TWIN_STAT.rcvy_reset n) 1 (modRow n (fun x => { x with takeAny := true }) s))
  else .next s

/-- What the copier read of bank b (R166, R422): words that it corrected are counted, and words that it could not
correct are marked as poisoned in the spare. Words of other banks are none that it reads. -/
def copierReads (b : Nat) (corrected bad : List CellWord) (s : State) : State :=
  let here := fun (x : CellWord) => wordBank x == b
  let s := (corrected.filter here).foldl (fun s x => correctedBank (wordBank x) s) s
  (bad.filter here).foldl (fun s x =>
    uncorrectableBank b { s with cellar := { s.cellar with
      poisoned := if isPoisoned x s then s.cellar.poisoned else s.cellar.poisoned ++ [wordNumber x] } }) s

/-- The banks that wait for a spare: the first takes the one that is left, and each that finds none posts its entry (R167,
R169). -/
def nextSpare (s : State) : State :=
  s.cellar.wanting.foldl (fun s b => autoSpare b s) { s with cellar := { s.cellar with wanting := [] } }

/-- The spare replaces the copied bank. -/
def endBankCopy (b : Nat) (s : State) : State :=
  nextSpare (raiseSource 5
    { s with cellar := { s.cellar with
        copyBank := none
        spare0 := if s.cellar.copySpare = 0 then some b else s.cellar.spare0
        spare1 := if s.cellar.copySpare = 0 then s.cellar.spare1 else some b } })

/-- SPARE_COPY_COMPLETE. -/
def execSpareCopyComplete (corrected bad : List CellWord) (s : State) : Host.Outcome State Fault Refusal :=
  match s.cellar.copyBank with
  | some b => if live s then .next (endBankCopy b (copierReads b corrected bad s)) else .next s
  | none => .next s

end Sys2Proof.Machine
end

