-- ==== Sys2Proof/Machine/Receive.lean ====
section
/-!
DEFINITION. Receiving a frame (spec/04): the checks of R136 in their order, MAC control frames (R139, R186 to R188), the
address filter and VLAN acceptance (R142 to R145), twin recovery (R124 to R128), the receive stamp (R347) and
admission to the cellar (R175 to R177), which the end of the DCLK cycle carries out.
-/

namespace Sys2Proof.Machine

/-! ### Time at the row interface (R347) -/

/-- PTP time at this DCLK edge, in units of 2^-28 ns: halfway between two SCLK edges half the increment is added. -/
def crossing (s : State) : Nat := ptpNow s + (if s.time.dclk % 2 = 1 then s.time.incr / 2 else 0)

/-- A 13-bit stamp adjustment of 0.25 ns units, in units of 2^-28 ns. -/
def adjust28 (v : Nat) : Int := (if v < 4096 then Int.ofNat v else Int.ofNat v - 8192) * 2 ^ 26

/-- The stamp of an instant, whose seconds wrap at 48 bits. -/
def stampAt (t : Int) : Stamp :=
  let n := (Int.emod t (2 ^ 48 * 1000000000 * 2 ^ 28)).toNat
  ⟨n / (1000000000 * 2 ^ 28), n / 2 ^ 28 % 1000000000, n % 2 ^ 28 / 2 ^ 12⟩

/-- The receive stamp on port g of a frame whose /S/ crosses at a time (R347). -/
def rxStampAt (g t : Nat) (s : State) : Stamp := stampAt (Int.ofNat t + adjust28 (fget (ROW_TS_CFG.rx_adj (g / 8)) s))

/-- The receive stamp of a frame that crosses now on port g. -/
def rxStamp (g : Nat) (s : State) : Stamp := rxStampAt g (crossing s) s

/-! ### VLAN tags that a port recognises (R136 check 8, R144) -/

/-- Whether a port whose tpid_mode is m recognises Ethertype t as a tag. -/
def tpidOk (m t : Nat) : Bool := (t == 0x8100 && m != 1) || (t == 0x88A8 && m != 0)

/-- The offset behind the tags that ok picks, at most n of them, from offset off. -/
def skipTags (ok : Nat → Bool) (bs : Bytes) : Nat → Nat → Nat
  | 0, off => off
  | n + 1, off => if off + 6 ≤ bs.length && ok (beAt off 2 bs) then skipTags ok bs n (off + 4) else off

/-- The offset behind the last VLAN tag of a frame, where an R-TAG stands (R120). -/
def tagEnd (bs : Bytes) : Nat := skipTags (tpidOk 2) bs (bs.length / 4) 12

/-! ### Checks 1 to 8 of R136 -/

/-- Whether the length/type field fails the length rule. -/
def lenBad (g : Nat) (bs : Bytes) (s : State) : Bool :=
  let off := skipTags (tpidOk (fget (PRT_FILTER_CFG.tpid_mode g) s)) bs 4 12
  let v := beAt off 2 bs
  let avail := bs.length - 18 - (off - 12)
  v < 0x600 && (avail < v || (v < avail && 64 < bs.length))

/-- The first of checks 1 to 8 that a frame fails, with the rx_en and max_frame that were in force at its /S/ (R141, R153):
its row event and its sticky flag. -/
def rxCheck (en : Bool) (most g : Nat) (x : RxArrival) (s : State) : Option (Nat × Option Fld) :=
  let bs := x.bytes
  if !en then some (0x11, none)
  else if x.stagingFull then some (0x12, some (PRT_MAC_STAT.staging_ovr g))
  else if x.miiError || faultState g s != .ok then some (0x13, some (PRT_MAC_STAT.mii_err g))
  else if (x.sLane != 0 && (x.sLane != 4 || portSpeed g s != 1)) || x.sfd != 0xD5 then
    some (0x14, some (PRT_MAC_STAT.align_err g))
  else if most < bs.length then some (0x15, some (PRT_MAC_STAT.oversize g))
  else if bs.length < 64 then some (0x16, some (PRT_MAC_STAT.runt g))
  else if !fcsOk bs then some (0x17, some (PRT_MAC_STAT.fcs_err g))
  else if fbit (PRT_FRAME_CFG.len_check g) s && lenBad g bs s then some (0x18, some (PRT_MAC_STAT.len_err g))
  else none

/-! ### MAC control frames (R139, R186 to R190) -/

/-- The destination address of pause and PFC frames. -/
def pauseDa : Bytes := beBytes 6 0x0180C2000001

/-- A pause timer is loaded, from the next DCLK cycle on (R190). -/
def loadTimers (g : Nat) (l : List (PauseTimer × Nat)) (s : State) : State :=
  modPort g (fun p => { p with loads := p.loads ++ l }) s

/-- The timers that a PFC frame loads: each priority of the class-enable vector with its time (R187, R188). -/
def pfcTimes (bs : Bytes) : List (PauseTimer × Nat) :=
  ((List.range 8).filter fun i => bit (beAt 16 2 bs) i).map fun i => (.priority (BitVec.ofNat 3 i), beAt (18 + 2 * i) 2 bs)

/-- The timers loaded in the cycle before run from now on (R190). -/
def Port.takeLoads (p : Port) : Port :=
  p.loads.foldl (fun p x => match x.1 with
    | .priority q => { p with pause := setNth q.toNat x.2 p.pause }
    | .link => { p with linkPause := x.2 }) { p with loads := [] }

/-- The row consumes a MAC control frame. -/
def macControl (g : Nat) (bs : Bytes) (a : Attr) (s : State) : State :=
  let n := fun (code : Nat) (s : State) => count (.row (g / 8)) code 1 { priv := 3, port := some (g % 8) } s
  let op := beAt 14 2 bs
  if op != 0x0001 && op != 0x0101 then count (.row (g / 8)) 0x19 1 a s
  else if bs.take 6 != pauseDa then n 0x07 (fset (PRT_PFC_STAT.rx_pause_bad g) 1 s)
  else
    let s := n 0x06 s
    if op = 0x0101 then
      if fbit (PRT_PFC_CFG.rx_pfc_en g) s then loadTimers g (pfcTimes bs) s else n 0x08 s
    else
      if fbit (PRT_PFC_CFG.rx_pause_en g) s then loadTimers g [(.link, beAt 16 2 bs)] s
      else n 0x08 s

/-! ### Address filter and VLAN acceptance (R142 to R145) -/

/-- Whether a destination is a unicast address. -/
def unicast (bs : Bytes) : Bool := !((bs.headD 0).toNat.testBit 0)

/-- Whether the address filter of port g passes a frame. -/
def addrPass (g : Nat) (bs : Bytes) (s : State) : Bool :=
  let da := beAt 0 6 bs
  if fbit (PRT_FILTER_CFG.promisc g) s then true
  else if da == 0xFFFFFFFFFFFF then fbit (PRT_FILTER_CFG.bc_en g) s
  else if 0x0180C2000000 ≤ da && da ≤ 0x0180C200000F then true
  else if !unicast bs then
    match fget (PRT_FILTER_CFG.mc_mode g) s with
    | 0 => true
    | 1 => (pairVal (PRT_MC_HASH_LO.reg g) (PRT_MC_HASH_HI.reg g) s).toNat.testBit (mcIndex (bs.take 6))
    | _ => false
  else true

/-- The VID and priority that R144 gives a frame, and whether it is accepted. -/
def vlanOf (g : Nat) (bs : Bytes) (s : State) : Nat × Nat × Bool :=
  let pvid := fget (PRT_FILTER_CFG.pvid g) s
  let promisc := fbit (PRT_FILTER_CFG.promisc g) s
  if tpidOk (fget (PRT_FILTER_CFG.tpid_mode g) s) (beAt 12 2 bs) then
    let tci := beAt 14 2 bs
    let vid := tci % 4096
    let pcp := tci / 8192
    if vid = 0 then (pvid, pcp, promisc || fbit (PRT_FILTER_CFG.acc_prio g) s)
    else if vid = 0xFFF then (pvid, pcp, promisc)
    else (vid, pcp, promisc || fbit (PRT_FILTER_CFG.acc_tagged g) s)
  else (pvid, fget (PRT_FILTER_CFG.default_pcp g) s, promisc || fbit (PRT_FILTER_CFG.acc_untagged g) s)

/-! ### Twin recovery (R124 to R128) -/

/-- What twin recovery makes of a frame: it passes, with its bytes and whether it went through recovery, or it is
discarded. -/
inductive Recovered where
  | pass (bs : Bytes) (recovered : Bool)
  | discard
  deriving DecidableEq, Repr

/-- A history after a frame delta ahead of the last, its first bit set. -/
def shiftHist (h : BitVec 128) (delta : Nat) : BitVec 128 := (h <<< delta) ||| 1

/-- Vector recovery of a sequence number at the anchor row (R124): whether the frame passes, and the events it
counts. -/
def vectorRecovery (r : Nat) (seq : BitVec 16) (a : Attr) (s : State) : Bool × State :=
  let x := row r s
  let n := fun (code : Nat) (s : State) => count (.row r) code 1 a s
  let len : Int := Int.ofNat (fget (ROW_TWIN_CFG.history_len r) s)
  let delta : Int := (seq - x.recovSeq).toInt
  if x.takeAny then (true, n 0x21 (setRow r { x with recovSeq := seq, hist := 1, takeAny := false } s))
  else if len ≤ delta ∨ delta ≤ -len then (false, n 0x23 (fset (ROW_TWIN_STAT.rogue_seen r) 1 s))
  else if 0 < delta then (true, n 0x21 (setRow r { x with recovSeq := seq, hist := shiftHist x.hist delta.toNat } s))
  else if x.hist.getLsbD (-delta).toNat then (false, n 0x22 s)
  else (true, n 0x21 (setRow r { x with hist := x.hist ||| (1#128 <<< (-delta).toNat) } s))

/-- The frame without the six bytes of its R-TAG, with its FCS anew (R128). -/
def stripRtag (off : Nat) (bs : Bytes) : Bytes :=
  let d := stripFcs bs
  withFcs (d.take off ++ d.drop (off + 6))

/-- Twin recovery of a frame on a port of a pair (R124, R127, R128). The events count in the anchor row. -/
def recover (p : Pair) (g : Nat) (bs : Bytes) (a : Attr) (s : State) : Recovered × State :=
  let a := { a with port := some (if g / 8 = p.anchor then g % 8 else p.main % 8) }
  let off := tagEnd (stripFcs bs)
  if off + 10 ≤ bs.length && beAt off 2 bs == 0xF1C1 then
    let r := vectorRecovery p.anchor (BitVec.ofNat 16 (beAt (off + 4) 2 bs)) a s
    if !r.1 then (.discard, r.2)
    else (.pass (if fbit (ROW_TWIN_CFG.strip_rtag p.anchor) r.2 then stripRtag off bs else bs) true, r.2)
  else if fbit (ROW_TWIN_CFG.untagged_pass p.anchor) s then (.pass bs false, s)
  else (.discard, count (.row p.anchor) 0x24 1 a s)

/-- The bytes and the port of the forwarding keys (R234) with which a frame goes on to admission, or none. -/
def afterRecovery (g : Nat) (bs : Bytes) (a : Attr) (s : State) : Option (Bytes × Nat) × State :=
  match pairOfPort g s with
  | none => (some (bs, g), s)
  | some p =>
    match recover p g bs a s with
    | (.discard, s) => (none, s)
    | (.pass bs r, s) => (some (bs, if r then p.main else g), s)

/-! ### Admission (R175, R176) -/

/-- Admits frame id to the cellar, or drops it whole, counted; its header copy goes to the press of its row. -/
def admitFrame (id : Nat) (f : Frame) (g : Nat) (s : State) : State :=
  let need := cellsFor f.bytes.length
  let a := frameAttr id f s
  match admitDecision g f.prio need s with
  | .drop code =>
    let s := count .cellar code 1 a s
    endFrame id (if code = 0x05 then fset (PRT_PFC_STAT.hr_drop g) 1 s else s)
  | .take p =>
    let s := setFrame id { f with pool := p, cells := need } (chargeCells g f.prio p need s)
    enqueueCopy true (g / 8) g (.frame id) (count .cellar 0x02 need a (count .cellar 0x01 1 a s))

/-! ### Frames that arrive -/

/-- A frame that passed its checks: recovery and admission follow at the end of the DCLK cycle (R125, R177). -/
def holdArrival (id : Nat) (f : Frame) (s : State) : State :=
  { s with cellar := { s.cellar with arrivals := s.cellar.arrivals ++ [(id, f)] } }

/-- Checks 9 to 11 for a frame that passed checks 1 to 8 on port g. -/
def rxFiltered (id g : Nat) (f : Frame) (s : State) : State :=
  let bs := f.bytes
  let v := vlanOf g bs s
  let f := { f with vid := v.1, prio := v.2.1 }
  let a := frameAttr id f s
  let n := fun (code : Nat) (s : State) => endFrame id (count (.row (g / 8)) code 1 a s)
  if beAt 12 2 bs = 0x8808 then endFrame id (macControl g bs a s)
  else if !addrPass g bs s then n 0x1A s
  else if !v.2.2 then n 0x1B s
  else
    let s := count (.row (g / 8)) 0x02 bs.length a (count (.row (g / 8)) 0x01 1 a s)
    let mark := fbit (PRT_FILTER_CFG.uc_table g) s && !fbit (PRT_FILTER_CFG.promisc g) s && unicast bs
    holdArrival id { f with ucMark := mark } s

/-- A whole frame on port g, with the rx_en and max_frame in force at its /S/, what its words show, its receive stamp and
the DCLK count at its /S/. Every arriving frame takes a number. In a drain it is discarded (R105 step 1), counted as
rx_disabled (DESIGN CHOICE: the rule has it counted, and names no event). -/
def rxFrame (en : Bool) (most g : Nat) (x : RxArrival) (t : Stamp) (at_ : Nat) (s : State) : State :=
  let id := s.cellar.nextFrame
  let s := { s with cellar := { s.cellar with nextFrame := id + 1 } }
  let f : Frame := { bytes := x.bytes, port := some g, keyPort := g, stamp := t, pool := .shared, cells := 0,
                     refs := 1, arrived := at_ }
  match if s.power.drain.isSome then some (0x11, none) else rxCheck en most g x s with
  | some (code, flag) =>
    let s := match flag with
      | some b => fset b 1 s
      | none => s
    let s := if code = 0x12 then fset (ROW_STAT.staging_ovr (g / 8)) 1 s else s
    endFrame id (count (.row (g / 8)) code 1 { frameAttr id f s with tc := none } s)
  | none => rxFiltered id g f s

/-! ### The end of a DCLK cycle (R125, R177) -/

/-- Whether a frame arrived on the port of its pair that recovery looks at first (R125). -/
def onMainPort (f : Frame) (s : State) : Bool :=
  match f.port with
  | some g => ((pairOfPort g s).map (·.main)) == some g
  | none => false

/-- Twin recovery of the frames that passed their checks in one cycle, in the order given; the frames that pass it. -/
def recoverAll : List (Nat × Frame) → State → List (Nat × Frame) × State
  | [], s => ([], s)
  | (id, f) :: l, s =>
    match afterRecovery (f.port.getD 0) f.bytes (frameAttr id f s) s with
    | (none, s) => recoverAll l (endFrame id s)
    | (some (bs, key), s) =>
      let r := recoverAll l s
      ((id, { f with bytes := bs, keyPort := key }) :: r.1, r.2)

/-- The arrivals of a cycle are carried out, after the frees of its commands: recovery, the main port of a pair first
(R125), then admission in rising port number and arrival order (R177). -/
def admitArrivals (s : State) : State :=
  let l := s.cellar.arrivals
  if l.isEmpty then s
  else
    let s := { s with cellar := { s.cellar with arrivals := [] } }
    let r := recoverAll ((l.filter fun e => onMainPort e.2 s) ++ l.filter fun e => !onMainPort e.2 s) s
    let ordered := (List.range 256).flatMap fun g => r.1.filter fun e => e.2.port == some g
    ordered.foldl (fun s e => admitFrame e.1 e.2 (e.2.port.getD 0) s) r.2

/-! ### FRAME_RECEIVE -/

/-- Whether port g takes /S/ (R159, R162, R163, R407). -/
def takesFrames (g : Nat) (s : State) : Bool := evaluates g s && !rxLpiNow g s && s.power.dorm == 0

/-- The sentinel that watches port g, if one does (R404). -/
def sentinelOf (g : Nat) (s : State) : Option Nat :=
  (List.range 8).find? fun i => (fget AUX_SENTINEL_CFG.en s).testBit i && ((s.aux.sentinels[i]?).map (·.port)) == some g

/-- A frame on port g while the block wakes is not received; on a sentinel port it is counted (R408). -/
def missFrame (g : Nat) (s : State) : State :=
  if s.power.dorm == 4 && (sentinelOf g s).isSome then fadd AUX_WAKE_CFG.sentinel_miss 1 s else s

/-- FRAME_RECEIVE. A port that loops its transmit words back takes none from the host chip (R154). -/
def execFrameReceive (g : BitVec 8) (x : RxArrival) (s : State) : Host.Outcome State Fault Refusal :=
  if !live s then .next s
  else if takesFrames g.toNat s && !fbit (PRT_MAC_CFG.loopback g.toNat) s then
    .next (settle (rxFrame (fbit (PRT_MAC_CFG.rx_en g.toNat) s) (maxFrame g.toNat s) g.toNat x (rxStamp g.toNat s)
      s.time.dclk s))
  else .next (missFrame g.toNat s)

end Sys2Proof.Machine
end

