-- ==== Sys2Proof/Machine/OneStep.lean ====
section
/-!
DEFINITION. One-step timestamping as a row carries it out (R351 to R353): the fields of the PTP message, the UDP
checksums around it, and the two bytes that may be appended behind a message over IPv6.
-/

namespace Sys2Proof.Machine

/-- A stamp as a count of 2^-16 ns. -/
def Stamp.units (t : Stamp) : Nat := (t.sec * 1000000000 + t.ns) * 65536 + t.frac

/-- The PTP message at offset p with its fields rewritten (R351, R352). -/
def putPtp (ofChain : Bool) (p : Nat) (egress ingress : Stamp) (bs : Bytes) : Bytes :=
  let corr := beAt (p + 8) 8 bs
  if ofChain then
    splice (p + 34) (beBytes 6 egress.sec ++ beBytes 4 egress.ns) (splice (p + 8) (beBytes 8 (corr + egress.frac)) bs)
  else splice (p + 8) (beBytes 8 (corr + egress.units + 2 ^ 96 - ingress.units)) bs

/-- Adds two to the 16-bit length at an offset. -/
def addTwo (off : Nat) (bs : Bytes) : Bytes := put16 off (beAt off 2 bs + 2) bs

/-- Writes the header checksum of the IPv4 header at an offset anew. -/
def freshIpv4 (ip : Nat) (bs : Bytes) : Bytes :=
  let z := put16 (ip + 10) 0 bs
  put16 (ip + 10) (ocNot (wordSum (slice ip (4 * (beAt ip 1 bs % 16)) z))) z

/-- Corrects the UDP checksum of a level for the change from old to new, extra being what its pseudo-header gains; a zero
checksum over IPv4 stays zero (R353). -/
def fixUdp (extra : Nat) (old : Bytes) (new : Bytes) (n : Nesting) : Bytes :=
  match n.udp with
  | none => new
  | some u =>
    if !n.v6 && beAt (u + 6) 2 new == 0 then new
    else adjustCsum true (u + 6) (wordSum (old.drop u)) (wordSum (new.drop u) + extra) new

/-- An enclosing level of a message that grew by two bytes: its lengths, header checksum and UDP checksum. -/
def growLevel (old : Bytes) (new : Bytes) (n : Nesting) : Bytes :=
  let new := if n.v6 then addTwo (n.ip + 4) new else freshIpv4 n.ip (addTwo (n.ip + 2) new)
  let new := match n.udp with
    | some u => addTwo (u + 4) new
    | none => new
  fixUdp 2 old new n

/-- The message over IPv6 and UDP grows by two bytes that keep its UDP checksum valid. -/
def appendTrailer (ip u : Nat) (enclosing : List Nesting) (old new : Bytes) : Bytes :=
  let stop := u + beAt (u + 4) 2 old
  let new := addTwo (ip + 4) (addTwo (u + 4) new)
  let need := fold16 (wordSum (slice u (stop - u) old) + (0xFFFF - fold16 (wordSum (slice u (stop - u) new) + 2)))
  let v := if (stop - u) % 2 = 0 then need else need % 256 * 256 + need / 256
  enclosing.reverse.foldl (growLevel old) (new.take stop ++ beBytes 2 v ++ new.drop stop)

/-- A frame whose message at p was rewritten, with every checksum around it corrected. -/
def closeRewrite (v6Trailer : Bool) (p : Nat) (ns : List Nesting) (old new : Bytes) : Bytes :=
  match ns.getLast? with
  | some { ip, v6 := true, udp := some u } =>
    if v6Trailer && u + 8 == p then appendTrailer ip u ns.dropLast old new
    else ns.reverse.foldl (fixUdp 0 old) new
  | _ => ns.reverse.foldl (fixUdp 0 old) new

/-- The frame as a row sends it with its stamp. -/
def OneStep.apply (o : OneStep) (v6Trailer : Bool) (egress ingress : Stamp) (bs : Bytes) : Bytes :=
  match o with
  | .rewrite p c ns => closeRewrite v6Trailer p ns bs (putPtp c p egress ingress bs)
  | _ => bs

end Sys2Proof.Machine
end

