-- ==== Sys2Proof/Machine/Transmit.lean ====
section
/-!
DEFINITION. Sending (spec/04, spec/05, spec/09): the scheduler's decision (R299 to R305) with the starts of twin copies
(R120, R122, R123), staging and the start on the MII (R146 to R151, R171, R347), the end of a frame (R22, R319), and
pause and PFC frames (R182 to R189).
-/

namespace Sys2Proof.Machine

/-! ### Head frames and their eligibility (R298, R299, R301) -/

/-- The head frame of a member at a port: a copy of a chain, or a frame of the forwarding queue. -/
inductive Head where
  | chain (c : Nat) (k : Chain) (x : TxCopy)
  | fwd (f : FwdItem)
  deriving DecidableEq, Repr

/-- The copy of a chain that is queued to port g in class tc. -/
def Chain.copyAt (k : Chain) (g tc : Nat) : Option TxCopy :=
  k.copies.find? fun x => x.port == g && x.tc == tc && x.phase == .queued

/-- The head frame of member m in class tc of port g. -/
def headOf (g tc : Nat) (m : Member) (s : State) : Option Head :=
  match m with
  | .fwd => ((fwdQueue g tc s).head?).map .fwd
  | .chan c => (headChains (chan c s)).findSome? fun k => (k.copyAt g tc).map fun x => .chain c k x

/-- Whether channel c takes part in a stage (R301), its buckets brought to the present. -/
def inStage (c stage : Nat) (s : State) : Bool :=
  let ch := chan c s
  if ch.ctx.cir = 0 then stage == 1
  else
    let t := refillShaper ch.ctx s.time.dclk ch.tx
    0 ≤ t.tpLevel && (stage == 1 || 0 ≤ t.tcLevel)

/-- Whether a chain may start a copy: it is launched and whole, or may launch now. -/
def chainStarts (c : Nat) (k : Chain) (s : State) : Bool :=
  (k.stage == .launched && k.complete) || (launchNext c k s && slotsReady c k s)

/-- The transmission bytes of a head frame at port g. -/
def Head.txBytes (h : Head) (g : Nat) (s : State) : Nat :=
  match h with
  | .chain _ _ x => x.txBytes s
  | .fwd f => f.txBytes g s

/-- Whether class tc of port g is paused (R189). -/
def paused (g tc : Nat) (s : State) : Bool := nth 0 tc (port g s).pause != 0 || (port g s).linkPause != 0

/-- Whether the other copy of a head frame is still queued at the pair's other port. -/
def mateQueued (mate tc : Nat) (h : Head) (s : State) : Bool :=
  match h with
  | .chain _ k _ => (k.copyAt mate tc).isSome
  | .fwd f => (fwdQueue mate tc s).any fun y => y.item == f.item

/-- Whether a head frame of port g leaves its launch to the other port of its pair: its link alone is down, and neither
copy has started. The links are looked at again at that launch (R122; DESIGN CHOICE, log entry 54). -/
def leavesToMate (g tc : Nat) (h : Head) (s : State) : Bool :=
  match pairOfPort g s with
  | none => false
  | some p => !(port g s).linkUp && (port (p.mate g) s).linkUp && mateQueued (p.mate g) tc h s

/-- Whether a head frame of class tc is eligible in a stage of port g. -/
def Head.eligible (h : Head) (g tc stage : Nat) (s : State) : Bool :=
  !paused g tc s && !leavesToMate g tc h s && fitsNow g tc (h.txBytes g s) s &&
    match h with
    | .fwd _ => stage == 1
    | .chain c k _ => inStage c stage s && chainStarts c k s

/-! ### Serving a stage (R302, R303) -/

/-- The credit of a member. -/
def Round.credit (m : Member) (r : Round) : Int := ((r.members.find? fun e => e.1 == m).map (·.2)).getD 0

/-- Sets the credit of a member. -/
def Round.setCredit (m : Member) (d : Int) (r : Round) : Round :=
  { r with members := r.members.map fun e => if e.1 = m then (m, d) else e }

/-- Member m becomes the turn holder, and gains its quantum unless it was. -/
def Round.take (q b : Nat) (m : Member) (r : Round) : Round :=
  if r.turn = some m then r
  else { r.setCredit m (min (Int.ofNat b) (r.credit m + Int.ofNat q)) with turn := some m, next := none }

/-- The member after m in round order, the first after the last. -/
def Round.after (m : Member) (r : Round) : Option Member :=
  match (r.members.dropWhile fun e => e.1 != m).drop 1 with
  | e :: _ => some e.1
  | [] => (r.members.head?).map (·.1)

/-- Member m passes the turn. -/
def Round.pass (m : Member) (r : Round) : Round := { r with turn := none, next := r.after m }

/-- One pass over n members from m on. -/
def servePass (elig : Member → Bool) (quant : Member → Nat × Nat) : Nat → Member → Round → Option Member × Round
  | 0, _, r => (none, r)
  | n + 1, m, r =>
    let r := r.take (quant m).1 (quant m).2 m
    if 0 < r.credit m && elig m then (some m, r)
    else
      let r := r.pass m
      match r.next with
      | some m => servePass elig quant n m r
      | none => (none, r)

/-- One loop over a round, from the turn holder on, that visits each member at most once (R302). -/
def serve (elig : Member → Bool) (quant : Member → Nat × Nat) (r : Round) : Option Member × Round :=
  match r.turn <|> r.next <|> (r.members.head?).map (·.1) with
  | none => (none, r)
  | some m => servePass elig quant r.members.length m r

/-- Quantum and burst of a member at port g (R302, R307, PRT_SCHED_CFG). -/
def quantumOf (g : Nat) (m : Member) (s : State) : Nat × Nat :=
  match m with
  | .chan c => ((chan c s).ctx.weightOn * 256, (chan c s).ctx.burstOn)
  | .fwd => (max 1 (fget (PRT_SCHED_CFG.fwd_weight g) s) * 256, 64 * 2 ^ min 14 (fget (PRT_SCHED_CFG.fwd_burst_log2 g) s))

/-! ### Twin pairs at a start (R120, R122, R123) -/

/-- single_copy sets in each row of a pair. -/
def singleCopy (p : Pair) (s : State) : State :=
  fset (ROW_TWIN_STAT.single_copy (p.other / 8)) 1 (fset (ROW_TWIN_STAT.single_copy (p.main / 8)) 1 s)

/-- The next sequence number of a pair (R120). -/
def drawSeq (p : Pair) (s : State) : BitVec 16 × State :=
  let x := row p.anchor s
  (x.txSeq, setRow p.anchor { x with txSeq := x.txSeq + 1 } s)

/-! ### Starting a frame (R302, R304, R305) -/

/-- The copies of a chain with the one queued to port g changed. -/
def changeCopy (g : Nat) (f : TxCopy → TxCopy) (xs : List TxCopy) : List TxCopy :=
  xs.map fun x => if x.port = g then f x else x

/-- The row takes the head frame of a port into staging. -/
def takeFrame (g : Nat) (cur : TxCur) (s : State) : State := modPort g (fun p => { p with cur := some cur }) s

/-- The buckets of channel c are charged for the first copy of a chain that starts in a stage (R305). -/
def chargeShaper (c stage l : Nat) (s : State) : State :=
  let ch := chan c s
  if ch.ctx.cir = 0 then s
  else
    let t := refillShaper ch.ctx s.time.dclk ch.tx
    let n := Int.ofNat (l * 2 ^ 20)
    modTx c (fun _ => { t with tpLevel := t.tpLevel - n, tcLevel := if stage = 0 then t.tcLevel - n else t.tcLevel }) s

/-- A copy of chain k of channel c starts at port g: the chain launches with its first copy. -/
def startChain (g tc stage c : Nat) (k : Chain) (x : TxCopy) (seq : Option (BitVec 16)) (dark : Bool) (s : State) : State :=
  let first := k.stage != .launched
  let l := x.txBytes s
  let s := modChain c k.first (fun k => { k with copies := changeCopy g (fun x => { x with phase := .started }) k.copies }) s
  let s := if first then launch c ((chainOf c k.first s).getD k) (chargeShaper c stage l s) else s
  takeFrame g { src := .chain c k.first, tc := tc, bytes := x.bytes, oneStep := x.oneStep, seqTag := seq,
                dark := dark } (syncChan c s)

/-- A copy of chain k queued to port g is not sent there (R122). -/
def dropCopy (g c : Nat) (k : Chain) (s : State) : State :=
  syncChan c (modChain c k.first (fun k =>
    { k with copies := changeCopy g (fun x => { x with phase := .dropped }) k.copies }) s)

/-- The queued copy of a chain or of a frame at a port gets the pair's sequence number; dark says that both links are
down (R123). -/
def tagMate (mate tc : Nat) (h : Head) (seq : BitVec 16) (dark : Bool) (s : State) : State :=
  match h with
  | .chain c k _ =>
    modChain c k.first (fun k => { k with
      copies := changeCopy mate (fun x => { x with seqTag := some seq, dark := dark }) k.copies }) s
  | .fwd f =>
    setFwdQueue mate tc ((fwdQueue mate tc s).map fun y =>
      if y.item = f.item then { y with seqTag := some seq, dark := dark } else y) s

/-- The copy of a head frame queued at a port is not sent there; the frame behind it meets its gate test (R317). -/
def dropAt (g tc : Nat) (h : Head) (s : State) : State :=
  match h with
  | .chain c k _ => dropCopy g c k s
  | .fwd f =>
    let q := (fwdQueue g tc s).filter fun y => y.item != f.item
    fwdFit g tc q.length (dropFwd f (setFwdQueue g tc q s))

/-- The sequence number that a head frame already has. -/
def Head.seqTag (h : Head) : Option (BitVec 16) :=
  match h with
  | .chain _ _ x => x.seqTag
  | .fwd f => f.seqTag

/-- Whether a head frame's copy was launched with both links of its pair down. -/
def Head.dark (h : Head) : Bool :=
  match h with
  | .chain _ _ x => x.dark
  | .fwd f => f.dark

/-- A head frame starts at port g in a stage. -/
def startHead (g tc stage : Nat) (h : Head) (seq : Option (BitVec 16)) (dark : Bool) (s : State) : State :=
  match h with
  | .chain c k x => startChain g tc stage c ((chainOf c k.first s).getD k) x seq dark s
  | .fwd f =>
    let rest := (fwdQueue g tc s).drop 1
    let s := fwdFit g tc rest.length (setFwdQueue g tc rest s)
    takeFrame g { src := .fwd f, tc := tc, bytes := f.bytes, oneStep := f.oneStep, seqTag := seq, dark := dark } s

/-- A selected head frame starts, with what its twin pair asks for. At the launch a link that alone is down gives its port
no copy (R122), and two that are down give both ports one (R123). -/
def startTwin (g tc stage : Nat) (h : Head) (s : State) : State :=
  match pairOfPort g s with
  | none => startHead g tc stage h none false s
  | some p =>
    let mate := p.mate g
    let waits := mateQueued mate tc h s
    let s := if waits && (port g s).linkUp && !(port mate s).linkUp then singleCopy p (dropAt mate tc h s) else s
    match h.seqTag with
    | some n => startHead g tc stage h (some n) h.dark s
    | none =>
      let r := drawSeq p s
      let dark := !(port g s).linkUp && !(port mate s).linkUp
      startHead g tc stage h (some r.1) dark (if waits then tagMate mate tc h r.1 dark r.2 else r.2)

/-! ### The decision (R300) -/

/-- The selection in one stage of a class. -/
def selectIn (g tc stage : Nat) (s : State) : Option Member × Round :=
  serve (fun m => ((headOf g tc m s).map fun h => h.eligible g tc stage s).getD false) (fun m => quantumOf g m s)
    (mgetD {} (roundKey tc stage) (port g s).rounds)

/-- Sets a round of port g. -/
def setRound (g tc stage : Nat) (r : Round) (s : State) : State :=
  modPort g (fun p => { p with rounds := mputD {} (roundKey tc stage) r p.rounds }) s

/-- The first eligible frame among the stages in the order examined is started and charged (R300 to R302). A stage in
which nothing starts keeps the credits and the turn that its loop left. -/
def selectFrom (g : Nat) : List (Nat × Nat) → State → State
  | [], s => s
  | (tc, stage) :: rest, s =>
    match selectIn g tc stage s with
    | (none, r) => selectFrom g rest (setRound g tc stage r s)
    | (some m, r) =>
      match headOf g tc m s with
      | none => s
      | some h =>
        startTwin g tc stage h (setRound g tc stage (r.setCredit m (r.credit m - Int.ofNat (h.txBytes g s))) s)

/-- Classes from the highest down, the committed stage before the excess one. -/
def classOrder : List (Nat × Nat) := [7, 6, 5, 4, 3, 2, 1, 0].flatMap fun tc => [(tc, 0), (tc, 1)]

/-- Chains that lack only a place or log slots at port g ask for them. -/
def askAt (g : Nat) (s : State) : State :=
  (port g s).rounds.foldl (fun s e =>
    e.2.members.foldl (fun s m =>
      match headOf g (e.1 / 2) m.1 s with
      | some (.chain c k _) => if launchNext c k s && !slotsReady c k s then askSlots c k s else s
      | _ => s) s) s

/-- Whether port g may start a data frame now: at a frame boundary, with no pause frame due, out of LPI (R152, R158,
R184, R300). -/
def mayStart (g : Nat) (s : State) : Bool :=
  rowTakes (g / 8) s && portSpeed g s != 0 && fbit (PRT_MAC_CFG.tx_en g) s
    && (port g s).cur.isNone && (port g s).txLpi == 0 && !ctlReady g s

/-- SCHEDULER_DECISION. -/
def execSchedulerDecision (g : BitVec 8) (s : State) : Host.Outcome State Fault Refusal :=
  if live s && mayStart g.toNat s then .next (settle (askAt g.toNat (selectFrom g.toNat classOrder s))) else .next s

/-! ### TX_STAGED (R146, R147, R150, R171, R347) -/

/-- The attributes of an event of the frame a row has taken. -/
def curAttr (g : Nat) (x : TxCur) (s : State) : Attr :=
  match x.src with
  | .chain c first => match chainOf c first s with
    | some k => atPort g { chainAttr c k s with tc := some x.tc }
    | none => atPort g (chanAttr c s)
  | .fwd f => atPort g (fwdAttr x.tc f s)

/-- Whether the CRC of a stored frame is to be compared, and differs (R150). -/
def internalFcsBad (x : TxCur) : Bool :=
  match x.src with
  | .fwd f => f.unmodified && !fcsOk f.bytes
  | .chain _ _ => false

/-- The transmit stamp of a frame that crosses now at port g (R347). -/
def txStamp (g : Nat) (s : State) : Stamp :=
  stampAt (Int.ofNat (crossing s) + adjust28 (fget (ROW_TS_CFG.tx_adj (g / 8)) s))

/-- The frame without FCS as it was queued. -/
def TxCur.body (x : TxCur) : Bytes :=
  match x.src with
  | .chain _ _ => x.bytes
  | .fwd _ => stripFcs x.bytes

/-- The frame with the R-TAG of its sequence number behind the last VLAN tag (R120). -/
def withRtag (seq : Option (BitVec 16)) (bs : Bytes) : Bytes :=
  match seq with
  | none => bs
  | some n => bs.take (tagEnd bs) ++ (beBytes 2 0xF1C1 ++ beBytes 2 0 ++ beBytes 2 n.toNat) ++ bs.drop (tagEnd bs)

/-- The frame padded to 60 bytes, with its FCS (R147). -/
def padded (bs : Bytes) : Bytes := withFcs (bs ++ List.replicate (60 - bs.length) 0)

/-- The frame as the row sends it. -/
def TxCur.wire (x : TxCur) (v6Trailer : Bool) (egress : Stamp) : Bytes :=
  let ingress := match x.src with
    | .fwd f => f.ingress
    | .chain _ _ => {}
  padded (withRtag x.seqTag (x.oneStep.apply v6Trailer egress ingress x.body))

/-- A copy of a chain crosses the row interface with its stamp (R349). -/
def noteCrossing (g : Nat) (x : TxCur) (t : Stamp) (s : State) : State :=
  match x.src with
  | .fwd _ => s
  | .chain c first =>
    modChain c first (fun k =>
      { k with copies := changeCopy g (fun y => { y with stamp := some t, crossed := s.time.dclk }) k.copies }) s

/-- The staged frame starts on the MII. It is counted as tx_during_fault when the fault state is not OK (R151), or
when both links of its pair were down at the launch (R123). -/
def startOnMii (g : Nat) (x : TxCur) (s : State) : State :=
  let a := curAttr g x s
  let t := txStamp g s
  let s := if x.oneStep = .skip then count (.row (g / 8)) 0x20 1 a s else s
  let s := if x.dark || faultState g s != .ok then count (.row (g / 8)) 0x1D 1 a s else s
  takeFrame g { x with onMii := true, stamp := t, crossing := crossing s, crossed := s.time.dclk,
                       rxEn := fbit (PRT_MAC_CFG.rx_en g) s, rxMax := maxFrame g s,
                       bytes := x.wire (fbit (ROW_TS_CFG.v6_trailer (g / 8)) s) t }
    (noteCrossing g x t s)

/-- The row forgets the frame it had taken. -/
def clearCur (g : Nat) (s : State) : State := modPort g (fun p => { p with cur := none }) s

/-- A staged frame whose cellar words cannot be corrected: a port-to-port frame is discarded, and the data of a chain is
read again (R171). -/
def stagedBad (g : Nat) (x : TxCur) (s : State) : State :=
  match x.src with
  | .fwd f => loseFwd x.tc f (count .cellar 0x06 1 (fwdAttr x.tc f s)) (clearCur g s)
  | .chain c first =>
    match chainOf c first s with
    | some k => rereadChain c k s
    | none => clearCur g s

/-- A frame of which no press stage changed a byte fails the internal FCS check (R150). -/
def internalFcs (g : Nat) (x : TxCur) (s : State) : State :=
  let s := count (.row (g / 8)) 0x1C 1 (curAttr g x s) s
  let s := postError 2 12 0x09 (g / 8) 0 (fset (ROW_STAT.internal_fcs (g / 8)) 1 s)
  match x.src with
  | .fwd f => loseFwd x.tc f id (clearCur g s)
  | .chain _ _ => clearCur g s

/-- Whether the data of the frame a row has taken is all in the cellar. -/
def curWhole (x : TxCur) (s : State) : Bool :=
  match x.src with
  | .chain c first => ((chainOf c first s).map Chain.complete).getD true
  | .fwd _ => true

/-- The frame that a row has taken is read from the cellar into staging. -/
def staged (g : Nat) (x : TxCur) (cell : CellarRead) (s : State) : State :=
  let r := readCells cell s
  if !r.2 then stagedBad g x r.1
  else if internalFcsBad x then internalFcs g x r.1
  else startOnMii g x r.1

/-- TX_STAGED. A frame in staging does not start while tx_en is 0 (R152), its class is paused, for its /S/ is not on the MII
(R189), or a pause or PFC frame is to go ahead (R184). -/
def execTxStaged (g : BitVec 8) (cell : CellarRead) (s : State) : Host.Outcome State Fault Refusal :=
  match (port g.toNat s).cur with
  | some x =>
    if live s && !x.onMii && curWhole x s && fbit (PRT_MAC_CFG.tx_en g.toNat) s
        && !paused g.toNat x.tc s && !ctlReady g.toNat s then
      .next (settle (staged g.toNat x cell s))
    else .next s
  | none => .next s

/-! ### FRAME_TRANSMIT_END (R22, R122, R154, R319) -/

/-- Counts gate_overrun of the frame on the MII of port g, once, when the gate of its class is closed (R317, R319). -/
def noteOverrun (g : Nat) (s : State) : State :=
  match (port g s).cur with
  | some x =>
    if x.onMii && !x.overrun && !gateOpen g x.tc s then
      countOverrun g (curAttr g x s) (takeFrame g { x with overrun := true } s)
    else s
  | none => s

/-- A copy of a chain has left its row, or was cut; after the last the chain is sent. -/
def copyEnded (g c : Nat) (first : Word) (s : State) : State :=
  let s := modChain c first (fun k =>
    { k with copies := changeCopy g (fun x => if x.phase = .started then { x with phase := .ended } else x) k.copies }) s
  match chainOf c first s with
  | none => s
  | some k => if k.copies.any TxCopy.open_ then s else progress c (sent c k s)

/-- The source of a frame that has left the row is done with it (R19); the sample of a port-to-port frame ends with
its first copy (R467). -/
def sourceEnded (g : Nat) (x : TxCur) (s : State) : State :=
  match x.src with
  | .fwd f =>
    let s := match f.frame with
      | some id => endFrame id s
      | none => s
    dropFwd f s
  | .chain c first => copyEnded g c first s

/-- A port that loops its words back receives the frame it sent (R154), stamped at its /S/ (R347): the PTP time and the
DCLK count of that crossing. en and most are the rx_en and max_frame in force at its /S/ (R141, R153). The loop is that of
PRT_MAC_CFG.loopback at the end of the frame (DESIGN CHOICE, log entry 53: R154 does not say what a write of loopback does
to a frame between its /S/ and its /T/). -/
def loopBack (g : Nat) (en : Bool) (most : Nat) (bs : Bytes) (t at_ : Nat) (s : State) : State :=
  if fbit (PRT_MAC_CFG.loopback g) s then
    if takesFrames g s then
      rxFrame en most g { bytes := bs, sLane := 0, sfd := 0xD5, miiError := false, stagingFull := false } (rxStampAt g t s) at_ s
    else s
  else modPort g (fun p => { p with lastWire := bs }) s

/-- The frame on the MII of port g ends. isCut says that link loss cut a twinned copy short. -/
def frameEnd (g : Nat) (x : TxCur) (isCut : Bool) (s : State) : State :=
  let s := noteOverrun g s
  let a := curAttr g x s
  let s := if isCut then s
    else count (.row (g / 8)) 0x04 x.bytes.length a (count (.row (g / 8)) 0x03 1 a s)
  let s := sourceEnded g x (clearCur g s)
  if isCut then s else loopBack g x.rxEn x.rxMax x.bytes x.crossing x.crossed s

/-- FRAME_TRANSMIT_END. -/
def execFrameTransmitEnd (g : BitVec 8) (isCut : Bool) (s : State) : Host.Outcome State Fault Refusal :=
  match (port g.toNat s).cur with
  | some x =>
    if live s && x.onMii then
      .next (settle (frameEnd g.toNat x (isCut && (pairOfPort g.toNat s).isSome && !(port g.toNat s).linkUp) s))
    else .next s
  | none => .next s

/-! ### Pause and PFC frames (R181 to R185, R189) -/

/-- The source address of a port's pause and PFC frames. -/
def pauseSa (g : Nat) (s : State) : Bytes :=
  let r := g / 8
  let lo := fget (ROW_PAUSE_SA_LO.sa_lo r) s
  let last := lo % 256 + (if fbit (ROW_PAUSE_SA_HI.add_port r) s then g % 8 else 0)
  beBytes 2 (fget (ROW_PAUSE_SA_HI.sa_hi r) s) ++ beBytes 3 (lo / 256) ++ [BitVec.ofNat 8 last]

/-- The time sent for an asserted priority. -/
def quantaOf (g : Nat) (s : State) : Nat := max 1 (fget (PRT_PFC_CFG.quanta g) s)

/-- The PFC or pause frame that is due at port g (R182, R183). -/
def pauseBytes (g : Nat) (s : State) : Bytes :=
  let q := quantaOf g s
  let due := pfcDue g s
  let head := pauseDa ++ pauseSa g s ++ beBytes 2 0x8808
  if fget (PRT_PFC_CFG.tx_mode g) s = 1 then
    padded (head ++ beBytes 2 0x0101 ++ beBytes 2 due
      ++ (List.range 8).flatMap fun i => beBytes 2 (if due.testBit i && (charge g i s).xoff then q else 0))
  else padded (head ++ beBytes 2 0x0001 ++ beBytes 2 (if anyXoff g s then q else 0))

/-- A due pause or PFC frame is sent at a frame boundary. -/
def sendPause (g : Nat) (s : State) : State :=
  let bs := pauseBytes g s
  let s := modPort g (fun p => { p with due := 0, duePause := false }) s
  loopBack g (fbit (PRT_MAC_CFG.rx_en g) s) (maxFrame g s) bs (crossing s) s.time.dclk
    (count (.row (g / 8)) 0x05 1 { port := some (g % 8) } s)

/-- Whether port g stands at a frame boundary: a frame still in staging has not started (R184). -/
def atBoundary (g : Nat) (s : State) : Bool := ((port g s).cur.map (·.onMii)) != some true

/-- PAUSE_FRAME_TRANSMIT. -/
def execPauseFrameTransmit (g : BitVec 8) (s : State) : Host.Outcome State Fault Refusal :=
  let n := g.toNat
  if live s && rowTakes (n / 8) s && ctlReady n s && atBoundary n s && (port n s).txLpi == 0 then
    .next (settle (sendPause n s))
  else .next s

/-- PAUSE_REFRESH_TIMER: half the quanta time has passed (R183). -/
def execPauseRefreshTimer (g : BitVec 8) (q : BitVec 3) (s : State) : Host.Outcome State Fault Refusal :=
  let n := g.toNat
  if !live s then .next s
  else
    match fget (PRT_PFC_CFG.tx_mode n) s with
    | 1 =>
      if (charge n q.toNat s).xoff && (fget (PRT_PFC_CFG.pfc_tx_en n) s).testBit q.toNat then
        .next (settle (modPort n (fun p => { p with due := p.due ||| BitVec.ofNat 8 (2 ^ q.toNat) }) s))
      else .next s
    | 2 => if anyXoff n s then .next (settle (modPort n (fun p => { p with duePause := true }) s)) else .next s
    | _ => .next s

/-- PAUSE_TIMER_EXPIRY (R189). -/
def execPauseTimerExpiry (g : BitVec 8) (t : PauseTimer) (s : State) : Host.Outcome State Fault Refusal :=
  if !live s then .next s
  else
    match t with
    | .priority q => .next (modPort g.toNat (fun p => { p with pause := setNth q.toNat 0 p.pause }) s)
    | .link => .next (modPort g.toNat (fun p => { p with linkPause := 0 }) s)

end Sys2Proof.Machine
end

