-- ==== Sys2Proof/Machine/GateList.lean ====
section
/-!
DEFINITION. Gate control lists (spec/09): loading an image (R308, R309), committing and cancelling (R310 to R312), the
switch with the tests it calls for (R311, R317, R319), and the change of an entry (R313).
-/

namespace Sys2Proof.Machine

/-! ### Loading (R308, R309) -/

/-- The address of row r's gate list image. -/
def imageAddr (r : Nat) (s : State) : DWord := pairVal (ROW_GATE_IMG_LO.reg r) (ROW_GATE_IMG_HI.reg r) s

/-- A load of row r is refused with a reason: its port has no admin list loaded. -/
def refuseLoad (r g reason : Nat) (s : State) : State :=
  modPort g (fun p => { p with admin := none })
    (modRow r (fun x => { x with gateBusy := false })
      (fset (ROW_GATE_LOAD.reason r) reason (fset (ROW_GATE_LOAD.fault r) 1 s)))

/-- The fields of ROW_GATE_LOAD of row r that a write sets or clears by their type (R11, R12). -/
def gateFields (r : Nat) (data hwSet : Word) (s : State) : State :=
  let fault := hwSet.toNat.testBit 29 || (fbit (ROW_GATE_LOAD.fault r) s && !data.toNat.testBit 29)
  fset (ROW_GATE_LOAD.fault r) (b2n fault)
    (fset (ROW_GATE_LOAD.port r) (bits data.toNat 26 24) (fset (ROW_GATE_LOAD.entries r) (bits data.toNat 10 0) s))

/-- A go to ROW_GATE_LOAD of row r for n entries of port g. -/
def startLoad (r g n : Nat) (s : State) : State :=
  if n = 0 ∨ 1024 < n then refuseLoad r g 2 s
  else if (port g s).pendingGate.isSome then refuseLoad r g 3 s
  else
    let s := modRow r (fun x => { x with gateBusy := true, gatePort := g, gateEntries := n }) s
    (pieces (imageAddr r s) (8 * n)).foldl (fun s p =>
      submitRead (ownerFunc s) (imageAddr r s + BitVec.ofNat 64 p.1) p.2 (.gateImage r) s) s

/-- A write to ROW_GATE_LOAD of row r; while a load runs only its go is ignored (R309). -/
def gateLoad (r : Nat) (data hwSet : Word) (s : State) : State :=
  let t := gateFields r data hwSet s
  if data.toNat.testBit 31 && !(row r s).gateBusy then
    startLoad r (8 * r + bits data.toNat 26 24) (bits data.toNat 10 0) t
  else t

/-- The entries that an image spells, none when an interval is 0 or a RES0 bit is set. -/
def parseGates : Nat → Bytes → Option (List GateEntry)
  | 0, _ => some []
  | n + 1, bs =>
    if leAt 0 4 bs = 0 ∨ bits (leAt 4 4 bs) 31 8 ≠ 0 then none
    else (parseGates n (bs.drop 8)).map fun es => ⟨leAt 0 4 bs, BitVec.ofNat 8 (leAt 4 4 bs)⟩ :: es

/-- The image read of row r ended, none when the fabric reported a fault. -/
def imageDone (r : Nat) (img : Option Bytes) (s : State) : State :=
  let x := row r s
  match img with
  | none => refuseLoad r x.gatePort 1 s
  | some bs =>
    match parseGates x.gateEntries bs with
    | none => refuseLoad r x.gatePort 2 s
    | some es => modPort x.gatePort (fun p => { p with admin := some es }) (modRow r (fun x => { x with gateBusy := false }) s)

/-- Whether a request reads the gate list image of row r. -/
def Req.isImage (r : Nat) (q : Req) : Bool :=
  match q.purpose with
  | .gateImage n => n == r
  | _ => false

/-- GATE_LIST_LOAD. -/
def execGateListLoad (r : BitVec 5) (data : Word) (s : State) : Host.Outcome State Fault Refusal :=
  if regLive s then .next (settle (gateLoad r.toNat data 0 s)) else .next s

/-! ### Commit and cancel (R310 to R312) -/

/-- The cycle in force for a commit of port g, in ticks. -/
def cycleOf (g : Nat) (s : State) : Nat := clamp 800 3200000000 (fget (PRT_GATE_CYCLE.cycle g) s)

/-- The base time of port g in units of 2^-28 ns. -/
def baseOf (g : Nat) (s : State) : Nat :=
  let sec := (pairVal (PRT_GATE_BASE_SEC_LO.reg g) (PRT_GATE_BASE_SEC_HI.reg g) s).toNat
  (sec * 1000000000 + fget (PRT_GATE_BASE_NS.ns g) s) * 2 ^ 28

/-- The start time of a list accepted now: base plus the fewest cycles that bring it 2 us away (R311). -/
def startTime (base cycle now_ : Nat) : Nat :=
  let at_ := now_ + 2000 * 2 ^ 28
  if at_ ≤ base then base else base + (at_ - base + cycle - 1) / cycle * cycle

/-- A commit of port g is refused with a reason. -/
def refuseCommit (g reason : Nat) (s : State) : State :=
  fset (PRT_GATE_STAT.err_reason g) reason (fset (PRT_GATE_STAT.commit_err g) 1 s)

/-- A commit written to PRT_GATE_CFG of port g. -/
def gateCommit (g : Nat) (s : State) : State :=
  match (port g s).admin with
  | none => refuseCommit g 1 s
  | some es =>
    if 999999999 < fget (PRT_GATE_BASE_NS.ns g) s then refuseCommit g 2 s
    else if (row (g / 8) s).gateBusy && (row (g / 8) s).gatePort == g then refuseCommit g 3 s
    else
      let cycle := cycleOf g s
      let l : GateList := { entries := es, cycle := cycle, start := startTime (baseOf g s) (cycle * tick28) (ptpNow s) }
      modPort g (fun p => { p with pendingGate := some l }) s

/-- A cancel written to PRT_GATE_CFG of port g. -/
def gateCancel (g : Nat) (s : State) : State := modPort g (fun p => { p with pendingGate := none }) s

/-- GATE_CANCEL. -/
def execGateCancel (g : BitVec 8) (s : State) : Host.Outcome State Fault Refusal :=
  if regLive s then .next (gateCancel g.toNat s) else .next s

/-! ### The switch (R311, R317 to R319) -/

/-- A launched chain's copy that never fits at port g any more is dropped there (R318). -/
def retestLaunched (g c : Nat) (s : State) : State :=
  match (chan c s).tx.chains with
  | [] => s
  | k :: _ =>
    if k.stage == .launched && k.copies.any fun x => x.port == g && x.noFit s then
      let s := countNofit g (chainAttr c k s) (fset (PRT_GATE_STAT.nofit_seen g) 1 s)
      let s := dropCopy g c k s
      match chainOf c k.first s with
      | some k => if k.copies.any TxCopy.open_ then s else progress c (sent c k s)
      | none => s
    else s

/-- The head chain of channel c meets R317 again. -/
def retestChan (g c : Nat) (s : State) : State :=
  let s := retestLaunched g c s
  match headChain c s with
  | some k => if k.stage == .decided then progress c (modChain c k.first (fun k => { k with tested := false }) s) else s
  | none => s

/-- The channels that stand in a round of port g. -/
def chansAt (g : Nat) (s : State) : List Nat :=
  ((port g s).rounds.flatMap fun r => r.2.members.filterMap fun m => match m.1 with | .chan c => some c | .fwd => none).eraseDups

/-- Every head frame at port g meets R317 again, and the frame on the MII R319. -/
def retest (g : Nat) (s : State) : State :=
  let s := noteOverrun g s
  let s := (List.range 8).foldl (fun s tc => fwdFit g tc (fwdQueue g tc s).length s) s
  (chansAt g s).foldl (fun s c => retestChan g c s) s

/-- The pending list of port g becomes its oper list. -/
def switchList (g : Nat) (l : GateList) (s : State) : State :=
  retest g (modPort g (fun p => { p with oper := some l, pendingGate := none, admin := none }) s)

/-- GATE_LIST_SWITCH: at its start time the pending list becomes the oper list. -/
def execGateListSwitch (g : BitVec 8) (s : State) : Host.Outcome State Fault Refusal :=
  match (port g.toNat s).pendingGate with
  | some l => if live s && l.start ≤ ptpNow s then .next (settle (switchList g.toNat l s)) else .next s
  | none => .next s

/-- GATE_ENTRY_CHANGE: the gate states of the next entry are in force, as PTP time gives them (R313). -/
def execGateEntryChange (g : BitVec 8) (s : State) : Host.Outcome State Fault Refusal :=
  if live s then .next (noteOverrun g.toNat s) else .next s

/-! ### A step of PTP time (R320) -/

/-- The lists whose start the step passed switch, and time_step sets on every port with gates. -/
def gatesStepped (s : State) : State :=
  let s := s.ports.foldl (fun s e =>
    match e.2.pendingGate with
    | some l => if l.start ≤ ptpNow s then switchList e.1 l s else noteOverrun e.1 s
    | none => noteOverrun e.1 s) s
  (List.range 256).foldl (fun s g => if gated g s then fset (PRT_GATE_STAT.time_step g) 1 s else s) s

end Sys2Proof.Machine
end

