-- ==== Sys2Proof/Machine/Assign.lean ====
section
/-!
DEFINITION. Received frames that wait for a channel (R64 to R68, R95, R170, R171, R335, R339): assignment, and the wait
limit (R191 to R193); staging and settling of chains (R173, R494).
-/

namespace Sys2Proof.Machine

/-! ### RECEIVE_ASSIGN -/

/-- The log slots that an item needs on channel c. -/
def logCount (c : Nat) (k : Cover) (s : State) : Nat := if (chan c s).ctx.conf.logEn then k.blocks.length else 0

/-- Reserves the place and the log slots of the frame at the head of channel c's queue and assigns it, or asks for what
is missing (R67, R95, R335). -/
def reserveAssign (c : Nat) (r : RxRef) (n status reason : Nat) (logs : Cover) (s : State) : State :=
  let ring_ := (chan c s).ctx.cring
  let need := logCount c logs s
  if need ≤ (chan c s).log.free (chan c s).ctx.logLog2 then
    match reservePlace ring_ c true r.frame s with
    | (.none, s) => s
    | (p, s) => assignFrame c r n status reason p need (reserveLog c true r.frame need s).2
  else (reserveLog c true r.frame need s).2

/-- The head frame of channel c's queue leaves it unassigned, counted as a cellar event. -/
def dropHead (c code : Nat) (r : RxRef) (s : State) : State :=
  fetchRx c (dropWaiting c code r (modRx c (fun x => { x with queue := x.queue.erase r }) s))

/-- A frame whose buffers are known: the receive unit computes its values twice (R338, R339) and it is assigned. -/
def assignChecked (c : Nat) (r : RxRef) (n : Nat) (v : CvCheck) (s : State) : State :=
  let q := cvOutcome true (chan c s).ctx.conf.rxEn v s
  if q.2 then reserveAssign c r n (deliveredStatus r) 0 (rxLogNeed (chan c q.1) r.bytes) q.1 else q.1

/-- The frame at the head of channel c's queue is read from the cellar and assigned when the posted descriptors decide
about it. -/
def receiveAssign (c : Nat) (cell : CellarRead) (v : CvCheck) (s : State) : State :=
  let ch := chan c s
  match ch.rx.queue with
  | [] => s
  | r :: _ =>
    let d := coverDescs (deliveredLen ch.ctx r.bytes) 0 ch.rx.descs
    if !accepts c s || d == .short || inflightFull c true s then fetchRx c s
    else
      let q := readCells cell s
      if !q.2 then dropHead c 0x06 r q.1
      else
        match d with
        | .covered n => assignChecked c r n v q.1
        | .malformed n reason => reserveAssign c r n 0x40 reason ⟨ch.rx.cv, true, []⟩ q.1
        | .tooMany => reserveAssign c r 32 0x40 6 ⟨ch.rx.cv, true, []⟩ q.1
        | .short => q.1

/-- RECEIVE_ASSIGN. -/
def execReceiveAssign (c : BitVec 13) (cell : CellarRead) (v : CvCheck) (s : State) : Host.Outcome State Fault Refusal :=
  if live s then .next (settle (receiveAssign c.toNat cell v s)) else .next s

/-! ### RX_WAIT_LIMIT (R191 to R193) -/

/-- RX_WAIT_LIMIT. With a limit_us of 0 the frames that could not be assigned at once have left already. -/
def execRxWaitLimit (c : BitVec 13) (id : Nat) (s : State) : Host.Outcome State Fault Refusal :=
  match (chan c.toNat s).rx.queue.find? fun r => r.frame == id with
  | some r =>
    if live s && fget CEL_WAIT_LIMIT.limit_us s != 0 then .next (settle (fetchRx c.toNat (waitLimit c.toNat r s)))
    else .next s
  | none => .next s

/-! ### CHAIN_STAGE and CHAIN_SETTLE (R173, R494) -/

/-- The chain that has waited longest for transmit region cells begins staging when it fits. -/
def stageNext (s : State) : State :=
  match s.cellar.txWaiting with
  | [] => s
  | (c, first) :: rest =>
    match chainOf c first s with
    | none => { s with cellar := { s.cellar with txWaiting := rest } }
    | some k =>
      if k.needs ≤ txFree s then
        enqueueStage c (startStaging c k { s with cellar := { s.cellar with txWaiting := rest } })
      else s

/-- CHAIN_STAGE. -/
def execChainStage (s : State) : Host.Outcome State Fault Refusal :=
  if live s then .next (settle (stageNext s)) else .next s

/-- CHAIN_SETTLE: the head chains of a channel settle, or launch to channels, as far as places are free. -/
def execChainSettle (c : BitVec 13) (s : State) : Host.Outcome State Fault Refusal :=
  if live s then .next (settle (progress c.toNat s)) else .next s

end Sys2Proof.Machine
end

