-- ==== Sys2Proof/Machine/CvuTest.lean ====
section
/-!
DEFINITION. The check-value units beside their streams (spec/10): the software test path (R340) and the timers of the
log ring (R334, R335).
-/

namespace Sys2Proof.Machine

/-- A write to CVU_TEST_CTL: poly and nbytes are kept, and a start begins a block with the held tag (R340). -/
def cvuTestCtl (data : Word) (s : State) : State :=
  let s := fset CVU_TEST_CTL.poly (bits data.toNat 29 28) (fset CVU_TEST_CTL.nbytes (bits data.toNat 2 0) s)
  if data.toNat.testBit 31 then
    let n := bits data.toNat 29 28
    let code := cvCode n
    let tag := pairVal CVU_TEST_TAG_LO.reg CVU_TEST_TAG_HI.reg s
    { s with cvTest := { s.cvTest with
        active := true, poly := n, reg := BitVec.ofNat 64 (code.init ^^^ foldTag code.width tag) } }
  else s

/-- Bytes that a write to CVU_TEST_DATA carries (CVU_TEST_CTL.nbytes). -/
def cvuTestBytes (s : State) : Nat :=
  let n := fget CVU_TEST_CTL.nbytes s
  if 1 ≤ n ∧ n ≤ 4 then n else 4

/-- A write to CVU_TEST_DATA, ignored while no block is active (R340). -/
def cvuTestData (data : Word) (s : State) : State :=
  if s.cvTest.active then
    let bs := leBytes (cvuTestBytes s) data.toNat
    { s with cvTest := { s.cvTest with
        reg := BitVec.ofNat 64 (crcRun (cvCode s.cvTest.poly) s.cvTest.reg.toNat bs) } }
  else s

/-- What CVU_TEST_RES_LO and CVU_TEST_RES_HI return: the value that a block ending now would report; zero before the
first start. -/
def cvuTestResult (s : State) : DWord :=
  if s.cvTest.active then s.cvTest.reg ^^^ BitVec.ofNat 64 (cvCode s.cvTest.poly).xorout else 0

/-- CVU_TEST_START: a write to CVU_TEST_CTL with start 1. -/
def execCvuTestStart (data : Word) (s : State) : Host.Outcome State Fault Refusal :=
  if regLive s then .next (cvuTestCtl (data ||| 0x80000000#32) s) else .next s

/-- CVU_TEST_DATA. -/
def execCvuTestData (data : Word) (s : State) : Host.Outcome State Fault Refusal :=
  if regLive s then .next (cvuTestData data s) else .next s

/-- CVLOG_PROD_TIMER: prod of channel c's log ring is written when records have been written since (R334). -/
def execCvlogProdTimer (c : BitVec 13) (s : State) : Host.Outcome State Fault Refusal :=
  if live s then .next (settle (flushLogProd c.toNat false s)) else .next s

/-- LOG_SLOT_REREAD: cons of channel c's log ring is read again while an item waits for slots (R335). -/
def execLogSlotReread (c : BitVec 13) (s : State) : Host.Outcome State Fault Refusal :=
  if live s && (chan c.toNat s).logWaits then .next (settle (readLogCons c.toNat s)) else .next s

end Sys2Proof.Machine
end

