-- ==== Sys2Proof/Machine/Clock.lean ====
section
/-!
DEFINITION. The PTP clock (spec/11): its advance at an SCLK edge (R341, R342), captures and loads (R343), steps (R344),
and the PPS and trigger pins (R354 to R356).
-/

namespace Sys2Proof.Machine

/-! ### The advance of time (R341, R342) -/

/-- The increment that a value of TIM_INCR acts as (R342). -/
def incrOf (v : Nat) : Nat := clamp 0x10000000 0x18000000 v

/-- Time after one SCLK edge with an increment (R341). -/
def Time.advance (incr : Nat) (t : Time) : Time :=
  let acc := t.frac * 2 ^ 12 + t.sub + incr % 2 ^ 28
  let ns := t.ns + incr / 2 ^ 28 + acc / 2 ^ 28
  let frac := acc / 2 ^ 12 % 2 ^ 16
  let sub := acc % 2 ^ 12
  if 1000000000 ≤ ns then
    { t with ns := ns - 1000000000, sec := (t.sec + 1) % 2 ^ 48, frac := frac, sub := sub, wrapped := true }
  else { t with ns := ns, frac := frac, sub := sub, wrapped := false }

/-- Whether the SCLK domain runs: in service and in dormancy (R346, R402, R403). -/
def clockRuns (s : State) : Bool := s.power.ready && !s.power.halted

/-! ### Captures, loads and steps (R343, R344) -/

/-- Seconds bits 47:32, seconds bits 31:0, nanoseconds, and fraction with sub, as TIM_SEC_HI to TIM_FRAC show them. -/
def Time.words (t : Time) : Word × Word × Word × Word :=
  (BitVec.ofNat 32 (t.sec / 2 ^ 32), BitVec.ofNat 32 t.sec, BitVec.ofNat 32 t.ns,
   BitVec.ofNat 32 (t.frac * 2 ^ 16 + t.sub * 2 ^ 4))

/-- A read of TIM_SEC_HI captures the time and returns its first word. -/
def timeCapture (s : State) : State :=
  let w := s.time.words
  { s with time := { s.time with capHi := w.1, capLo := w.2.1, capNs := w.2.2.1, capFrac := w.2.2.2 }, rdata := w.1 }

/-- Nanoseconds held to their range (TIM_NS, TIM_STEP_NS). -/
def nsField (n : Nat) : Nat := min n 999999999

/-- The time that a load sets, each field held to its range. -/
def Time.loaded (sec ns frac sub : Nat) (t : Time) : Time :=
  { t with sec := sec % 2 ^ 48, ns := nsField ns, frac := frac % 2 ^ 16, sub := sub % 2 ^ 12 }

/-- The load of the held values. -/
def Time.loadHeld (t : Time) : TimeChange :=
  .load (bits t.heldHi.toNat 15 0 * 2 ^ 32 + t.heldLo.toNat) (bits t.heldNs.toNat 29 0)
    (bits t.heldFrac.toNat 31 16) (bits t.heldFrac.toNat 15 4)

/-- A change of PTP time waits for the next SCLK edge (R345). -/
def changeTime (c : TimeChange) (s : State) : State := { s with time := { s.time with next := s.time.next ++ [c] } }

/-- Whether PTP time is at or after the trigger time (R356). -/
def triggerReached (s : State) : Bool :=
  let sec := fget TIM_TRIG_SEC.trig_sec s
  let ns := fget TIM_TRIG_NS.trig_ns s
  let now_ := s.time.sec % 2 ^ 32
  sec < now_ || (sec == now_ && ns ≤ s.time.ns)

/-- The trigger fires (R356, R384). -/
def fireTrigger (s : State) : State :=
  raiseSource 2 (fset TIM_STAT.trig_fired 1 { s with time := { s.time with armed := false, trigOut := true } })

/-- An armed trigger whose time is reached fires. -/
def checkTrigger (s : State) : State := if s.time.armed && triggerReached s then fireTrigger s else s

/-- What follows a step of PTP time: a trigger that it passed fires, and the gates take the new time (R320, R356). -/
def stepped (s : State) : State := gatesStepped (checkTrigger s)

/-- A write of TIM_CTL.load: the time takes the held values at the next SCLK edge (R343). -/
def timeLoad (s : State) : State := changeTime s.time.loadHeld s

/-- The time a step by sec and ns leads to, none below zero (R344). -/
def Time.step (neg : Bool) (sec ns : Nat) (t : Time) : Option Time :=
  if neg then
    let a := t.sec * 1000000000 + t.ns
    let b := sec * 1000000000 + ns
    if a < b then none
    else some { t with sec := (a - b) / 1000000000, ns := (a - b) % 1000000000 }
  else
    let n := t.ns + ns
    some { t with sec := (t.sec + sec + n / 1000000000) % 2 ^ 48, ns := n % 1000000000 }

/-- A write of TIM_ADJ_CTL.step with neg: the time steps at the next SCLK edge (R344). -/
def timeStep (neg : Bool) (s : State) : State :=
  changeTime (.step neg (fget TIM_STEP_SEC.step_sec s) (nsField (fget TIM_STEP_NS.step_ns s)))
    (fset TIM_ADJ_CTL.neg (b2n neg) s)

/-- A write of TIM_INCR: the increment applies from the next SCLK edge (R342). -/
def timeIncr (data : Word) (s : State) : State :=
  changeTime (.incr data.toNat) (fset TIM_INCR.incr data.toNat s)

/-- A change of PTP time takes effect (R342 to R344); a load counts as a step. -/
def applyChange (c : TimeChange) (s : State) : State :=
  match c with
  | .incr v => { s with time := { s.time with incr := incrOf v } }
  | .load sec ns frac sub => stepped { s with time := s.time.loaded sec ns frac sub }
  | .step neg sec ns =>
    match s.time.step neg sec ns with
    | none => fset TIM_STAT.step_err 1 s
    | some t => stepped { s with time := t }

/-- The PPS output asserts at the edge at which ns wrapped to 0; a second that a step skips has no such edge (R355). -/
def ppsEdge (s : State) : State :=
  if s.time.wrapped && fbit TIM_PPS_CFG.pps_out_en s then { s with time := { s.time with ppsOut := true } } else s

/-- One SCLK edge of the PTP clock: time advances, the changes commanded since the last edge become due, and the outputs
compare (R341, R345, R355, R356). -/
def sclkEdge (s : State) : State :=
  let t := s.time.advance s.time.incr
  checkTrigger (ppsEdge { s with time := { t with due := s.time.next, next := [] } })

/-- The changes due take effect once the cycle of their edge is over (R345). -/
def afterEdge (s : State) : State :=
  s.time.due.foldl (fun s c => applyChange c s) { s with time := { s.time with due := [] } }

/-- The register port answers the next access only when the changes of PTP time that it has taken have taken effect (R475,
R488): they take it before that access (DESIGN CHOICE, log entry 78: no cycle passes while commands wait). -/
def portTurn (s : State) : State :=
  let t := s.time
  if !clockRuns s || (t.due ++ t.next).isEmpty then s
  else afterEdge { s with time := { t with due := t.due ++ t.next, next := [] } }

/-- TIME_INCR_WRITE. -/
def execTimeIncrWrite (data : Word) (s : State) : Host.Outcome State Fault Refusal :=
  if regLive s then .next (timeIncr data s) else .next s

/-- TIME_CAPTURE_READ. -/
def execTimeCaptureRead (s : State) : Host.Outcome State Fault Refusal :=
  let s := portTurn s
  if regLive s then .next (timeCapture s) else .next { s with rdata := 0 }

/-- TIME_LOAD. -/
def execTimeLoad (s : State) : Host.Outcome State Fault Refusal :=
  if regLive s then .next (settle (timeLoad s)) else .next s

/-- TIME_STEP. -/
def execTimeStep (neg : Bool) (s : State) : Host.Outcome State Fault Refusal :=
  if regLive s then .next (settle (timeStep neg s)) else .next s

/-- GATE_COMMIT. -/
def execGateCommit (g : BitVec 8) (s : State) : Host.Outcome State Fault Refusal :=
  let s := portTurn s
  if regLive s then .next (gateCommit g.toNat s) else .next s

/-! ### PPS input (R354) -/

/-- A capture of the time by the PPS input (R354, R384). -/
def ppsCapture (s : State) : State :=
  let s := if fbit TIM_STAT.cap_valid s then fset TIM_STAT.cap_ovr 1 s else s
  raiseSource 2 (fset TIM_STAT.cap_valid 1
    (fset TIM_CAP_SEC.cap_sec s.time.sec (fset TIM_CAP_NS.cap_ns s.time.ns s)))

/-- PPS_IN_EDGE: an edge of the PPS input; the edge that in_falling selects captures while pps_in_en is 1. -/
def execPpsInEdge (falling : Bool) (s : State) : Host.Outcome State Fault Refusal :=
  if clockRuns s && fbit TIM_PPS_CFG.pps_in_en s && fbit TIM_PPS_CFG.in_falling s == falling then .next (ppsCapture s)
  else .next s

/-- A read of TIM_CAP_SEC returns the seconds and holds the nanoseconds of the same capture. -/
def captureSecRead (s : State) : State :=
  { s with time := { s.time with capNsHeld := some (regW TIM_CAP_NS.reg s) }, rdata := regW TIM_CAP_SEC.reg s }

/-- A read of TIM_CAP_NS returns the held or the present nanoseconds and clears cap_valid. -/
def captureRead (s : State) : State :=
  let s := { s with rdata := s.time.capNsHeld.getD (regW TIM_CAP_NS.reg s), time := { s.time with capNsHeld := none } }
  fset TIM_STAT.cap_valid 0 s

/-- CAPTURE_READ. -/
def execCaptureRead (s : State) : Host.Outcome State Fault Refusal :=
  let s := portTurn s
  if regLive s then .next (captureRead s) else .next { s with rdata := 0 }

/-! ### PPS and trigger outputs (R355, R356) -/

/-- PPS_OUT_PULSE: ns wrapped to 0 at the SCLK edge just passed, and at no other edge has the command an effect. -/
def execPpsOutPulse (s : State) : Host.Outcome State Fault Refusal :=
  if clockRuns s then .next (ppsEdge s) else .next s

/-- The level of the pin pps_out: out_low sets its polarity. -/
def ppsOutPin (s : State) : Bool := s.time.ppsOut != fbit TIM_PPS_CFG.out_low s

/-- The level of the pin trig_out: trig_low sets its polarity. -/
def trigOutPin (s : State) : Bool := s.time.trigOut != fbit TIM_PPS_CFG.trig_low s

/-- PPS_WIDTH_END: pps_width_ms have passed since the PPS output asserted. -/
def execPpsWidthEnd (s : State) : Host.Outcome State Fault Refusal :=
  if clockRuns s then .next { s with time := { s.time with ppsOut := false } } else .next s

/-- A write to TIM_TRIG_NS: trig_ns is taken, and arm arms the trigger. -/
def writeTrigger (data : Word) (s : State) : State :=
  let s := fset TIM_TRIG_NS.trig_ns data.toNat s
  if data.toNat.testBit 31 then { s with time := { s.time with armed := true } } else s

/-- TRIGGER_ARM: a write to TIM_TRIG_NS with arm 1. -/
def execTriggerArm (data : Word) (s : State) : Host.Outcome State Fault Refusal :=
  let s := portTurn s
  if regLive s then .next (writeTrigger (data ||| 0x80000000#32) s) else .next s

/-- TRIGGER_FIRE: PTP time is at or after the time of an armed trigger. Every SCLK edge makes the same comparison. -/
def execTriggerFire (s : State) : Host.Outcome State Fault Refusal :=
  if clockRuns s then .next (checkTrigger s) else .next s

/-- TRIGGER_WIDTH_END: trig_width_us have passed since the trigger output asserted. -/
def execTriggerWidthEnd (s : State) : Host.Outcome State Fault Refusal :=
  if clockRuns s then .next { s with time := { s.time with trigOut := false } } else .next s

end Sys2Proof.Machine
end

