-- ==== Sys2Proof/Machine/Functions.lean ====
section
/-!
DEFINITION. Functions and events (spec/12): the quiesce of a function from its start to its end (R372 to R379), the
host link (R368, R372), and the event interface (R380 to R385).
-/

namespace Sys2Proof.Machine

/-! ### What a quiesce does to requests (R372) -/

/-- Whether a read is for a block-level structure, which is read again when its function may issue requests. -/
def Purpose.blockRead : Purpose → Bool
  | .liveChan _ => true
  | p => p.chan.isNone

/-- The reads of function f that are outstanding are discarded on arrival; those of block-level structures wait to be
issued again. Reads for channels that are not issued are given up, and so are data writes that are not issued. -/
def quiesceReqs (f : Nat) (s : State) : State :=
  let again := s.fabric.reqs.filter fun r => r.func == f && !r.write && r.port.isSome && !r.discard && r.purpose.blockRead
  let s := discardReqs (fun r => r.func == f && !r.write && (r.port.isSome || !r.purpose.blockRead)) s
  let unissued := fun (r : Req) => match r.purpose with
    | .rxData _ _ => r.func == f && r.write && r.port.isNone
    | _ => false
  let s := { s with fabric := { s.fabric with reqs := s.fabric.reqs.filter fun r => !unissued r } }
  again.foldl (fun s r => submitRead f r.addr r.len r.purpose s) s

/-! ### What a quiesce does to a channel (R82, R375) -/

/-- The channels of function f. -/
def funcChans (f : Nat) (s : State) : List Nat :=
  (s.chans.filter fun e => e.2.ctx.func == f && e.2.state != .disabled).map (·.1)

/-- A chain that is not launched completes with 0x30 (R375, R98). -/
def flushChain (c : Nat) (k : Chain) (s : State) : State :=
  let s := discardReqs (·.isDataOf c k.first) (forgetCopies c k.first s)
  let s := { s with cellar := { s.cellar with txWaiting := s.cellar.txWaiting.erase (c, k.first) } }
  syncChan c (modChain c k.first (fun k => { k with stage := .settling 0x30, copies := [] }) s)

/-- Every chain of channel c that is neither launched nor settling completes with 0x30. -/
def flushChains (c : Nat) (s : State) : State :=
  let s := (chan c s).tx.chains.foldl (fun s k =>
    match k.stage with
    | .launched | .settling _ => s
    | _ => flushChain c k s) s
  settleHeads c (chan c s).tx.chains.length s

/-- A RUNNING, STOPPING or FENCED channel enters QUIESCED for a cause (R82, R375). A START in progress whose context
names the function is rejected, and so is one whose contexts are read for it (R369). -/
def quiesceChan (f : Nat) (cause : QCause) (c : Nat) (s : State) : State :=
  let ch := chan c s
  let s := match ch.startOp with
    | some op =>
      let reading := op.phase == .context || op.phase == .cring
      if (reading && ownerFunc s == f) || (op.phase != .context && op.next.ctx.func == f) then rejectStart c s else s
    | none => s
  if ch.ctx.func == f && ch.writable then
    let s := unwriteChan c (discardFetches c (dropQueued c s))
    let s := modChan c (fun ch => { ch with
      state := .quiesced, left := ch.state, log := { ch.log with consOut := false } }) s
    if cause = .flr then flushChains c s else discardUnlaunched c s
  else if ch.ctx.func == f then modLog c ({ · with consOut := false }) s
  else s

/-- Events of function f that wait are discarded for flr and a host link loss (R375, R382). -/
def quiesceEvents (f : Nat) (cause : QCause) (s : State) : State :=
  if cause = .bme then s
  else { s with events := { s.events with waiting := s.events.waiting.filter fun e => e.func != f } }

/-! ### The end of a drain (R373, R375) -/

/-- The assigned frames of channel c that are not all acknowledged: completed with 0x30 after flr, else kept to be written
again. -/
def drainAssigned (flr : Bool) (c : Nat) (s : State) : State :=
  let ofChan := fun (r : Req) => match r.purpose with | .rxData d _ => d == c | _ => false
  let s := discardReqs ofChan s
  let s := modRx c (fun x => { x with assigned := x.assigned.map fun a =>
    if a.done then a
    else if flr then { a with done := true, writesLeft := 0, entry := { a.entry with status := 0x30 } }
    else { a with writesLeft := 0 } }) s
  deliver c s

/-- The tags and identifiers that function f still holds are quarantined (R373); the entries, records and index copies
among them stay held (R375). -/
def quarantineFunc (f : Nat) (s : State) : State :=
  (s.fabric.reqs.filter fun r => r.func == f && r.port.isSome).foldl (fun s r =>
    let s := { s with fabric := { s.fabric with
      quarantine := s.fabric.quarantine ++ [⟨r.id, r.port.getD 0, r.write, r.addr, r.func, r.purpose⟩] } }
    if r.kept then keepReq r s else dropReq r.id s) s

/-! ### The end of a quiesce (R377) -/

/-- A channel that the quiesce for bme stopped returns to the state it left. -/
def resumeChan (c : Nat) (s : State) : State :=
  let ch := chan c s
  if ch.state != .quiesced then s
  else
    let s := setChan c { ch with state := ch.left } s
    let s := flushBook c (flushIndex c (drainOrAsk ch.ctx.cring s))
    let s := rewriteAssigned c s
    progress c (if ch.left = .running then readRxProd c (readTxProd c (began s) s) else s)

/-- The block-written context fields of a channel go back before it enters STOPPED, or where that was deferred (R40). -/
def endWriteBack (c : Nat) (s : State) : State :=
  let ch := chan c s
  if ch.writeBack then s
  else if ch.state == .quiesced || ch.deferred then writeBack c (setChan c { ch with deferred := false } s)
  else s

/-- The prod_index and stalled writes that the quiesce of owner_func held back are issued (R44). -/
def flushRings (f : Nat) (s : State) : State :=
  if ownerFunc s = f then s.rings.foldl (fun s e => flushRing e.1 s) s else s

/-- The quiesce of function f ends. -/
def endQuiesce (f : Nat) (s : State) : State :=
  let cause := (func f s).cause
  let s := flushRings f (modFunc f (fun x => { x with qState := 0, linkLost := false }) s)
  (funcChans f s).foldl (fun s c =>
    let s := if cause = .bme then resumeChan c s else s
    endWriteBack c s) s

/-- Whether the condition that ends function f's quiesce holds (R377). -/
def quiesceOver (f : Nat) (s : State) : Bool :=
  let x := func f s
  match x.cause with
  | .bme => x.bme && !x.flr && (x.adapterMem || s.fabric.hostUp)
  | .flr => !x.flr && x.bme
  | .link => s.fabric.hostUp && x.bme

/-- Ends the quiesce of function f when its drain has ended and its condition holds. -/
def quiesceCheck (f : Nat) (s : State) : State :=
  if (func f s).qState == 2 && quiesceOver f s then endQuiesce f s else s

/-- The drain of function f ends, by time or because nothing is held (R373). The entries that it leaves unanswered are held
again, and so are their rings (R375, R493). -/
def drainEnd (f : Nat) (byTime : Bool) (s : State) : State :=
  let s := if byTime then
      let s := quarantineFunc f s
      raiseSource 6 (modFunc f (fun x => { x with qTimeout := true }) (s.rings.foldl (fun s e => ringSettled e.1 s) s))
    else s
  let flr := (func f s).cause == .flr
  let s := if (func f s).flrSignal then { s with events := { s.events with flrDone := some f } } else s
  let s := (funcChans f s).foldl (fun s c => drainAssigned flr c s) s
  let s := modFunc f (fun x => { x with qState := 2, flrSignal := false }) s
  let s := (funcChans f s).foldl (fun s c => stopCheck c s) s
  quiesceCheck f s

/-- Ends the drain of function f when every tag and identifier it held has returned (R373). -/
def drainCheck (f : Nat) (s : State) : State :=
  if (func f s).qState == 1 && !holdsTags f s then drainEnd f false s else s

/-! ### The start of a quiesce (R372, R378) -/

/-- The quiesce of function f begins. -/
def startQuiesce (f : Nat) (cause : QCause) (s : State) : State :=
  let s := modFunc f (fun x => { x with qState := 1, cause := cause, flrSignal := cause == .flr,
                                        linkLost := cause == .link, qTimeout := false }) s
  let s := (s.chans.map (·.1)).foldl (fun s c => quiesceChan f cause c s) (quiesceReqs f s)
  drainCheck f (quiesceEvents f cause s)

/-- flr sets (R378). -/
def flrSets (f : Nat) (s : State) : State :=
  let x := func f s
  let cause := if x.cause = .link then QCause.link else QCause.flr
  match x.qState with
  | 0 => startQuiesce f .flr s
  | 1 => quiesceEvents f .flr (setFunc f { x with cause := cause, flrSignal := true } s)
  | _ => drainCheck f (quiesceEvents f .flr (setFunc f { x with qState := 1, cause := cause, flrSignal := true } s))

/-- bme clears. -/
def bmeClears (f : Nat) (s : State) : State := if (func f s).qState == 0 then startQuiesce f .bme s else s

/-- The host link is lost for function f (R378). -/
def linkLost (f : Nat) (s : State) : State :=
  let x := func f s
  if x.qState = 0 then startQuiesce f .link s
  else quiesceEvents f .link (setFunc f { x with cause := .link, linkLost := true } s)

/-! ### FUNCTION_STATE_UPDATE, HOST_LINK_CHANGE -/

/-- Clears intx_pending of function f, with an INTx deassert when it was set (R383). -/
def clearIntx (f : Nat) (s : State) : State :=
  if (func f s).intx then addEvent ⟨.deassert, f, 0⟩ (modFunc f (fun x => { x with intx := false }) s) else s

/-- The endpoint presents a function's state (R368): present, vf, bme, flr and msg_en in bits 4 to 0. Changes act in the
order flr, bme (R378). -/
def funcUpdate (f : Nat) (st : Nat) (s : State) : State :=
  let old := func f s
  let s := setFunc f { old with present := bit st 4, vf := bit st 3, bme := bit st 2, flr := bit st 1, msgEn := bit st 0 } s
  let s := if bit st 0 && !old.msgEn then clearIntx f s else s
  let s := if bit st 1 && !old.flr then flrSets f s else s
  let s := if !bit st 2 && old.bme then bmeClears f s else s
  quiesceCheck f s

/-- The host link goes down or comes up (R372, R377): every function that the endpoint presents and whose memory lies in
the host is quiesced or released. -/
def hostLink (up : Bool) (s : State) : State :=
  if s.fabric.hostUp = up then s
  else
    let s := { s with fabric := { s.fabric with hostUp := up } }
    let fs := (s.funcs.filter fun e => e.2.present).map (·.1)
    if up then
      fs.foldl (fun s f => quiesceCheck f s) (raiseSource 6 (fset FAB_HOST_LINK.return_seen 1 s))
    else
      let s := raiseSource 6 (fset FAB_HOST_LINK.loss_seen 1 (fadd FAB_HOST_LINK.loss_cnt 1 s))
      fs.foldl (fun s f => if (func f s).adapterMem then s else linkLost f s) s

/-- HOST_LINK_CHANGE. The level that the host chip presents while the block does not run is the one that it starts
with. -/
def execHostLinkChange (up : Bool) (s : State) : Host.Outcome State Fault Refusal :=
  if auxPort s then .next (settle (hostLink up s)) else .next { s with fabric := { s.fabric with hostUp := up } }

/-- The change of the host link that comes in the same cycle and waits in the queue. -/
def linkChange (s : State) : Option Bool :=
  s.pending.findSome? fun c => match c with
    | .hostLinkChange up => some up
    | _ => none

/-- FUNCTION_STATE_UPDATE. A change of the host link in the same cycle acts before it (R378). -/
def execFunctionStateUpdate (f : BitVec 12) (st : BitVec 5) (s : State) : Host.Outcome State Fault Refusal :=
  if auxPort s then
    let s := match linkChange s with
      | some up => hostLink up s
      | none => s
    .next (settle (funcUpdate f.toNat st.toNat s))
  else .next s

/-- QUIESCE_DRAIN_TIMEOUT: quiesce_ms have passed since the drain of function f began (R373). -/
def execQuiesceDrainTimeout (f : BitVec 12) (s : State) : Host.Outcome State Fault Refusal :=
  if auxPort s && (func f.toNat s).qState == 1 then .next (settle (drainEnd f.toNat true s)) else .next s

/-- RESET_DRAIN_TIMEOUT: a RESETTING channel enters STOPPED whatever reads are outstanding (R82), after the write-back of
its block-written fields (R40). -/
def execResetDrainTimeout (c : BitVec 13) (s : State) : Host.Outcome State Fault Refusal :=
  let ch := chan c.toNat s
  if live s && ch.state == .resetting && (func ch.ctx.func s).qState != 1 then
    let s := setChan c.toNat { ch with expired := true } s
    .next (settle (if ch.writeBack then s else writeBack c.toNat s))
  else .next s

/-! ### FUNCTION_ABANDON (R379) -/

/-- Whether a request writes held completions, log records or index copies of channel c. -/
def Req.isHeldOf (c : Nat) (r : Req) : Bool :=
  r.write && r.purpose.chan == some c && (match r.purpose with
    | .writeBack _ => false
    | _ => true)

/-- Items of channel c that are not completed, or whose entry is held. -/
def abandonCount (c : Nat) (s : State) : Nat :=
  (chan c s).tx.chains.length + (chan c s).rx.assigned.length + chanBacklog c false s + chanBacklog c true s

/-- The prod of channel c's log ring when the records that wait to be issued are lost: the ring goes on where the first of
them stood. -/
def logBack (c : Nat) (s : State) : Word :=
  (s.fabric.reqs.findSome? fun r =>
    match r.purpose with
    | .logRecord d i => if d = c ∧ r.port.isNone then some i else none
    | _ => none).getD (chan c s).log.prod

/-- Discards the writes of channel c that a link loss has held: no prod waits for them any longer. -/
def discardHeld (c : Nat) (s : State) : State :=
  let s := unwriteChan c s
  let s := s.fabric.reqs.foldl (fun s r =>
    match r.purpose with
    | .entry n e _ i => if e.chan = c then modRing n (fun x => { x with unacked := x.unacked.erase i, memDirty := true }) s else s
    | _ => s) s
  let back := logBack c s
  modChan c (fun ch => { ch with
      idxOut := false, bkOut := false, log := { ch.log with prod := back, unacked := [], prodOut := false } })
    (discardReqs (·.isHeldOf c) s)

/-- The end of the samples of an assigned frame that is discarded (R467, R469). -/
def assignedLost (c : Nat) (a : Assigned) (s : State) : SampleEnd :=
  let x := (chan c s).ctx
  { index := a.first, kind := 1, cring := x.cring, chan := c, status := 0xFF, func := x.func, descAddr := x.rxAddr a.first }

/-- Ends every item of channel c without a completion entry and sets its cellar book to a fresh state. -/
def abandonChan (c : Nat) (s : State) : State :=
  let n := (chan c s).ctx.cring
  let s := endTags (fun t => (t.fin.map fun f => f.chan == c).getD false) (fun t => { t.fin.getD {} with status := 0xFF })
    (discardHeld c s)
  let s := (chan c s).tx.chains.foldl (fun s k => discardChain c k s) s
  let s := (chan c s).rx.assigned.foldl (fun s a =>
    discardRef a.frame (endTags (frameTag a.frame) (fun _ => assignedLost c a s) (releasePlace n a.place s))) (modRx c (fun x => { x with assigned := [] }) s)
  let s := (s.book.pool.filter fun x => x.entry.chan == c && x.slot).foldl (fun s x => releasePlace x.ring .ring s) s
  let s := { s with book := { s.book with pool := s.book.pool.filter fun x => x.entry.chan != c } }
  let s := modChan c (fun ch => { ch with
    state := (if ch.state = .quiesced then .stopped else ch.state)
    idxDirty := false, doneDirty := false, bkDirty := false, keptCv := none, deferred := false
    log := { ch.log with reserved := 0 }
    tx := { ch.tx with prod := 0, accepted := 0, done := 0, fetch := 0, marks := [], partialDescs := [] }
    rx := { ch.rx with prod := 0, taken := 0, done := 0, fetch := 0, marks := [], descs := [] } }) s
  let s := setPoints c {} s
  flushRing n (drainOrAsk n (modChan c (fun ch => { ch with bkDirty := false }) s))

/-- A write of abandon for function f, ignored unless link_lost is 1. -/
def abandon (f : Nat) (s : State) : State :=
  if (func f s).linkLost then
    let cs := funcChans f s
    let n := (cs.map fun c => abandonCount c s).sum
    let s := cs.foldl (fun s c => abandonChan c s) s
    modFunc f (fun x => { x with linkLost := false, abandoned := min 255 (x.abandoned + n) }) s
  else s

/-- FUNCTION_ABANDON, for the function in FAB_FUNC_SEL. -/
def execFunctionAbandon (s : State) : Host.Outcome State Fault Refusal :=
  if regLive s then .next (settle (abandon (fget FAB_FUNC_SEL.function s) s)) else .next s

/-! ### Fabric port restore (R366, R485) -/

/-- A write of restore for port i, which has no effect while fp_ierr is high. -/
def restorePort (i : Nat) (s : State) : State :=
  if s.fabric.ierr.contains i then s
  else { s with fabric := { s.fabric with faulted := s.fabric.faulted.erase i } }

/-- FABRIC_PORT_RESTORE. -/
def execFabricPortRestore (i : BitVec 4) (s : State) : Host.Outcome State Fault Refusal :=
  if regLive s then .next (settle (restorePort i.toNat s)) else .next s

/-! ### Events (R380 to R385) -/

/-- Whether a channel of ring n has a done index, brought by an acknowledged entry, that has not been written (R47). -/
def doneWaits (n : Nat) (s : State) : Bool :=
  s.chans.any fun e => e.2.ctx.cring == n && (e.2.doneDirty ||
    s.fabric.reqs.any fun r => r.purpose == .indexWrite e.1 true && r.port.isNone
      || r.purpose == .indexWrite e.1 false && r.port.isNone)

/-- Whether every write before the index that an event covers is acknowledged. -/
def announced (upTo : Option Word) (unacked : List Word) : Bool :=
  match upTo with
  | none => true
  | some u => unacked.all fun i => (i - u).toNat < 2 ^ 31

/-- Whether what an event announces has been acknowledged (R75, R361), and the done indices of its entries written
(R47). -/
def Event.ready (e : Event) (s : State) : Bool :=
  match e.src with
  | .ring n =>
    let r := Machine.ring n s
    !doneWaits n s && announced r.cover r.unacked
  | .block b => !s.events.gaps.contains b && (b != 4 || announced s.pmu.ring.cover s.pmu.ring.unacked)
  | _ => true

/-- Whether an event can leave the waiting events now: it is announced, and its function does not hold it (R382). -/
def Event.due (e : Event) (s : State) : Bool :=
  let f := Machine.func e.func s
  e.ready s && (f.flr || !f.present || e.src == .deassert || (if f.msgEn then f.bme else !f.vf))

/-- The first event that can leave. A deassert goes first: it follows at once what cleared intx_pending, and no event
folds before it (R383). -/
def nextEvent (s : State) : Option Event :=
  (s.events.waiting.find? fun e => e.src == .deassert && e.due s) <|> s.events.waiting.find? fun e => e.due s

/-- The attributes of an emitted event (R455). -/
def Event.attr (e : Event) (s : State) : Attr :=
  { priv := funcPriv e.func s, func := some e.func, cring := match e.src with | .ring n => some n | _ => none }

/-- Puts an event on the wires (R380). -/
def putEvent (k : EvKind) (e : Event) (s : State) : State :=
  let v := if k = .message then e.vector else 0
  count .fabric 0x19 1 (e.attr s)
    (fadd EVT_STAT.evt_cnt 1 { s with events := { s.events with out := some (k, e.func, v), stall := false } })

/-- The marks that an event leaves behind when it goes: its ring covers nothing more, and its block source keeps its
spacing (R384). -/
def leaveEvent (e : Event) (s : State) : State :=
  let s := { s with events := { s.events with waiting := s.events.waiting.erase e } }
  match e.src with
  | .ring n => modRing n (fun r => { r with cover := none }) s
  | .block b =>
    let s := if b = 4 then modSampleRing ({ · with cover := none }) s else s
    if fget EVT_CTL.blk_gap_us s = 0 then s
    else { s with events := { s.events with gaps := s.events.gaps ++ [b] } }
  | _ => s

/-- Emits, folds or discards one event (R382, R383). -/
def emitEvent (e : Event) (s : State) : State :=
  let f := func e.func s
  let s := leaveEvent e s
  if f.flr || !f.present then s
  else if e.src = .deassert then putEvent .intxDeassert e s
  else if f.msgEn then putEvent .message e s
  else if f.intx then s
  else putEvent .intxAssert e (modFunc e.func (fun x => { x with intx := true }) s)

/-- EVENT_EMIT: one MCLK cycle of the event interface; ready says that the endpoint takes an event. -/
def execEventEmit (ready : Bool) (s : State) : Host.Outcome State Fault Refusal :=
  if auxPort s && fbit EVT_CTL.en s then
    match nextEvent s with
    | none => .next { s with events := { s.events with stall := false } }
    | some e =>
      if ready then .next (emitEvent e s) else .next { s with events := { s.events with stall := true } }
  else .next s

/-- The event that folds into function f's summary in this cycle: the one that leaves next (R382). -/
def foldingEvent (f : Nat) (s : State) : Option Event :=
  if fbit EVT_CTL.en s then
    (nextEvent s).filter fun e =>
      e.func == f && e.src != .deassert && (func f s).present && !(func f s).flr && !(func f s).msgEn
  else none

/-- A write of ack for function f. fold says that the event interface takes its next event in the same cycle: where that
event folds into the function's summary, intx_pending stays 1 and no deassert is emitted (R383). -/
def ackIntx (f : Nat) (fold : Bool) (s : State) : State :=
  match if fold then foldingEvent f s else none with
  | some e => emitEvent e s
  | none => clearIntx f s

/-- INTX_ACK: a write to EVT_INTX_CFG with ack 1 and func f. -/
def execIntxAck (f : BitVec 12) (fold : Bool) (s : State) : Host.Outcome State Fault Refusal :=
  if regLive s then .next (ackIntx f.toNat fold (fset EVT_INTX_CFG.func f.toNat s)) else .next s

/-- A forced event (R385). -/
def forceEvent (f v : Nat) (s : State) : State :=
  addEvent ⟨.force, f, v⟩ (fset EVT_FORCE.vector v (fset EVT_FORCE.function f s))

/-- EVENT_FORCE. -/
def execEventForce (f : BitVec 12) (v : BitVec 11) (s : State) : Host.Outcome State Fault Refusal :=
  if regLive s then .next (forceEvent f.toNat v.toNat s) else .next s

/-- BLOCK_EVENT_GAP: blk_gap_us have passed since the last event of a source (R384). -/
def execBlockEventGap (b : BitVec 3) (s : State) : Host.Outcome State Fault Refusal :=
  if auxPort s then .next { s with events := { s.events with gaps := s.events.gaps.filter (· != b.toNat) } } else .next s

end Sys2Proof.Machine
end

