-- ==== Sys2Proof/Machine/Power.lean ====
section
/-!
DEFINITION. Power and reset (spec/13, spec/03): power-on reset (R391 to R393, R109 to R112), block soft reset (R394 to
R397, R471 to R474), drains (R105, R106), losses of supply (R107, R108, R389), and the press clock windows (R398,
R399).
-/

namespace Sys2Proof.Machine

/-! ### Registers that a reset keeps (R393, R396, R471, R472) -/

/-- Whether an offset lies in the AUX region. -/
def isAux (a : Nat) : Bool := 0x90000 ≤ a && a < 0xA0000

/-- Whether a register's stored bits survive a block soft reset: domains S, V and A (R471). Of MGT_CORE_STAT only fields
that report the cellarmaster's state survive, and its event bits do not (R396, R473). -/
def softKept (a : Nat) : Bool :=
  match findSpec a with
  | none => false
  | some r =>
    match r.dom with
    | .s | .a => true
    | .v => a != MGT_CORE_STAT.reg.off
    | _ => false

/-! ### Losing the core (R107, R480) -/

/-- The fault state that each port's receive words present outlasts a reset. -/
def portsReset (m : SMap Port) : SMap Port := trim {} (m.map fun e => (e.1, { fault := e.2.fault }))

/-- The retention book as its macros keep it over a power-on reset: the points and the pending entries, among them those
whose write was not issued, which hold no ring slot any more (R107, R473). -/
def Book.kept (b : Book) : Book := { points := b.points, pool := b.pool.map fun e => { e with slot := false } }

/-- The core loses its state: power-on reset is held until it is released (R480). The aux island, the retention book
while VDDS keeps it, and the levels that the host chip presents stay. -/
def coreLost (s : State) : State :=
  { State.reset with
    pending := s.pending
    rdata := s.rdata
    regs := s.regs.filter fun e => isAux e.1
    book := if s.power.vddsKept then (unwriteAll s).book.kept else {}
    ports := portsReset s.ports
    fabric := { nextId := s.fabric.nextId, hostUp := s.fabric.hostUp, ierr := s.fabric.ierr }
    aux := { s.aux with drainBusy := false, dormRet := false }
    power := { vddsKept := s.power.vddsKept, clean := s.power.clean, halted := s.power.halted, source := s.power.source }
    time := { dclk := s.time.dclk }
    freeCount := s.freeCount
    serial := s.serial }

/-- POWER_ON_RESET_ASSERT: por_n falls while the supplies stay in range (R480). -/
def execPowerOnResetAssert (s : State) : Host.Outcome State Fault Refusal :=
  if s.power.por then .next s else .next (coreLost s)

/-! ### SUPPLY_LOSS, VAUX_LOSS, VAUX_RESTORE (R107, R108, R389) -/

/-- A supply left its range: unless the block has halted after a drain, the aux image is not valid (R107). -/
def imageLost (s : State) : State :=
  if s.power.halted then s
  else { s with aux := { s.aux with imageValid := false }, power := { s.power with clean := false } }

/-- VDD left its range, noted by the aux island while VAUX is present. -/
def vddLost (s : State) : State :=
  if s.aux.vaux && s.aux.vdd then fset AUX_SUPPLY_STAT.vdd_lost 1 (fadd AUX_SUPPLY_STAT.vdd_loss_cnt 1 s) else s

/-- A supply changes its level. VDDS in the range that keeps SRAM contents has not left its range for R107. VDD has no
such range of its own. -/
def supplyChange (x : Supply) (l : SupplyLevel) (s : State) : State :=
  match x, l with
  | .vdd, .operating => { s with aux := { s.aux with vdd := true } }
  | .vdd, _ => coreLost { vddLost (imageLost s) with aux := { (vddLost (imageLost s)).aux with vdd := false } }
  | .vdds, .out =>
    let s := imageLost s
    coreLost { s with aux := { s.aux with vdds := .out }, power := { s.power with vddsKept := false } }
  | .vdds, l => { s with aux := { s.aux with vdds := l } }

/-- VAUX leaves its range: image_valid clears and a unit entry is posted (R108, R420). -/
def vauxLoss (s : State) : State :=
  if !s.aux.vaux then s
  else
    let s := { s with aux := { s.aux with vaux := false, imageValid := false, dormRet := false } }
    let s := if s.aux.vdd then fset AUX_SUPPLY_STAT.vaux_low 1 s else s
    if s.power.ready && !s.power.halted then postError 2 12 0x0C 0 0 s else s

/-- VAUX_LOSS. -/
def execVauxLoss (s : State) : Host.Outcome State Fault Refusal := .next (vauxLoss s)

/-- VAUX enters its range after absence: the aux island starts cold (R389), with its registers at their reset values. -/
def vauxRestore (s : State) : State :=
  if s.aux.vaux then s
  else { s with
    regs := s.regs.filter fun e => !isAux e.1
    aux := { vdd := s.aux.vdd, vdds := s.aux.vdds, rclk := s.aux.rclk, drainBusy := s.aux.drainBusy } }

/-- VAUX_RESTORE. -/
def execVauxRestore (s : State) : Host.Outcome State Fault Refusal := .next (vauxRestore s)

/-! ### POWER_ON_RESET (R391, R393, R109, R111) -/

/-- The source that the block selects: 0 retention book, 1 aux image, 2 index-block copies (R109). -/
def selectSource (s : State) : Nat :=
  if s.power.vddsKept then 0 else if s.aux.imageValid then 1 else 2

/-- The retention book, as step 3 prepares it from the selected source (R111). -/
def prepareBook (src : Nat) (s : State) : Book :=
  match src with
  | 0 => s.book
  | 1 => { points := s.aux.image.points, pool := s.aux.image.pending.map fun e => { e with slot := false } }
  | _ => {}

/-- Completion rings after power-on reset: each resumes at the prod_index of the aux image (R114). -/
def prepareRings (src : Nat) (s : State) : SMap Ring :=
  if src = 1 then trim {} (s.aux.image.prods.map fun e => (e.1, { prod := e.2, prodKept := true })) else []

/-- The key-load port closes: words presented without a commit are erased (R441, R489). -/
def closePort (a : Aux) : Aux := { a with portOpen := false, keys := a.keys.map fun k => { k with words := [] } }

/-- Power-on reset is released: the block is cleared, selects its source and becomes ready. -/
def powerOn (s : State) : State :=
  let src := selectSource s
  let book := prepareBook src s
  let rings := prepareRings src s
  let lossy := src == 0 && !s.power.clean
  let s := coreLost s
  { s with
    book := book, rings := rings
    engine := { lfsr := Sys2Proof.Config.evictDraw s.freeCount }, freeCount := s.freeCount + 1
    aux := closePort { s.aux with
      vdd := true, vdds := .operating, rclk := true, imageValid := false, source := src, indets := [] }
    power := { por := false, ready := true, initBusy := false, vddsKept := true, source := src, lossy := lossy } }

/-! ### Block soft reset (R395, R396, R472, R473) -/

/-- A channel over a soft reset: DISABLED, with what the block keeps on it for its next START (R112, R116); prod is
where its log ring goes on. -/
def Chan.softReset (ch : Chan) (prod : Word) : Chan :=
  { resumed := ch.resumed, epoch := ch.epoch, log := { prod := prod, cons := ch.log.cons } }

/-- A row over a soft reset: disabled, with the twin generators and recovery histories (R396). -/
def Row.softReset (x : Row) : Row :=
  { txSeq := x.txSeq, recovSeq := x.recovSeq, hist := x.hist, takeAny := x.takeAny }

/-- A function as the endpoint goes on presenting it. -/
def Func.softReset (x : Func) : Func :=
  { present := x.present, vf := x.vf, bme := x.bme, flr := x.flr, msgEn := x.msgEn }

/-- The table engine keeps its vintages and its eviction generator (R472). -/
def Engine.softReset (e : Engine) : Engine := { vintage := e.vintage, vintages := e.vintages, lfsr := e.lfsr }

/-- The reads of a firmware image over a soft reset: the cellarmaster goes on with its pass, whose reads wait to be issued
again (R473). -/
def keptReads (s : State) : List Req :=
  (s.fabric.reqs.filter fun r => r.purpose == .fwImage && !r.discard).map fun r =>
    { r with port := none, reissued := false, left := none }

/-- Steps 3 and 4 of R395: units and registers take what R396 leaves. -/
def softResetState (escalated : Bool) (s : State) : State :=
  let s := unwriteAll s
  let flrDone := (s.funcs.find? fun e => e.2.flrSignal).map (·.1)
  let r : State := { s with
    regs := s.regs.filter fun e => softKept e.1
    pairHeld := [], pairCap := []
    chans := trim {} (s.chans.map fun e => (e.1, e.2.softReset (logBack e.1 s)))
    rings := trim {} ((s.rings.filter fun e => e.2.prodKept).map fun e => (e.1, { prod := e.2.prod, prodKept := true }))
    book := { s.book with pool := s.book.pool.map (fun e => { e with slot := false }), poolReserved := 0 }
    cellar := { nextFrame := s.cellar.nextFrame, spare0 := s.cellar.spare0, spare1 := s.cellar.spare1 }
    rows := trim {} (s.rows.map fun e => (e.1, e.2.softReset))
    ports := portsReset s.ports
    presses := []
    engine := s.engine.softReset
    fabric := { reqs := keptReads s, nextId := s.fabric.nextId, hostUp := s.fabric.hostUp, ierr := s.fabric.ierr }
    funcs := trim {} (s.funcs.map fun e => (e.1, e.2.softReset))
    events := { flrDone := flrDone }
    time := { dclk := s.time.dclk, sec := s.time.sec, ns := s.time.ns, frac := s.time.frac, sub := s.time.sub,
              heldHi := s.time.heldHi, heldLo := s.time.heldLo, heldNs := s.time.heldNs, heldFrac := s.time.heldFrac,
              capHi := s.time.capHi, capLo := s.time.capLo, capNs := s.time.capNs, capFrac := s.time.capFrac }
    cvTest := {}
    errors := {}
    racking := { isolated := s.racking.isolated }
    cm := { s.cm with slowQ := [], winSlow := 0, winCmd := 0, winDrop := false, winRan := false }
    mgmt := {}
    pmu := { resetAt := s.time.dclk }
    power := { s.power with
      resetBusy := false, drain := none, softCnt := min 0xFFFF (s.power.softCnt + 1), cause := if escalated then 2 else 1
      escalatedAt := if escalated then some s.time.dclk else s.power.escalatedAt
      escalation := none, resetAfterRack := none } }
  fset TBL_LEARN_CFG.mode (fget TBL_LEARN_CFG.mode s)
    (fset TBL_LEARN_STAT.diverged (fget TBL_LEARN_STAT.diverged s) r)

/-- The end of a block soft reset. After an escalated one the first record posted has code 0x12 and names the error that
caused it (R423). -/
def softResetEnd (escalated : Bool) (s : State) : State :=
  let r := softResetState escalated (portTurn s)
  match s.power.escalation with
  | some (code, unit) => if escalated then postError 3 11 0x12 0 (code * 2 ^ 16 + unit) r else r
  | none => r

/-- A soft reset that the register port asks for (R394, R397). -/
def softReset (key : Nat) (s : State) : State :=
  if key != 0xA5 then fset GLB_STATUS.key_err 1 s
  else if s.power.resetBusy || s.power.dorm != 0 then fset GLB_STATUS.reset_refused 1 s
  else startSoftReset false s

/-- SOFT_RESET: a write of GLB_RESET_CTL with soft_reset 1 and a key. -/
def execSoftReset (key : Byte) (s : State) : Host.Outcome State Fault Refusal :=
  let s := portTurn s
  if auxPort s then .next (settle (softReset key.toNat s)) else .next s

/-! ### Drains (R105, R106) -/

/-- Copies the retention book, the prod_index of every ring and the pending entries to the aux store, and sets
image_valid (steps 6 and 7 of R105). -/
def writeImage (s : State) : State :=
  let t := unwriteAll s
  { s with
    aux := { s.aux with
      image := { points := t.book.points, prods := trim 0 (t.rings.map fun e => (e.1, e.2.prod)), pending := t.book.pool }
      imageValid := true, drainBusy := false }
    power := { s.power with clean := true } }

/-- Whether a drain finishes a request: a completion entry, an index block write, a prod, a log record, the write-back of
check-value state, or the re-read of a cons_index (R105 step 4, R97). -/
def Purpose.ofDrain : Purpose → Bool
  | .entry _ _ _ _ | .indexWrite _ _ | .bookCopy _ _ | .ringProd _ | .logRecord _ _ | .logProd _ | .writeBack _
  | .consIndex _ => true
  | _ => false

/-- Whether a request that a drain finishes is outstanding, or can still be issued. -/
def drainWaits (s : State) : Bool :=
  s.fabric.reqs.any fun r => r.purpose.ofDrain && !r.discard && (r.port.isSome ||
    (fbit FAB_CTL.en s && mayIssue r.func s && !entryHeld r s && !(svcPorts none s).isEmpty))

/-- Whether every launched frame has finished, every assigned frame that may write is delivered, and what a drain
writes is written (R105 steps 2 to 4). -/
def drained (s : State) : Bool :=
  !drainWaits s && s.chans.all fun e =>
    e.2.tx.chains.all (fun k => k.stage != .launched) && (e.2.rx.assigned.isEmpty || e.2.state == .quiesced)

/-- The drain ends: the image is written, and a halt or the reset follows (R105, R106, R395). Without VAUX it cannot end,
which the error queue reports (R108). -/
def drainDone (c : DrainCause) (s : State) : State :=
  if !s.aux.vaux then postError 2 12 0x0C 0 0 s
  else
    let s := writeImage s
    match c with
    | .powerFail => { s with power := { s.power with halted := true, drain := none } }
    | .softReset e => softResetEnd e s

/-- DRAIN_COMPLETE. -/
def execDrainComplete (s : State) : Host.Outcome State Fault Refusal :=
  match s.power.drain with
  | some c => if drained s then .next (drainDone c s) else .next s
  | none => .next s

/-- The power-fail warning asserts (R105, R403, R409, R481): a drain starts, or the drain of a soft reset goes on and ends
in a halt, or a dormant block halts at once. -/
def powerFail (s : State) : State :=
  let s := fset AUX_BOOK_STAT.pfail_seen 1 s
  if s.power.dorm = 3 then { s with power := { s.power with halted := true } }
  else if s.power.drain.isSome then { s with power := { s.power with drain := some .powerFail } }
  else
    startDrain .powerFail { s with power := { s.power with dorm := 0, dormWaits := false } }

/-- POWER_FAIL_WARNING. -/
def execPowerFailWarning (s : State) : Host.Outcome State Fault Refusal :=
  if s.power.ready && !s.power.halted then .next (settle (powerFail s)) else .next s

/-! ### Press clock windows (R398, R399) -/

/-- Lane slots of press k in a window of 10 us at its clock. -/
def windowSlots (k : Nat) (s : State) : Nat := 8 * (16000 / 2 ^ (press k s).div)

/-- U in whole per cent, a part of a per cent shown as the free value says. -/
def usePct (dealt slots : Nat) : Nat :=
  let n := dealt * 100
  n / slots + (if n % slots = 0 then 0 else b2n (Sys2Proof.Config.pctUp dealt slots))

/-- Whether the window of press k lets it step down (R398). -/
def windowLow (k : Nat) (s : State) : Bool :=
  let down := min (fget GLB_THROTTLE_CFG.down_pct s) 100
  let up := clamp 1 100 (fget GLB_THROTTLE_CFG.up_pct s)
  down < up && 2 * (press k s).winDealt * 100 ≤ down * windowSlots k s

/-- A window of press k ends. -/
def throttleWindow (k : Nat) (s : State) : State :=
  let p := press k s
  let slots := windowSlots k s
  let s := fset (PRS_CLK_STAT.use_pct k) (min (usePct p.winDealt slots) 100) s
  let high := clamp 1 100 (fget GLB_THROTTLE_CFG.up_pct s) * slots ≤ p.winDealt * 100
  let run := if windowLow k s then p.downRun + 1 else 0
  let s := modPress k (fun p => { p with winDealt := 0, downRun := run }) s
  if !throttles k s then s
  else if high then triggerUp k false s
  else if !p.stepUp && p.div < 2 && max 1 (fget GLB_THROTTLE_CFG.down_win s) ≤ run then setDiv k (p.div + 1) s
  else s

/-- THROTTLE_WINDOW_END. -/
def execThrottleWindowEnd (k : Fin 5) (s : State) : Host.Outcome State Fault Refusal :=
  if live s then .next (throttleWindow k.val s) else .next s

/-- PRESS_CLOCK_SWITCH: a triggered step up completes (R399). -/
def execPressClockSwitch (k : Fin 5) (s : State) : Host.Outcome State Fault Refusal :=
  if live s && (press k.val s).stepUp then .next (setDiv k.val 0 (fadd GLB_THROTTLE_STAT.up_cnt 1 s)) else .next s

end Sys2Proof.Machine
end

