-- ==== Sys2Proof/Machine/Dormancy.lean ====
section
/-!
DEFINITION. Dormancy (spec/13): entry (R401, R402), the wake and its sources (R406 to R409), sentinel captures and their
match against the wake patterns (R404, R405).
-/

namespace Sys2Proof.Machine

/-! ### Entry (R401, R402) -/

/-- Whether an enabled sentinel names a port of a disabled row or one whose speed is off. -/
def badSentinel (s : State) : Bool :=
  (List.range 8).any fun i =>
    (fget AUX_SENTINEL_CFG.en s).testBit i &&
      (let g := ((s.aux.sentinels[i]?).map (·.port)).getD 0
       (row (g / 8) s).state == 0 || portSpeed g s == 0)

/-- Whether no wake source can wake the block. -/
def noWakeSource (s : State) : Bool :=
  !fbit AUX_WAKE_CFG.host_en s && !fbit AUX_WAKE_CFG.button_en s && !fbit AUX_WAKE_CFG.pattern_en s
    && (fget GLB_DORM_CTL.timer_ms s == 0 || !fbit AUX_WAKE_CFG.timer_en s)

/-- The reason for which dormancy is refused. -/
def dormRefusal (s : State) : Option Nat :=
  if s.chans.any fun e => e.2.active then some 1
  else if s.racking.state != 0 then some 2
  else if s.power.drain.isSome || s.power.resetBusy || s.power.dorm != 0 then some 3
  else if !s.aux.vaux then some 4
  else if noWakeSource s then some 5
  else if badSentinel s then some 6
  else none

/-- A write of GLB_DORM_CTL.enter. -/
def dormEnter (s : State) : State :=
  match dormRefusal s with
  | some r => fset GLB_DORM_STAT.refuse_reason r (fset GLB_DORM_STAT.refused 1 s)
  | none => { s with power := { s.power with dorm := 1, dormWaits := false } }

/-- The fields drain_us and timer_ms of a write to GLB_DORM_CTL. -/
def dormFields (data : Word) (s : State) : State :=
  fset GLB_DORM_CTL.drain_us (bits data.toNat 23 16) (fset GLB_DORM_CTL.timer_ms (bits data.toNat 15 0) s)

/-- DORMANCY_ENTER: a write to GLB_DORM_CTL with enter 1. -/
def execDormancyEnter (data : Word) (s : State) : Host.Outcome State Fault Refusal :=
  if auxPort s then .next (dormEnter (dormFields data s)) else .next s

/-- Frames that the block still holds. -/
def heldFrames (s : State) : Nat :=
  let noCell := fun (f : FwdItem) => f.frame.isNone
  s.cellar.frames.length + (s.ports.map fun e => (e.2.queues.map fun q => (q.2.filter noCell).length).sum).sum

/-- Every remaining frame and slow-path frame is discarded and counted; the xoff states follow (R402 step 2). -/
def discardFrames (s : State) : State :=
  let n := heldFrames s
  let s := s.cellar.frames.foldl (fun s e => endFrame e.1 s) (fadd GLB_DORM_STAT.dorm_discard n s)
  let s := { s with
    cellar := { s.cellar with
      frames := [], txUsed := 0, txWaiting := []
      charges := trim {} (s.cellar.charges.map fun e => (e.1, { xoff := e.2.xoff })) }
    ports := trim {} (s.ports.map fun e => (e.1, { e.2 with queues := [], rounds := [], cur := none }))
    presses := trim {} (s.presses.map fun e => (e.1, { e.2 with waiting := [], window := [] }))
    cm := { s.cm with slowQ := [] } }
  evalXoff s

/-- The cellar holds no frame: the book goes to the aux store, clocks stop, and the block is dormant (R402 steps 3 to
6). Without VAUX the book cannot be copied (R108). -/
def dormSleep (s : State) : State :=
  if !s.aux.vaux then postError 2 12 0x0C 0 0 s
  else
    let s := writeImage s
    { s with aux := { s.aux with dormRet := true }, power := { s.power with dorm := 3 } }

/-- DORMANCY_QUIESCE_END; frames in reception finish before it (R402 step 1). -/
def execDormancyQuiesceEnd (s : State) : Host.Outcome State Fault Refusal :=
  if s.power.dorm == 1 && live s then .next (dormSleep (discardFrames (admitArrivals s))) else .next s

/-! ### Wake (R406 to R409) -/

/-- The rows of a waking block reset their MAC state and start row_round at cycle 0 (R407 step 4, R162). -/
def wakeRows (s : State) : State :=
  s.rows.foldl (fun s e => if e.2.state == 2 then enableRow e.1 s else s) s

/-- The presses start at RCLK/8 and throttle from there, or run at a fixed divisor (R407 step 3, R400). -/
def wakePresses (s : State) : State :=
  applyDivs ((List.range 5).foldl (fun s k => restartWindow k (modPress k (fun p => { p with div := 2, stepUp := false }) s)) s)

/-- Rows take /S/ again and block source 3 raises an event (R407 step 5). -/
def wakeEnd (s : State) : State :=
  raiseSource 3 (wakeRows (wakePresses { s with power := { s.power with dorm := 0, dormWaits := false } }))

/-- A wake event, whose source is recorded before: it ends an entry at once, or wakes the dormant block, which waits for
VDDS in its operating range (R407 to R409). -/
def wake (s : State) : State :=
  if s.power.dorm = 1 then raiseSource 3 { s with power := { s.power with dorm := 0 } }
  else if s.power.dorm = 3 then
    let s := { s with aux := { s.aux with dormRet := false } }
    if s.aux.vdds = .operating then wakeEnd s
    else { s with power := { s.power with dorm := 4, dormWaits := true } }
  else s

/-- Whether a wake event may be taken: the aux island and the core run, in a state of dormancy that an event leaves. -/
def canWake (s : State) : Bool :=
  s.power.ready && !s.power.halted && s.aux.vaux && (s.power.dorm == 1 || s.power.dorm == 3)

/-- A source of a wake (R406). -/
inductive WakeSource where
  | host
  | timer
  | button (cage : Nat)
  | pattern (sentinel slot : Nat)
  deriving DecidableEq, Repr

/-- The lower of a number and the one named before, if there is one. -/
def lowest (old : Option Nat) (n : Nat) : Nat := (old.map fun m => min m n).getD n

/-- Records a source of the wake w in GLB_WAKE_SRC; of several cages, sentinels or slots the lowest is named (R406). -/
def recordWake (w : Woke) (x : WakeSource) (s : State) : State :=
  let put := fun (w : Woke) (s : State) => { s with aux := { s.aux with woke := some w } }
  match x with
  | .host => put w (fset GLB_WAKE_SRC.host 1 s)
  | .timer => put w (fset GLB_WAKE_SRC.timer 1 s)
  | .button c =>
    let c := lowest w.cage c
    put { w with cage := some c } (fset GLB_WAKE_SRC.cage c (fset GLB_WAKE_SRC.button 1 s))
  | .pattern i n =>
    let i := lowest w.sentinel i
    let n := lowest w.slot n
    put { w with sentinel := some i, slot := some n }
      (fset GLB_WAKE_SRC.slot n (fset GLB_WAKE_SRC.sentinel i (fset GLB_WAKE_SRC.pattern 1 s)))

/-- A wake event: it is recorded and wakes the block, or is one more source of the wake that began in the same DCLK
cycle (R406). -/
def wakeEvent (x : WakeSource) (s : State) : State :=
  if canWake s then wake (recordWake { at_ := s.time.dclk, asleep := s.power.dorm == 3 } x s)
  else
    match s.aux.woke with
    | some w => if w.at_ = s.time.dclk ∧ auxPort s ∧ s.aux.vaux then recordWake w x s else s
    | none => s

/-- A write of GLB_DORM_CTL.wake. -/
def hostWake (s : State) : State :=
  if auxPort s && fbit AUX_WAKE_CFG.host_en s then wakeEvent .host s else s

/-- HOST_WAKE. -/
def execHostWake (s : State) : Host.Outcome State Fault Refusal := .next (settle (hostWake s))

/-- WAKE_TIMER: timer_ms have passed since the block became dormant. It is recorded beside another source that has woken the
block from there in the same DCLK cycle (R406). -/
def execWakeTimer (s : State) : Host.Outcome State Fault Refusal :=
  let slept := s.power.dorm == 3 || s.aux.woke.any fun w => w.asleep && w.at_ == s.time.dclk
  if auxPort s && slept && s.aux.rclk && fbit AUX_WAKE_CFG.timer_en s
      && fget GLB_DORM_CTL.timer_ms s != 0 then
    .next (settle (wakeEvent .timer s))
  else .next s

/-- WAKE_VDDS_RETURN: vdds_ok reads 1 after step 4 of the wake (R408). -/
def execWakeVddsReturn (s : State) : Host.Outcome State Fault Refusal :=
  if s.power.ready && !s.power.halted && s.power.dorm == 4 then
    .next (settle (wakeEnd (fset GLB_DORM_STAT.wake_late 1 { s with aux := { s.aux with vdds := .operating } })))
  else .next s

/-- A supply changes its level; the return of VDDS that a waking block waits for lets the wake end (R407). -/
def supplyStep (x : Supply) (l : SupplyLevel) (s : State) : State :=
  let s := supplyChange x l s
  if s.power.dorm == 4 && s.aux.vdds == .operating then settle (wakeEnd s) else s

/-! ### Sentinel captures (R404) -/

/-- Sentinel i queues a capture: the first 128 bytes of the frame, or of a shorter one all before its FCS. -/
def capture (i : Nat) (bs : Bytes) (s : State) : State :=
  let x := nth {} i s.aux.sentinels
  let c := if 128 ≤ bs.length then bs.take 128 else stripFcs bs
  { s with aux := { s.aux with sentinels := setNth i { x with captures := x.captures ++ [c] } s.aux.sentinels } }

/-- Whether a frame passes checks 3 to 7 of R136 on port g, whatever rx_en and staging say (R404 leaves checks 1 and 2
out). -/
def sentinelPass (g : Nat) (x : RxArrival) (s : State) : Bool :=
  match rxCheck true (maxFrame g s) g { x with stagingFull := false } s with
  | none => true
  | some (code, _) => code == 0x18

/-- A frame on the port g of sentinel i in dormancy: a full queue misses it, whatever its checks would give; else it is
captured when it passes them. -/
def sentinelTakes (i g : Nat) (x : RxArrival) (s : State) : State :=
  if 4 ≤ (nth {} i s.aux.sentinels).captures.length then fadd AUX_WAKE_CFG.sentinel_miss 1 s
  else if sentinelPass g x s then capture i x.bytes s
  else s

/-- SENTINEL_FRAME: a frame on a sentinel port of the dormant block; one that comes while the block wakes is counted
(R408). A looped port takes none from the host chip (R154). -/
def execSentinelFrame (g : BitVec 8) (x : RxArrival) (s : State) : Host.Outcome State Fault Refusal :=
  if s.power.ready && !s.power.halted && s.aux.vaux then
    match sentinelOf g.toNat s with
    | none => .next s
    | some i =>
      if s.power.dorm == 4 then .next (missFrame g.toNat s)
      else if s.power.dorm == 3 && evaluates g.toNat s && !fbit (PRT_MAC_CFG.loopback g.toNat) s then
        .next (sentinelTakes i g.toNat x s)
      else .next s
  else .next s

/-! ### Matching (R405) -/

/-- The byte of a pattern slot: half 0 is the value, half 1 the mask. -/
def patByte (slot half b : Nat) (s : State) : Byte := mgetD 0 (slot * 256 + half * 128 + b) s.aux.patterns

/-- Whether a capture matches the mask and value of a slot. -/
def matchValue (slot : Nat) (c : Bytes) (s : State) : Bool :=
  let n := fget (AUX_WAKE_PAT_CTL.len slot) s
  let len := if 1 ≤ n ∧ n ≤ 128 then n else 128
  len ≤ c.length &&
    (List.range len).all fun b => (nth 0 b c &&& patByte slot 1 b s) == (patByte slot 0 b s &&& patByte slot 1 b s)

/-- Whether a capture holds the magic packet of a slot's address. -/
def matchMagic (slot : Nat) (c : Bytes) (s : State) : Bool :=
  let addr := (List.range 6).map fun b => patByte slot 0 b s
  let magic := List.replicate 6 0xFF#8 ++ (List.replicate 16 addr).flatten
  (List.range (c.length + 1 - 102)).any fun o => slice o 102 c == magic

/-- The lowest-numbered slot that matches a capture of sentinel i. -/
def matchSlot (i : Nat) (c : Bytes) (s : State) : Option Nat :=
  (List.range 32).find? fun n =>
    fbit (AUX_WAKE_PAT_CTL.en n) s && (fget (AUX_WAKE_PAT_CTL.sent_mask n) s).testBit i &&
      (if fbit (AUX_WAKE_PAT_CTL.kind n) s then matchMagic n c s else matchValue n c s)

/-- The oldest capture of sentinel i is matched; a match wakes the block with pattern_en at 1 (R405, R406). -/
def patternMatch (i : Nat) (s : State) : State :=
  let x := nth {} i s.aux.sentinels
  match x.captures with
  | [] => s
  | c :: rest =>
    let s := { s with aux := { s.aux with sentinels := setNth i { x with captures := rest } s.aux.sentinels } }
    match matchSlot i c s with
    | none => s
    | some n =>
      let s := fset (AUX_WAKE_PAT_CTL.hit n) 1 s
      if fbit AUX_WAKE_CFG.pattern_en s then wakeEvent (.pattern i n) s else s

/-- PATTERN_MATCH; the aux island matches nothing while RCLK or VAUX is absent (R390). -/
def execPatternMatch (i : BitVec 3) (s : State) : Host.Outcome State Fault Refusal :=
  if s.aux.vaux && s.aux.rclk then .next (settle (patternMatch i.toNat s)) else .next s

end Sys2Proof.Machine
end

