-- ==== Sys2Proof/Machine/Cages.lean ====
section
/-!
DEFINITION. Port cages (spec/13): their states (R410, R411, R490), event bits (R414), the button wake (R406), the indicators
(R413), and what the aux island does while RCLK is absent (R390), with the commands that end that or begin it. States are
numbered as R410 codes them: 0 EMPTY, 1 OFF, 2 POWERING, 3 ON, 4 FAULT.
-/

namespace Sys2Proof.Machine

/-- Cage c. -/
def cage (c : Nat) (s : State) : Cage := nth {} c s.aux.cages

/-- Sets cage c. -/
def setCage (c : Nat) (x : Cage) (s : State) : State := { s with aux := { s.aux with cages := setNth c x s.aux.cages } }

/-- Sets event bit n of cage c, which raises block source 3 when evt_en has it (R414). -/
def cageEvent (c n : Nat) (s : State) : State :=
  let r := AUX_CAGE_EVT.reg c
  let s := setReg r (BitVec.ofNat 32 (setBit (regW r s).toNat n true)) s
  if s.power.ready && (fget (AUX_CAGE_CTL.evt_en c) s).testBit n then raiseSource 3 s else s

/-- The cage enters a state; its power output is on in POWERING and ON. -/
def Cage.enter (st : Nat) (x : Cage) : Cage := { x with state := st, pwrOut := st == 2 || st == 3 }

/-- Cage c enters FAULT with a cause. -/
def cageFault (c cause : Nat) (s : State) : State :=
  cageEvent c 2 (setCage c { (cage c s).enter 4 with cause := cause } s)

/-- The presence of cage c changes, after debouncing. -/
def cagePresence (c : Nat) (on : Bool) (s : State) : State :=
  let x := cage c s
  if x.present = on then s
  else
    let x := { x with present := on }
    if on then cageEvent c 0 (setCage c (if x.state = 0 then x.enter 1 else x) s)
    else cageEvent c 0 (fset (AUX_CAGE_CTL.pwr_en c) 0 (setCage c (x.enter 0) s))

/-- What a change at the inputs of cage c does: the cage's own effect while RCLK runs, else what the aux island latches
(R390). -/
def cageInput (c : Nat) (latch : Cage → Cage) (act : State → State) (s : State) : Host.Outcome State Fault Refusal :=
  if !s.aux.vaux then .next s
  else if s.aux.rclk then .next (settle (act s))
  else .next (setCage c (latch (cage c s)) s)

/-- CAGE_PRESENCE_CHANGE. -/
def execCagePresenceChange (c : BitVec 5) (on : Bool) (s : State) : Host.Outcome State Fault Refusal :=
  cageInput c.toNat (fun x => { x with latePres := some on }) (cagePresence c.toNat on) s

/-- pwr_en written 1: an OFF cage powers up; an EMPTY one ignores it, and in FAULT the field keeps its value. -/
def powerCage (c : Nat) (s : State) : State :=
  let x := cage c s
  if x.state = 1 then fset (AUX_CAGE_CTL.pwr_en c) 1 (setCage c (x.enter 2) s) else s

/-- pwr_en written 0: a powered or faulted cage goes to OFF, and fault_cause clears. -/
def unpowerCage (c : Nat) (s : State) : State :=
  let x := cage c s
  let s := fset (AUX_CAGE_CTL.pwr_en c) 0 s
  if 2 ≤ x.state then setCage c { x.enter 1 with cause := 0 } s else s

/-- CAGE_POWER_ENABLE. -/
def execCagePowerEnable (c : BitVec 5) (s : State) : Host.Outcome State Fault Refusal :=
  if s.aux.vaux && glbPort s then .next (powerCage c.toNat s) else .next s

/-- CAGE_POWER_DISABLE. -/
def execCagePowerDisable (c : BitVec 5) (s : State) : Host.Outcome State Fault Refusal :=
  if s.aux.vaux && glbPort s then .next (unpowerCage c.toNat s) else .next s

/-- Power good rises at cage c: a POWERING cage is ON. -/
def powerGood (c : Nat) (s : State) : State :=
  let x := { cage c s with pg := true }
  if x.state = 2 then cageEvent c 1 (setCage c (x.enter 3) s) else setCage c x s

/-- CAGE_POWER_GOOD. -/
def execCagePowerGood (c : BitVec 5) (s : State) : Host.Outcome State Fault Refusal :=
  cageInput c.toNat (fun x => { x with pg := true }) (powerGood c.toNat) s

/-- CAGE_PG_TIMEOUT: pg_ms have passed in POWERING without power good. -/
def execCagePgTimeout (c : BitVec 5) (s : State) : Host.Outcome State Fault Refusal :=
  if s.aux.vaux && s.aux.rclk && (cage c.toNat s).state == 2 then .next (cageFault c.toNat 2 s) else .next s

/-- The power fault input of cage c changes; an assertion takes a powered cage to FAULT (R490). -/
def powerFaultInput (c : Nat) (on : Bool) (s : State) : State :=
  let x := cage c s
  let s := setCage c { x with faultIn := on } s
  if on && (x.state == 2 || x.state == 3) then cageFault c 1 s else s

/-- The fault input of a cage while RCLK is absent: its asynchronous path turns the power output off at once, and the
fault is latched (R390, R490). -/
def Cage.faultLatch (on : Bool) (x : Cage) : Cage :=
  { x with faultIn := on, lateFault := x.lateFault || on, pwrOut := x.pwrOut && !on }

/-- CAGE_POWER_FAULT. -/
def execCagePowerFault (c : BitVec 5) (on : Bool) (s : State) : Host.Outcome State Fault Refusal :=
  cageInput c.toNat (Cage.faultLatch on) (powerFaultInput c.toNat on) s

/-- Power good drops at cage c: an ON cage enters FAULT. -/
def powerGoodLost (c : Nat) (s : State) : State :=
  let x := cage c s
  let s := setCage c { x with pg := false } s
  if x.state = 3 then cageFault c 3 s else s

/-- CAGE_POWER_GOOD_LOST. -/
def execCagePowerGoodLost (c : BitVec 5) (s : State) : Host.Outcome State Fault Refusal :=
  cageInput c.toNat (fun x => { x with pg := false }) (powerGoodLost c.toNat) s

/-- The attention button of cage c is pressed: a press while the bit is set adds nothing (R411). It wakes the block where
button_wake and button_en allow it (R406). -/
def buttonPress (c : Nat) (s : State) : State :=
  if fbit (AUX_CAGE_EVT.button c) s then s
  else
    let s := cageEvent c 3 s
    if fbit (AUX_CAGE_CTL.button_wake c) s && fbit AUX_WAKE_CFG.button_en s then wakeEvent (.button c) s else s

/-- CAGE_BUTTON. -/
def execCageButton (c : BitVec 5) (s : State) : Host.Outcome State Fault Refusal :=
  cageInput c.toNat (fun x => { x with lateButton := true }) (buttonPress c.toNat) s

/-! ### Indicators (R413, R490) -/

/-- What an indicator shows. -/
inductive Lamp where
  | off | on | blink
  deriving DecidableEq, Repr

/-- Whether an indicator that blinks is lit: 1 Hz with 50 % duty, every cage in phase, and lit while RCLK is absent. The
phase is counted in DCLK cycles (DESIGN CHOICE: R413 names no phase). -/
def blinkLit (s : State) : Bool := !s.aux.rclk || s.time.dclk / 800000000 % 2 == 0

/-- The level of an indicator output; without VAUX none is lit. -/
def Lamp.lit (l : Lamp) (s : State) : Bool :=
  s.aux.vaux && (match l with
    | .off => false
    | .on => true
    | .blink => blinkLit s)

/-- Whether a port of row r has link_up. -/
def rowLinked (r : Nat) (s : State) : Bool := (List.range 8).any fun p => (port (8 * r + p) s).linkUp

/-- What the power indicator of cage c shows; one that follows the links keeps its level while RCLK is absent. -/
def pwrLamp (c : Nat) (s : State) : Lamp :=
  match fget (AUX_CAGE_CTL.pwr_ind c) s with
  | 0 => .off
  | 1 => .on
  | 2 => .blink
  | _ => if (if s.aux.rclk then rowLinked c s else (cage c s).pwrLedHeld) then .on else .off

/-- What the attention indicator of cage c shows. -/
def attnLamp (c : Nat) (s : State) : Lamp :=
  if fbit (AUX_CAGE_CTL.attn_auto c) s && (cage c s).state == 4 then .blink
  else
    match fget (AUX_CAGE_CTL.attn_ind c) s with
    | 0 => .off
    | 1 => .on
    | _ => .blink

/-- The output cage_pwr_led of cage c. -/
def cagePwrLed (c : Nat) (s : State) : Bool := (pwrLamp c s).lit s

/-- The output cage_attn_led of cage c. -/
def cageAttnLed (c : Nat) (s : State) : Bool := (attnLamp c s).lit s

/-! ### RCLK (R390, R490) -/

/-- Cage c takes what was latched while RCLK was absent: a power fault, changes of presence, of which an even number is a
removal and an insertion, the level of power good, and a press of the button. -/
def latched (s : State) (c : Nat) : State :=
  let x := cage c s
  let s := setCage c { x with latePres := none, lateFault := false, lateButton := false } s
  let s := if x.lateFault && (x.state == 2 || x.state == 3) then cageFault c 1 s else s
  let s := match x.latePres with
    | none => s
    | some on => cagePresence c on (if x.present = on then cagePresence c (!on) s else s)
  let s := if (cage c s).pg then (if (cage c s).state = 2 then powerGood c s else s)
           else if (cage c s).state = 3 then powerGoodLost c s else s
  if x.lateButton then buttonPress c s else s

/-- RCLK comes back. -/
def rclkReturns (s : State) : State :=
  let t := { s with aux := { s.aux with rclk := true } }
  if s.aux.rclk || !s.aux.vaux then t else (List.range 32).foldl latched t

/-- RCLK stops: power indicators that follow the links keep the level that they had before, in the state b. -/
def rclkStops (b s : State) : State :=
  if !s.aux.rclk then s
  else
    let held := (List.range 32).map fun c => { cage c s with pwrLedHeld := pwrLamp c b == .on }
    { s with aux := { s.aux with rclk := false, cages := held } }

/-- A supply changes its level, and RCLK is there or is absent after it. RCLK runs while the core does (R391); outside
that time the aux island sees it come and go. -/
def supplyAndClock (x : Supply) (l : SupplyLevel) (rclk : Bool) (s : State) : State :=
  let t := supplyStep x l s
  if !t.power.por then t else if rclk then rclkReturns t else rclkStops s t

/-- SUPPLY_LOSS. -/
def execSupplyLoss (x : Supply) (l : SupplyLevel) (rclk : Bool) (s : State) : Host.Outcome State Fault Refusal :=
  .next (supplyAndClock x l rclk s)

/-- Power-on reset is released, with RCLK stable (R391); where the retention book is the source, book says how it
read (R99, R420). -/
def releaseReset (book : BookRead) (s : State) : State :=
  let t := powerOn (rclkReturns s)
  if t.power.source = 0 then readBook book t else t

/-- POWER_ON_RESET. -/
def execPowerOnReset (book : BookRead) (s : State) : Host.Outcome State Fault Refusal :=
  if s.power.por then .next (releaseReset book s) else .next s

end Sys2Proof.Machine
end

