-- ==== Sys2Proof/Machine/Faults.lean ====
section
/-!
DEFINITION. Faults and racking (spec/14): the error queue's pop (R418), racking (R424 to R429, R267, R295), slow units
(R430), sparing (R431, R432), self-tests (R448), and the reset of the counters (R453, R458).
-/

namespace Sys2Proof.Machine

/-- Status of a steward command (R448): 0 done, 1 accepted, 2 refused in the current state, 3 invalid argument. -/
abbrev CmdStatus := Nat

/-! ### The error queue -/

/-- ERROR_POP: a write of n to GLB_ERR_POP (R418). -/
def execErrorPop (n : BitVec 7) (s : State) : Host.Outcome State Fault Refusal :=
  if glbPort s then .next (popErrors n.toNat s) else .next s

/-! ### Racking (R424, R425, R429) -/

/-- The number that GLB_RACK_STAT.cause gives a cause. -/
def rackCode : RackCause → Nat
  | .steward => 0
  | .slow => 1
  | .fault => 2

/-- A racking of a source press is requested. -/
def rackCmd (source cause : Nat) (s : State) : State × CmdStatus :=
  if 5 ≤ source then (s, 3)
  else
    let r := requestRack source cause s
    (r.1, if r.2 then 1 else 2)

/-- RACK. -/
def execRack (source : Byte) (cause : RackCause) (s : State) : Host.Outcome State Fault Refusal :=
  if live s then .next (settle (rackCmd source.toNat (rackCode cause) s).1) else .next s

/-- Whether the reserve's replica is current for a racking of press k (R267). -/
def reserveCurrent (k : Nat) (s : State) : Bool :=
  let r := reservePress s
  let e := s.engine
  nth 0 r e.vintages == nth 0 k e.vintages && !(e.locks.any fun l => l.held && l.all)
    && (if coordinated s then !fbit TBL_LEARN_STAT.diverged s
        else e.copied.contains (k, r) && e.shadows.contains (k, r))

/-- The cutover begins: the engine holds fan-out changes and LOCK grants, and the source's dealer stops (R426 steps 1 and
2). -/
def startCutover (s : State) : State :=
  let s := { s with racking := { s.racking with state := 2 }, engine := { s.engine with hold := true } }
  raiseSource 5 (modPress s.racking.source (fun p => { p with stopped := true }) s)

/-- RACK_PREPARE_TEST (R425). -/
def execRackPrepareTest (s : State) : Host.Outcome State Fault Refusal :=
  if live s && s.racking.state == 1 && reserveCurrent s.racking.source s then .next (startCutover s) else .next s

/-- PREPARE reached its limit (R425); for a racking that a fault caused, a tier 2 action failed (R419). -/
def prepareTimeout (s : State) : State :=
  let r := s.racking
  let s := abortRacking 4 s
  if r.cause = 2 then escalate r.code r.source (portTurn s) else s

/-- RACK_PREPARE_TIMEOUT. -/
def execRackPrepareTimeout (s : State) : Host.Outcome State Fault Refusal :=
  if live s && s.racking.state == 1 then .next (settle (prepareTimeout s)) else .next s

/-- ABORT_RACK (R429). -/
def abortCmd (s : State) : State × CmdStatus :=
  if s.racking.state = 1 then (abortRacking 5 s, 0) else (s, 2)

/-- ABORT_RACK. -/
def execAbortRack (s : State) : Host.Outcome State Fault Refusal :=
  if live s then .next (abortCmd s).1 else .next s

/-! ### The cutover (R426 to R428) -/

/-- A copy of the window as one that waits again, ahead of the others; none when its item is gone. -/
def handed (c : Copy) (s : State) : Option WaitCopy :=
  match c.item with
  | .gone => none
  | .frame id => some ⟨true, c.dealt, c.row, c.rx, ((frame id s).bind (·.port)).getD 0, c.item⟩
  | .chain ch _ => some ⟨true, c.dealt, c.row, c.rx, ch, c.item⟩

/-- Every copy that the source has not retired is handed over in stream order; its results are discarded (step 3), now
those that have come, and the others when they come (R459). -/
def handOver (s : State) : State :=
  let k := s.racking.source
  let w := (press k s).window
  let s := w.foldl (fun s c => if c.ready.isNone then discardResult k c s else slotDiscarded k c.dealt s) s
  modPress k (fun p => { p with window := [], waiting := (w.filterMap fun c => handed c s) ++ p.waiting }) s

/-- RACK_HANDOVER. -/
def execRackHandover (s : State) : Host.Outcome State Fault Refusal :=
  if live s && s.racking.state == 2 then .next (handOver s) else .next s

/-- The target's policers take the source's bucket levels and last (R295). -/
def copyPolicers (src dst : Nat) (s : State) : State :=
  let from_ := (press src s).policers
  let keys := from_.map (·.1) ++ (press dst s).policers.map (·.1)
  keys.foldl (fun s n =>
    let a := mgetD {} n from_
    setPolicer dst n { policer dst n s with tc := a.tc, tp := a.tp, last := a.last } s) s

/-- The rows of the source go to the target, and the source becomes the reserve (step 5, R428). -/
def moveRows (src dst : Nat) (s : State) : State :=
  let move := fun (f : Fld) (s : State) => if fget f s = src then fset f dst s else s
  fset GLB_PRESS_MAP.reserve src
    (move GLB_PRESS_MAP.group3 (move GLB_PRESS_MAP.group2 (move GLB_PRESS_MAP.group1 (move GLB_PRESS_MAP.group0 s))))

/-- The cutover ends after a number of units of 100 ns. -/
def cutoverEnd (tenths : Nat) (s : State) : State :=
  let src := s.racking.source
  let dst := s.racking.target
  let s := copyPolicers src dst (handOver s)
  let waiting := (press src s).waiting
  let s := modPress src (fun p => { p with waiting := [], stopped := false }) s
  let s := modPress dst (fun p => { p with waiting := waiting ++ p.waiting }) (moveRows src dst s)
  let iso := s.racking.isolateAfter
  let s := { s with
    engine := { s.engine with hold := false, shadows := [], copied := [], zeroAges := (s.engine.zeroAges.erase dst) ++ [dst] }
    racking := { s.racking with state := 0, result := 1, abort := 0, lastCutover := tenths, isolateAfter := false } }
  let s := repeatLookups src (raiseSource 5 (backlogCheck dst (applyDivs (if iso then setIsolated src true s else s))))
  match s.power.resetAfterRack with
  | some e =>
    let s := portTurn s
    startSoftReset e { s with power := { s.power with resetAfterRack := none } }
  | none => s

/-- RACK_CUTOVER_END. -/
def execRackCutoverEnd (tenths : BitVec 10) (s : State) : Host.Outcome State Fault Refusal :=
  if live s && s.racking.state == 2 then .next (settle (cutoverEnd tenths.toNat s)) else .next s

/-! ### Press faults (R420, R430) -/

/-- PRESS_LOGIC_FAULT. -/
def execPressLogicFault (k : Fin 5) (s : State) : Host.Outcome State Fault Refusal :=
  if live s then .next (settle (pressError 0x0F k.val s)) else .next s

/-- Whether the window of press k that ends is slow. -/
def windowSlow (k : Nat) (s : State) : Bool :=
  let p := press k s
  p.div == 0 && p.winCycles ≤ 2 * p.winWaiting
    && (p.winDelivered - p.winLost) * 100 < clamp 1 100 (fget GLB_SLOW_CFG.slow_pct s) * (8 * p.winCycles)

/-- Press k is declared slow: it is racked when auto_rack is 1. -/
def declareSlow (k : Nat) (s : State) : State :=
  let s := raiseSource 5 (fadd GLB_SLOW_STAT.slow_cnt 1 (fsetBit GLB_SLOW_STAT.slow_seen k s))
  if fbit GLB_SLOW_CFG.auto_rack s then
    let r := requestRack k 1 s
    postError 2 (if r.2 then 5 else 12) 0x07 k 0 r.1
  else postError 2 12 0x07 k 0 s

/-- A window of press k ends for slow detection. -/
def slowWindow (k : Nat) (s : State) : State :=
  let slow := windowSlow k s
  let run := if slow then (press k s).slowRun + 1 else 0
  let hit := fbit GLB_SLOW_CFG.en s && max 1 (fget GLB_SLOW_CFG.slow_win s) ≤ run
  let s := modPress k (fun p => { p with
    winCycles := 0, winWaiting := 0, winDelivered := 0, winLost := 0, slowRun := if hit then 0 else run }) s
  let s := fset GLB_SLOW_STAT.slow (setBit (fget GLB_SLOW_STAT.slow s) k slow) s
  if hit then declareSlow k s else s

/-- SLOW_WINDOW_END; a press in a racking is not classified. -/
def execSlowWindowEnd (k : Fin 5) (s : State) : Host.Outcome State Fault Refusal :=
  if live s && !inRacking k.val s then .next (settle (slowWindow k.val s)) else .next s

/-! ### Learning mode, sparing, self-test, counters (R242, R431, R432, R448, R453) -/

/-- SET_LEARN_MODE with an argument: 0 independent, 1 coordinated. -/
def learnModeCmd (m : Nat) (s : State) : State × CmdStatus :=
  if 2 ≤ m then (s, 3)
  else if m = 0 ∧ 3 ≤ pressesInUse s ∧ coordinated s = true then (fset TBL_LEARN_STAT.mode_refused 1 s, 2)
  else if s.racking.state != 0 then (s, 2)
  else (setLearnMode (m == 1) s, 0)

/-- SET_LEARN_MODE. -/
def execSetLearnMode (m : Byte) (s : State) : Host.Outcome State Fault Refusal :=
  if live s then .next (learnModeCmd m.toNat s).1 else .next s

/-- SPARE_BANK with a logical bank. -/
def spareCmd (b : Nat) (s : State) : State × CmdStatus :=
  if 64 ≤ b then (s, 3)
  else if s.cellar.copyBank.isSome then (s, 2)
  else
    match freeSpare s with
    | some n => (startSpare b n s, 1)
    | none => (s, 2)

/-- SPARE_BANK. -/
def execSpareBank (b : Byte) (s : State) : Host.Outcome State Fault Refusal :=
  if live s then .next (spareCmd b.toNat s).1 else .next s

/-- RETENTION_SPARE_DONE: the copy into the spare macro completes (R432). -/
def execRetentionSpareDone (s : State) : Host.Outcome State Fault Refusal :=
  if live s && s.book.copying then
    .next { s with book := { s.book with copying := false, spareUsed := true, oneMirror := false } }
  else .next s

/-- RESTORE_PRESS with a press: its lane self-test starts. -/
def restoreCmd (k : Nat) (s : State) : State × CmdStatus :=
  if 5 ≤ k then (s, 3) else (modPress k (fun p => { p with selfTest := true }) s, 1)

/-- RESTORE_PRESS. -/
def execRestorePress (k : Byte) (s : State) : Host.Outcome State Fault Refusal :=
  if live s then .next (restoreCmd k.toNat s).1 else .next s

/-- The self-test of press k ends. -/
def selfTestDone (k : Nat) (pass : Bool) (s : State) : State :=
  let s := modPress k (fun p => { p with selfTest := false }) s
  raiseSource 5 (if pass then setIsolated k false s else postError 2 12 0x0F k 0 s)

/-- PRESS_SELF_TEST_DONE. -/
def execPressSelfTestDone (k : Fin 5) (pass : Bool) (s : State) : Host.Outcome State Fault Refusal :=
  if live s && (press k.val s).selfTest then .next (selfTestDone k.val pass s) else .next s

/-- Every counter takes 0, and the events of the same cycle are then in it (R453, R458). Those of fixed counters come
with the end of the cycle (R459). -/
def counterReset (same : List SameCycleEvent) (s : State) : State :=
  let m := trim {} (s.pmu.counters.map fun e => (e.1, { e.2 with value := 0 }))
  let s := { s with pmu := { s.pmu.keepEdge with counters := m, resetAt := s.time.dclk } }
  same.foldl (fun s e =>
    if fixedCounter e.counter.toNat then s
    else addCount e.counter.toNat e.inc.toNat (itemEvent e.counter.toNat s) s) s

/-- COUNTER_RESET. -/
def execCounterReset (same : List SameCycleEvent) (s : State) : Host.Outcome State Fault Refusal :=
  if live s then .next (counterReset same s) else .next s

end Sys2Proof.Machine
end

