-- ==== Sys2Proof/Machine/Sha.lean ====
section
/-!
DEFINITION. The HMAC engine (R438, R445): SHA-256 and HMAC-SHA-256 as FIPS 180-4 and FIPS 198-1 define them, over
strings of bytes.
-/

namespace Sys2Proof.Machine.Sha

/-- The first n numbers from k on that no number of the list, nor one found before, divides. -/
def primesFrom : Nat → Nat → List Nat → List Nat
  | 0, _, found => found
  | n + 1, k, found => primesFrom n (k + 1) (if found.any fun p => k % p == 0 then found else found ++ [k])

/-- The 64 primes from 2 to 311. -/
def primes : List Nat := primesFrom 310 2 []

/-- The largest number below 2^n, added to r, whose k-th power is at most x. -/
def rootFrom (k x : Nat) : Nat → Nat → Nat
  | 0, r => r
  | n + 1, r => rootFrom k x n (if (r + 2 ^ n) ^ k ≤ x then r + 2 ^ n else r)

/-- The first 32 bits of the fraction of the k-th root of p. -/
def rootFraction (k p : Nat) : Word := BitVec.ofNat 32 (rootFrom k (p * 2 ^ (32 * k)) 37 0)

/-- The hash value before the first block: from the square roots of the first eight primes. -/
def start : List Word := (primes.take 8).map (rootFraction 2)

/-- The constants of the 64 rounds: from the cube roots of the primes. -/
def constants : List Word := primes.map (rootFraction 3)

/-- The sum of word x turned right by each of the amounts. -/
def turns (x : Word) (amounts : List Nat) : Word := (amounts.map x.rotateRight).foldl (· ^^^ ·) 0

/-- The word that follows a message schedule, which is held newest word first. -/
def nextWord (w : List Word) : Word :=
  let low := nth 0 14 w
  let high := nth 0 1 w
  nth 0 15 w + nth 0 6 w + (turns low [7, 18] ^^^ low >>> 3) + (turns high [17, 19] ^^^ high >>> 10)

/-- A message schedule with n more words. -/
def schedule : Nat → List Word → List Word
  | 0, w => w
  | n + 1, w => schedule n (nextWord w :: w)

/-- One round over the eight working words, with the sum of its constant and its schedule word. Each bit of the third
operand of a choice stands where the first has 0; a majority bit is the one that two of the three have. -/
def round (v : List Word) (kw : Word) : List Word :=
  let x := fun i => nth 0 i v
  let choice := x 6 ^^^ (x 4 &&& (x 5 ^^^ x 6))
  let majority := (x 0 &&& (x 1 ||| x 2)) ||| (x 1 &&& x 2)
  let t := x 7 + kw + choice + turns (x 4) [6, 11, 25]
  let v := setNth 3 (x 3 + t) v
  (t + majority + turns (x 0) [2, 13, 22]) :: v.take 7

/-- The words of a block of 64 bytes, each in network order. -/
def wordsOf : Nat → Bytes → List Word
  | 0, _ => []
  | n + 1, bs => BitVec.ofNat 32 (beAt 0 4 bs) :: wordsOf n (bs.drop 4)

/-- Takes one block into the hash value. -/
def block (hs : List Word) (bs : Bytes) : List Word :=
  let sums := List.zipWith (· + ·) constants (schedule 48 (wordsOf 16 bs).reverse).reverse
  List.zipWith (· + ·) hs (sums.foldl round hs)

/-- Takes n blocks into the hash value. -/
def blocks : Nat → List Word → Bytes → List Word
  | 0, hs, _ => hs
  | n + 1, hs, bs => blocks n (block hs (bs.take 64)) (bs.drop 64)

/-- The message with its padding. -/
def pad (bs : Bytes) : Bytes :=
  bs ++ [0x80#8] ++ List.replicate ((119 - bs.length % 64) % 64) 0 ++ beBytes 8 (8 * bs.length)

/-- SHA-256. -/
def sha256 (bs : Bytes) : Bytes :=
  let p := pad bs
  (blocks (p.length / 64) start p).flatMap fun w => beBytes 4 w.toNat

/-- A key of 32 bytes as a block, with every byte combined with x. -/
def keyBlock (x : Byte) (key : Bytes) : Bytes := (key ++ List.replicate (64 - key.length) 0).map (· ^^^ x)

/-- HMAC-SHA-256 under a key of at most 64 bytes. -/
def hmac (key msg : Bytes) : Bytes := sha256 (keyBlock 0x5c key ++ sha256 (keyBlock 0x36 key ++ msg))

/-- first16 of R445. -/
def mac (key msg : Bytes) : Bytes := (hmac key msg).take 16

end Sys2Proof.Machine.Sha
end

