-- ==== Sys2Proof/Machine/Mgmt.lean ====
section
/-!
DEFINITION. The cellarmaster (R433 to R440) and the management sessions (R441 to R448, R489): firmware activation and
restart, failover, the end of slow-path entries, the session engine with its messages, the mailbox, and the key-load
port.
-/

namespace Sys2Proof.Machine

/-! ### The cellarmaster runs, halts and restarts (R436, R440) -/

/-- Whether firmware threads run: state 3, or state 1 while the firmware in service keeps running (R438 step 1). -/
def cmRuns (s : State) : Bool := s.cm.state == 3 || (s.cm.state == 1 && s.cm.previous == 3)

/-- Every entry of the slow-path queue moves to the exception channel of its press. -/
def moveSlowQueue (s : State) : State :=
  let q := s.cm.slowQ
  q.foldl (fun s e =>
    queueFrame (fget (PRS_CFG.exc_channel e.press) s) e.press
      { frame := e.frame, kind := .slow e.reason, bytes := e.bytes, tc := ((frame e.frame s).map (·.prio)).getD 0,
        l3err := e.l3err, l4err := e.l4err, held := false } s) { s with cm := { s.cm with slowQ := [] } }

/-- The reads of an image pass are given up. -/
def dropPass (s : State) : State := discardReqs (·.purpose == .fwImage) s

/-- The commands with which the firmware waits are lost with its threads. -/
def dropWaits (s : State) : State := { s with engine := { s.engine with cmWait := [] } }

/-- Failover (R436), when MGT_CORE_CTL.failover is 1. -/
def failover (s : State) : State :=
  if fbit MGT_CORE_CTL.failover s then
    let s := (List.range 5).foldl (fun s k => fset (PRS_CFG.slow_host k) 1 s) s
    let s := fset MGT_CORE_CTL.rack_copy_cm 0 (fset MGT_CORE_CTL.sync_cm 0 (fset TBL_AGE_CFG.host_sweep 1 s))
    raiseSource 5 (moveSlowQueue s)
  else s

/-- The cellarmaster halts with state 5, and R436 applies. -/
def haltCm (s : State) : State :=
  failover (dropPass (dropWaits { s with cm := { s.cm with state := 5, restarting := false } }))

/-- One more start of the threads, which saturates (MGT_CORE_STAT.restart_cnt). -/
def Cm.started (c : Cm) : Cm := { c with starts := min 0xFFFF (c.starts + 1) }

/-- The restarts of the last second, in DCLK cycles. -/
def recentRestarts (s : State) : List Nat := s.cm.restarts.filter fun t => s.time.dclk < t + 1600000000

/-- A watchdog expiry or an uncorrectable local SRAM word (R440): code 0x0D is posted, and the threads restart from the
code region, or the cellarmaster halts: when cm_restart is 0, the code region has an uncorrectable word, this is the third
such restart within 1 s, no threads run, or a restart is in progress (R422). -/
def cmFault (s : State) : State :=
  let again := fbit GLB_ESCALATE_CFG.cm_restart s && !s.cm.codeBad && (recentRestarts s).length < 2
    && cmRuns s && !s.cm.restarting
  if again then
    postError 2 9 0x0D 0 0
      { dropWaits s with cm := { s.cm.started with restarting := true, restarts := s.time.dclk :: recentRestarts s } }
  else if s.cm.state = 5 then postError 2 10 0x0D 0 0 s
  else haltCm (postError 2 10 0x0D 0 0 s)

/-- WATCHDOG_EXPIRY: a running thread has not kicked within period_ms. -/
def execWatchdogExpiry (_thread : BitVec 2) (s : State) : Host.Outcome State Fault Refusal :=
  if live s && cmRuns s && fbit MGT_WDOG_CFG.en s then .next (settle (cmFault (fset MGT_CORE_STAT.wdog_fired 1 s)))
  else .next s

/-- LOCAL_SRAM_UNCORRECTABLE: inCode says that the word lies in the code region. A held cellarmaster reads no word. -/
def execLocalSramUncorrectable (inCode : Bool) (s : State) : Host.Outcome State Fault Refusal :=
  if live s && s.cm.state != 0 then
    .next (settle (cmFault { s with cm := { s.cm with codeBad := s.cm.codeBad || inCode } }))
  else .next s

/-- A restart on request (R440). -/
def restartCm (s : State) : State :=
  if s.cm.state = 3 ∨ s.cm.state = 5 then
    raiseSource 5 { dropWaits s with cm := { s.cm.started with state := 3, restarting := true } }
  else s

/-- CM_RESTART: a write of MGT_LOAD_CTL with restart 1. -/
def execCmRestart (s : State) : Host.Outcome State Fault Refusal :=
  if regLive s then .next (restartCm s) else .next s

/-- CM_HALT: a write of MGT_CORE_CTL with halt 1. -/
def execCmHalt (s : State) : Host.Outcome State Fault Refusal :=
  if regLive s then .next (settle (haltCm s)) else .next s

/-! ### Slow-path entries and frames of the firmware (R434) -/

/-- Frame id goes to a port as the firmware sends it; e gives its bytes, arrival stamp and press. -/
def cmToPort (id g k tc : Nat) (bs : Bytes) (t : Stamp) (unmodified : Bool) (s : State) : State :=
  let n := takeSerial s
  let ports := expandPorts [{ port := g, tc := tc, bytes := bs, unmodified := unmodified, oneStep := .off }] n.2
  ports.foldl (fun s d =>
    pushFwd d.port d.tc k { frame := some id, bytes := bs, unmodified := unmodified, oneStep := .off, ingress := t,
                            item := n.1, cm := true } s) (addRefs id ports.length n.2)

/-- The firmware sends a slow-path frame on to a port or to a channel's receive queue. -/
def sendSlow (e : SlowEntry) (to_ : SlowDest) (s : State) : State :=
  let tc := ((frame e.frame s).map (·.prio)).getD 0
  match to_ with
  | .chan c =>
    queueFrame c.toNat e.press
      { frame := e.frame, kind := .normal, bytes := e.bytes, tc := tc, l3err := e.l3err, l4err := e.l4err, held := false } s
  | .port g => discardRef e.frame (cmToPort e.frame g.toNat e.press tc e.bytes e.stamp true s)

/-- The slow-path entry at a place of the queue ends. The firmware reads the frame through its window: one with a word
that cannot be corrected is discarded and counted (R171). -/
def endSlow (i : Nat) (to_ : Option SlowDest) (cell : CellarRead) (s : State) : State :=
  match s.cm.slowQ[i]? with
  | none => s
  | some e =>
    let s := { s with cm := { s.cm with slowQ := s.cm.slowQ.eraseIdx i } }
    let q := readCells cell s
    if !q.2 then
      let a := ((frame e.frame q.1).map fun f => frameAttr e.frame f q.1).getD {}
      discardRef e.frame (count .cellar 0x06 1 { a with priv := 2 } q.1)
    else
      match to_ with
      | some d => sendSlow e d q.1
      | none => discardRef e.frame q.1

/-- Writes bytes into local SRAM from an address on. -/
def putSram (addr : Nat) : Bytes → SMap Byte → SMap Byte
  | [], m => m
  | b :: bs, m => putSram (addr + 1) bs (mputD 0 (addr % 2 ^ 20) b m)

/-- A frame without FCS that the firmware has built in local SRAM goes to the transmit region, and from there to a
port or a channel in class 0. It is staged behind every chain that waits; where the region has no room for it, it
stays in local SRAM and is not sent (DESIGN CHOICE: R434 does not say what it waits for). -/
def sendBuilt (bs : Bytes) (to_ : SlowDest) (s : State) : State :=
  let out := padded bs
  let need := cellsFor out.length
  if !s.cellar.txWaiting.isEmpty || txFree s < need then s
  else
    let id := s.cellar.nextFrame
    let f : Frame := { bytes := out, pool := .transmit, cells := need, refs := 1 }
    let s := setFrame id f { s with cellar := { s.cellar with nextFrame := id + 1, txUsed := s.cellar.txUsed + need } }
    match to_ with
    | .chan c =>
      queueFrame c.toNat 0
        { frame := id, kind := .normal, bytes := out, tc := 0, l3err := false, l4err := false, held := false } s
    | .port g => discardRef id (cmToPort id g.toNat (ownerPress (g.toNat / 8) s) 0 out (now s) false s)

/-- What the firmware does with a frame. -/
def slowPathEnd (how : SlowEnd) (cell : CellarRead) (s : State) : State :=
  match how with
  | .send i d => endSlow i.toNat (some d) cell s
  | .discard i => endSlow i.toNat none cell s
  | .build a bs d => sendBuilt bs d { s with cm := { s.cm with sram := putSram a.toNat bs s.cm.sram } }

/-- CM_SLOW_PATH_END. -/
def execCmSlowPathEnd (how : SlowEnd) (cell : CellarRead) (s : State) : Host.Outcome State Fault Refusal :=
  if live s && cmRuns s then .next (settle (slowPathEnd how cell s)) else .next s

/-! ### Firmware activation (R438) -/

/-- Whether the length of an image is one that R438 allows. -/
def lenOk (n : Nat) : Bool := 64 ≤ n && n ≤ 786432 && n % 64 == 0

/-- A pass over the image starts: its reads are asked for (R369, R438). For a length that no image has there are none. -/
def startPass (s : State) : State :=
  if lenOk s.cm.loadLen then
    (pieces s.cm.loadAddr s.cm.loadLen).foldl (fun s p =>
      submitRead (ownerFunc s) (s.cm.loadAddr + BitVec.ofNat 64 p.1) p.2 .fwImage s) s
  else s

/-- ACTIVATE_FW under a key: a verify pass starts, unless a pass or the loading after it is in progress. The image's
address and length are those of this moment (DESIGN CHOICE: R438 does not say when they are taken). -/
def activateCmd (key digest : Bytes) (s : State) : State × CmdStatus :=
  if s.cm.state = 1 ∨ s.cm.state = 2 ∨ s.cm.state = 4 then (s, 2)
  else
    (startPass { s with cm := { s.cm with
      state := 1, previous := s.cm.state, digest := digest, key := key, loadLen := fget MGT_LOAD_LEN.len s
      loadAddr := pairVal MGT_LOAD_ADDR_LO.reg MGT_LOAD_ADDR_HI.reg s } }, 1)

/-- A session. -/
def session (i : Nat) (s : State) : Session := nth {} i s.mgmt.sessions

/-- Sets a session. -/
def setSession (i : Nat) (x : Session) (s : State) : State :=
  { s with mgmt := { s.mgmt with sessions := setNth i x s.mgmt.sessions } }

/-- ACTIVATE_FW with the 16-byte digest, commanded through an open session. -/
def execActivateFw (sid : BitVec 2) (digest : Bytes) (s : State) : Host.Outcome State Fault Refusal :=
  if live s && (session sid.toNat s).state == .open && digest.length == 16 then
    .next (settle (activateCmd (session sid.toNat s).ks digest s).1)
  else .next s

/-- Whether the image's length and header are as R438 says. -/
def headerOk (image : Bytes) (s : State) : Bool :=
  let n := s.cm.loadLen
  lenOk n && leAt 0 4 image == 0x5A434D31 && leAt 4 4 image == n
    && leAt 12 4 image == 0 && leAt 32 32 image == 0

/-- Whether the image that a pass read is the one the command's digest names. -/
def imageMatches (image : Bytes) (s : State) : Bool := Sha.mac s.cm.key image == s.cm.digest

/-- What a pass read, with the length the pass asks for: a failed read matches nothing. -/
def passOk (image : ReadResp) (s : State) : Bool :=
  match image with
  | .error => false
  | .data bs => headerOk bs s && imageMatches bs s

/-- The verify pass ends. -/
def verifyDone (image : ReadResp) (s : State) : State :=
  if passOk image s then { s with cm := { s.cm with state := 4 } }
  else
    raiseSource 5 (postError 2 12 0x0E 0 0 (fset MGT_CORE_STAT.act_fail 1
      { s with cm := { s.cm with state := s.cm.previous } }))

/-- The load pass ends: the threads start at their entry addresses, or the cellarmaster halts. Local SRAM beyond the image
keeps what it holds (R439). -/
def loadDone (image : ReadResp) (s : State) : State :=
  match image, passOk image s with
  | .data bs, true =>
    raiseSource 5 { s with cm := { s.cm.started with
      state := 3, version := nth 0 8 bs, image := bs
      sram := putSram bs.length (s.cm.image.drop bs.length) s.cm.sram, codeBad := false, restarting := false
      entries := [BitVec.ofNat 32 (leAt 16 4 bs), BitVec.ofNat 32 (leAt 20 4 bs), BitVec.ofNat 32 (leAt 24 4 bs),
                  BitVec.ofNat 32 (leAt 28 4 bs)] } }
  | _, _ => raiseSource 5 (haltCm (postError 2 10 0x0E 0 0 s))

/-- A read of the image failed (R367): the pass fails. -/
def passFails (s : State) : State :=
  let s := dropPass s
  match s.cm.state with
  | 1 => verifyDone .error s
  | 2 => loadDone .error s
  | _ => s

/-! ### Key slots (R441, R448, R489) -/

/-- A key slot. -/
def keySlot (n : Nat) (s : State) : KeySlot := nth {} n s.aux.keys

/-- Sets a key slot. -/
def setKeySlot (n : Nat) (k : KeySlot) (s : State) : State := { s with aux := { s.aux with keys := setNth n k s.aux.keys } }

/-- Whether the key-load port takes its inputs. -/
def keyPort_open (s : State) : Bool := s.aux.vaux && s.aux.portOpen

/-- KEY_WORD: one word of a key is presented. -/
def execKeyWord (slot word : BitVec 3) (data : Word) (s : State) : Host.Outcome State Fault Refusal :=
  if keyPort_open s then
    let k := keySlot slot.toNat s
    .next (setKeySlot slot.toNat { k with words := mput word.toNat data k.words } s)
  else .next s

/-- The key that eight presented words spell. -/
def keyOf (words : SMap Word) : BitVec 256 :=
  BitVec.ofNat 256 ((words.map fun e => e.2.toNat * 2 ^ (32 * e.1)).sum)

/-- KEY_COMMIT: an empty slot whose eight words have been presented is loaded. -/
def execKeyCommit (slot : BitVec 3) (s : State) : Host.Outcome State Fault Refusal :=
  let k := keySlot slot.toNat s
  if keyPort_open s && k.state == 0 && k.words.length == 8 then
    .next (setKeySlot slot.toNat { k with state := 1, key := keyOf k.words, words := [] } s)
  else .next s

/-- KEY_LOCK. -/
def execKeyLock (s : State) : Host.Outcome State Fault Refusal :=
  if s.aux.vaux then .next { s with aux := closePort s.aux } else .next s

/-- Every session of a slot is closed. -/
def closeSlot (n : Nat) (s : State) : State :=
  { s with mgmt := { s.mgmt with sessions := s.mgmt.sessions.map fun x =>
      if x.state != .free && x.slot == n then {} else x } }

/-- RETIRE_KEY erases and retires a slot; its sessions close afterwards. -/
def retireCmd (n : Nat) (s : State) : State × CmdStatus :=
  if 8 ≤ n then (s, 3)
  else (setKeySlot n { keySlot n s with state := 2, key := 0, words := [] } s, 0)

/-- RETIRE_KEY. -/
def execRetireKey (slot : Byte) (s : State) : Host.Outcome State Fault Refusal :=
  if live s then .next (closeSlot slot.toNat (retireCmd slot.toNat s).1) else .next s

/-! ### Messages (R444) -/

/-- A message of 24 bytes with no counter. -/
def plainMsg (type sid slot : Nat) (nonce : Bytes) : Bytes :=
  [BitVec.ofNat 8 type, BitVec.ofNat 8 sid, BitVec.ofNat 8 slot, 0, 0, 0, 0, 0] ++ nonce

/-- ERROR with a code, naming the session and slot of the message it answers. -/
def errorMsg (msg : Bytes) (code : Nat) : Bytes :=
  [8, nth 0 1 msg, nth 0 2 msg, 0, 0, 0, 0, 0, 0, BitVec.ofNat 8 code, 0, 0]

/-- Bytes of arguments of a steward command (R448); none for an opcode that is no command's. -/
def argLen (opcode : Nat) : Option Nat :=
  match opcode with
  | 1 => some 16
  | 2 => some 1
  | 3 => some 0
  | 4 => some 1
  | 5 => some 1
  | 6 => some 1
  | 7 => some 0
  | 8 => some 1
  | _ => none

/-- Whether a message has a type that a steward sends, its length, and RES0 bytes of 0 (R446). -/
def wellFormed (msg : Bytes) : Bool :=
  nth 0 3 msg == 0 &&
  match (nth 0 0 msg).toNat with
  | 1 => msg.length == 24
  | 3 => msg.length == 24
  | 7 => msg.length == 24
  | 5 =>
    leAt 10 2 msg == 0 &&
    (match argLen (nth 0 8 msg).toNat with
     | some n => msg.length == 28 + n
     | none => 28 ≤ msg.length && msg.length ≤ 128)
  | _ => false

/-! ### The way of a message (R443) -/

/-- The ways by which a session may be bound. -/
def bindOf : MsgPath → Option (Nat × BitVec 48)
  | .mailbox => none
  | .inband p sa _ => some (p.toNat, sa)

/-- The message that a path brings: the one handed over by the mailbox, or the one in a frame that arrived on a row with
in-band management, when firmware runs to receive it. -/
def incoming (path : MsgPath) (s : State) : Option Bytes :=
  match path with
  | .mailbox => s.mgmt.mboxBusy
  | .inband p _ msg =>
    if cmRuns s && (fget MGT_INBAND_CFG.row_en s).testBit (p.toNat / 8) then some msg else none

/-- An in-band reply as a frame without FCS. -/
def replyFrame (g : Nat) (sa : BitVec 48) (msg : Bytes) (s : State) : Bytes :=
  beBytes 6 sa.toNat ++ pauseSa g s ++ beBytes 2 0x88B5 ++ msg

/-- Sends a reply by the way the message came: the mailbox holds it, or the arrival port sends it in a frame. -/
def reply (path : MsgPath) (msg : Bytes) (s : State) : State :=
  match path with
  | .mailbox => raiseSource 5 { s with mgmt := { s.mgmt with mboxBusy := none, mboxRsp := some msg } }
  | .inband p sa _ =>
    let n := takeSerial s
    let g := p.toNat
    if isDest g n.2 then
      pushFwd g 0 (ownerPress (g / 8) n.2)
        { frame := none, bytes := padded (replyFrame g sa msg s), unmodified := false, oneStep := .off,
          ingress := now s, item := n.1 } n.2
    else n.2

/-- A message that is answered by nothing has been handled. -/
def handled (path : MsgPath) (s : State) : State :=
  match path with
  | .mailbox => { s with mgmt := { s.mgmt with mboxBusy := none } }
  | .inband _ _ _ => s

/-- Handles a message of the given type by f; one that is malformed receives ERROR 6, and one of another type is left to
its own command. -/
def onMessage (type : Nat) (path : MsgPath) (f : Bytes → State → State) (s : State) : Host.Outcome State Fault Refusal :=
  match live s, incoming path s with
  | true, some msg =>
    if !wellFormed msg then .next (settle (reply path (errorMsg msg 6) s))
    else if (nth 0 0 msg).toNat = type then .next (settle (f msg s))
    else .next s
  | _, _ => .next s

/-! ### Sessions (R445, R446) -/

/-- The lowest free session. -/
def freeSession (s : State) : Option Nat := (List.range 4).find? fun i => (session i s).state == .free

/-- The message m of R445. -/
def sessText (x : Session) (sid : Nat) : Bytes := [BitVec.ofNat 8 x.slot, BitVec.ofNat 8 sid] ++ x.ns ++ x.nb

/-- An HMAC of R445 under the key of a session's slot. -/
def sessMac (x : Session) (sid tag : Nat) (s : State) : Bytes :=
  Sha.hmac (leBytes 32 (keySlot x.slot s).key.toNat) (BitVec.ofNat 8 tag :: sessText x sid)

/-- An OPEN_REQ: the lowest free session is taken and CHALLENGE is sent. -/
def openReq (path : MsgPath) (msg : Bytes) (s : State) : State :=
  let slot := (nth 0 2 msg).toNat
  match freeSession s with
  | none => reply path (errorMsg msg 1) s
  | some i =>
    if (keySlot slot s).state != 1 || (keySlot slot s).lockout then reply path (errorMsg msg 2) s
    else
      let nb := leBytes 16 (Sys2Proof.Config.nonce s.freeCount).toNat
      let x : Session := { state := .challenged, slot := slot, inband := bindOf path, ns := slice 8 16 msg, nb := nb }
      reply path (plainMsg 2 i slot nb) (setSession i x { s with freeCount := s.freeCount + 1 })

/-- OPEN_REQ. -/
def execOpenReq (path : MsgPath) (s : State) : Host.Outcome State Fault Refusal := onMessage 1 path (openReq path) s

/-- The session that a message names, whose number may be none of the four. -/
def named (msg : Bytes) (s : State) : Session := session (nth 0 1 msg).toNat s

/-- An ERROR whose code no rule gives: the session is not in the state that the message needs. -/
def strayError (path : MsgPath) (msg : Bytes) (s : State) : State :=
  reply path (errorMsg msg (Sys2Proof.Config.sessionError s.freeCount).toNat) { s with freeCount := s.freeCount + 1 }

/-- A wrong proof: the fourth in a row on one slot locks it out. -/
def wrongProof (slot : Nat) (s : State) : State :=
  let k := keySlot slot s
  setKeySlot slot (if 3 ≤ k.wrong then { k with wrong := 0, lockout := true } else { k with wrong := k.wrong + 1 }) s

/-- A PROOF. -/
def proof (path : MsgPath) (msg : Bytes) (s : State) : State :=
  let i := (nth 0 1 msg).toNat
  let x := named msg s
  match x.state with
  | .challenged =>
    if x.inband ≠ bindOf path then reply path (errorMsg msg 8) s
    else if slice 8 16 msg = (sessMac x i 1 s).take 16 then
      let ps := (sessMac x i 2 s).take 16
      let s := setKeySlot x.slot { keySlot x.slot s with wrong := 0 } s
      let s := setSession i { x with state := .open, ks := sessMac x i 3 s, counter := 0 } s
      reply path (plainMsg 4 i x.slot ps) (count .global 0x0B 1 {} s)
    else reply path (errorMsg msg 3) (wrongProof x.slot (setSession i {} s))
  | .free => if x.expired then reply path (errorMsg msg 7) s else strayError path msg s
  | .open => if x.inband ≠ bindOf path then reply path (errorMsg msg 8) s else strayError path msg s

/-- PROOF. -/
def execProof (path : MsgPath) (s : State) : Host.Outcome State Fault Refusal := onMessage 3 path (proof path) s

/-- Whether the last 16 bytes of a message are its mac under a session's key. -/
def macOk (x : Session) (msg : Bytes) : Bool := slice (msg.length - 16) 16 msg == Sha.mac x.ks (msg.take (msg.length - 16))

/-! ### Commands (R447, R448) -/

/-- Executes a steward command with its first argument byte and its arguments. -/
def steward (opcode : Nat) (args : Bytes) (ks : Bytes) (s : State) : State × CmdStatus :=
  let a := (nth 0 0 args).toNat
  match opcode with
  | 1 => activateCmd ks args s
  | 2 => rackCmd a 0 s
  | 3 => abortCmd s
  | 4 => learnModeCmd a s
  | 5 => spareCmd a s
  | 6 => retireCmd a s
  | 7 => (counterReset [] s, 0)
  | 8 => restoreCmd a s
  | _ => (s, 3)

/-- The RESPONSE of 32 bytes. -/
def responseMsg (sid slot : Nat) (counter : Word) (opcode : Byte) (status : Nat) (result : Word) (ks : Bytes) : Bytes :=
  let body := [6, BitVec.ofNat 8 sid, BitVec.ofNat 8 slot, 0] ++ leBytes 4 counter.toNat
    ++ [opcode, BitVec.ofNat 8 status, 0, 0] ++ leBytes 4 result.toNat
  body ++ Sha.mac ks body

/-- A COMMAND with the next counter is executed and answered. The sessions of a retired slot close after the RESPONSE. -/
def runCommand (path : MsgPath) (i : Nat) (x : Session) (msg : Bytes) (s : State) : State :=
  let op := nth 0 8 msg
  let counter := BitVec.ofNat 32 (leAt 4 4 msg)
  let args := slice 12 (msg.length - 28) msg
  let r := steward op.toNat args x.ks s
  let s := r.1
  let rsp := responseMsg i x.slot counter op r.2 (Sys2Proof.Config.response s.freeCount) x.ks
  let s := setSession i { x with counter := counter, lastMac := slice (msg.length - 16) 16 msg, lastResp := rsp }
    { s with freeCount := s.freeCount + 1 }
  let s := reply path rsp s
  if op.toNat = 6 then closeSlot (nth 0 0 args).toNat s else s

/-- A COMMAND. -/
def command (path : MsgPath) (msg : Bytes) (s : State) : State :=
  let i := (nth 0 1 msg).toNat
  let x := named msg s
  if x.state != .free && x.inband != bindOf path then reply path (errorMsg msg 8) s
  else if x.state != .open then strayError path msg s
  else if !macOk x msg then reply path (errorMsg msg 4) (setSession i {} s)
  else if leAt 4 4 msg = x.counter.toNat + 1 then runCommand path i x msg s
  else if leAt 4 4 msg = x.counter.toNat ∧ slice (msg.length - 16) 16 msg = x.lastMac then reply path x.lastResp s
  else reply path (errorMsg msg 5) s

/-- COMMAND. -/
def execCommand (path : MsgPath) (s : State) : Host.Outcome State Fault Refusal := onMessage 5 path (command path) s

/-- A CLOSE. -/
def closeMsg (path : MsgPath) (msg : Bytes) (s : State) : State :=
  let i := (nth 0 1 msg).toNat
  let x := named msg s
  if x.state != .free && x.inband != bindOf path then reply path (errorMsg msg 8) s
  else if x.state != .open then strayError path msg s
  else if !macOk x msg then reply path (errorMsg msg 4) (setSession i {} s)
  else handled path (setSession i {} s)

/-- CLOSE. -/
def execClose (path : MsgPath) (s : State) : Host.Outcome State Fault Refusal := onMessage 7 path (closeMsg path) s

/-- CHALLENGE_TIMEOUT: 1 s has passed since the CHALLENGE. -/
def execChallengeTimeout (sid : BitVec 2) (s : State) : Host.Outcome State Fault Refusal :=
  if live s && (session sid.toNat s).state == .challenged then .next (setSession sid.toNat { expired := true } s)
  else .next s

/-- SESSION_IDLE_TIMEOUT: 60 s have passed without a valid COMMAND. -/
def execSessionIdleTimeout (sid : BitVec 2) (s : State) : Host.Outcome State Fault Refusal :=
  if live s && (session sid.toNat s).state == .open then .next (setSession sid.toNat {} s) else .next s

/-- KEY_LOCKOUT_END: 10 s have passed since the lockout of a slot. -/
def execKeyLockoutEnd (slot : BitVec 3) (s : State) : Host.Outcome State Fault Refusal :=
  .next (setKeySlot slot.toNat { keySlot slot.toNat s with lockout := false } s)

/-! ### The mailbox (R448) -/

/-- The 16 bytes that MGT_MBOX_ARG holds. -/
def mboxArgs (s : State) : Bytes := (List.range 4).flatMap fun i => leBytes 4 (fget (MGT_MBOX_ARG.data i) s)

/-- Op 1 of the mailbox: MGT_MBOX_ARG becomes a part of the message (R448). -/
def mboxStore (part : Nat) (s : State) : State :=
  { s with mgmt := { s.mgmt with mboxMsg := splice (16 * part) (mboxArgs s) s.mgmt.mboxMsg } }

/-- MBOX_STORE_PART. -/
def execMboxStorePart (part : BitVec 3) (s : State) : Host.Outcome State Fault Refusal :=
  if regLive s then
    .next (mboxStore part.toNat (fset MGT_MBOX_CMD.part part.toNat s))
  else .next s

/-- Op 2: the stored message is handed to the engine, or ignored while one is being handled. -/
def mboxSend (len : Nat) (s : State) : State :=
  if s.mgmt.mboxBusy.isSome then fset MGT_MBOX_STAT.overrun 1 s
  else { s with mgmt := { s.mgmt with
    mboxBusy := some (s.mgmt.mboxMsg.take len ++ List.replicate (len - 128) 0), mboxRsp := none } }

/-- MBOX_SEND. -/
def execMboxSend (len : Byte) (s : State) : Host.Outcome State Fault Refusal :=
  if regLive s then .next (mboxSend len.toNat (fset MGT_MBOX_CMD.len len.toNat s)) else .next s

/-- Op 3: a part of the response goes to MGT_MBOX_ARG; what lies beyond its end is not stated. -/
def mboxFetch (part : Nat) (s : State) : State :=
  match s.mgmt.mboxRsp with
  | none => s
  | some r =>
    (List.range 4).foldl (fun s i =>
      let off := 16 * part + 4 * i
      if off < r.length then fset (MGT_MBOX_ARG.data i) (leAt off 4 r) s
      else
        fset (MGT_MBOX_ARG.data i) (Sys2Proof.Config.mboxFill s.freeCount).toNat
          { s with freeCount := s.freeCount + 1 }) s

/-- MBOX_FETCH_PART. -/
def execMboxFetchPart (part : BitVec 3) (s : State) : Host.Outcome State Fault Refusal :=
  if regLive s then .next (mboxFetch part.toNat (fset MGT_MBOX_CMD.part part.toNat s)) else .next s

end Sys2Proof.Machine
end

