-- ==== Sys2Proof/Machine/Reply.lean ====
section
/-!
DEFINITION. The answer to an outstanding read request (R357 to R367, R372): what every read-completion command does
around the effect of its own kind of request.
-/

namespace Sys2Proof.Machine

/-- What may have waited for a request that has left the fabric: a channel that is stopping (R82, R83), or a function
that drains (R373). -/
def afterReq (r : Req) (s : State) : State :=
  let s := match r.purpose.chan with
    | some c => stopCheck c s
    | none => s
  drainCheck r.func s

/-- The first entry of the quarantine for a request. -/
def quarantined (req : Nat) (s : State) : Option Quarantine := s.fabric.quarantine.find? fun q => q.req == req

/-- An answer to a request that has timed out is discarded and counted, and its tag or identifier leaves quarantine (R364,
R365). An answer to no request that the block has made tells it nothing, and is discarded. -/
def lateAnswer (req : Nat) (s : State) : State :=
  match quarantined req s with
  | none => s
  | some q => settle (drainCheck q.func (releaseQuarantine (· == q) (lateCount q s)))

/-- A completion answers request req of a kind that mine picks. ok is what the data does and err what the fault of the
requester does (R367); a completion that is no longer wanted is discarded (R372), and so is one that answers no such
request. -/
def readReply (req : Nat) (resp : ReadResp) (mine : Purpose → Bool) (ok : Req → Bytes → State → State)
    (err : Req → State → State) (s : State) : Host.Outcome State Fault Refusal :=
  if !auxPort s then .next s
  else
    match findReq req s with
    | none => .next (lateAnswer req s)
    | some r =>
      if r.write || !mine r.purpose then .next s
      else
        let t := dropReq req s
        match resp with
        | .error =>
          let t := errResponse r t
          .next (settle (afterReq r (if r.discard then t else err r t)))
        | .data bs =>
          if bs.length != r.len then .fault .wrongLength
          else .next (settle (afterReq r (if r.discard then t else ok r bs t)))

end Sys2Proof.Machine
end

