-- ==== Sys2Proof/Machine/Engine.lean ====
section
/-!
DEFINITION. The table engine (R245 to R268): the command ring and the internal queue, locks, the commands with their
results, sweeps, zone moves and replica copies, and the learn ring's header.
-/

namespace Sys2Proof.Machine

/-! ### Commands and results (R253 to R255) -/

/-- The fields of a table command. -/
structure TblFields where
  condAge : Bool
  useLock : Bool
  ticket : Nat
  slot : Nat
  fanout : Bool
  replica : Nat
  table : Nat
  opcode : Nat
  index : Nat
  addr : Nat
  res0 : Bool
  image : Bytes

/-- The fields of a command; image is the data that the command carries, inline or fetched. -/
def TblCmd.fields (c : TblCmd) : TblFields :=
  let w := leAt 0 4 c.bytes
  { condAge := bit w 29, useLock := bit w 28, ticket := bits w 27 20, slot := bits w 19 16, fanout := bit w 15,
    replica := bits w 14 12, table := bits w 11 8, opcode := bits w 7 0, index := leAt 4 4 c.bytes,
    addr := leAt 8 8 c.bytes, res0 := bits w 31 30 != 0,
    image := if c.data.isEmpty then slice 0x10 32 c.bytes else c.data }

/-- A result: the code, what LOCK and UNLOCK return, the vintage, result_key, and the data to write. -/
structure TblRes where
  code : Nat
  slot : Nat := 0
  ticket : Nat := 0
  detail : Nat := 0
  vintage : Word := 0
  key : Nat := 0
  data : Bytes := []

/-- Bytes 0x30 to 0x3F of a command. -/
def TblRes.bytes (r : TblRes) : Bytes :=
  leBytes 4 (r.slot * 2 ^ 24 + r.ticket * 2 ^ 16 + r.detail * 2 ^ 8 + r.code) ++ leBytes 4 r.vintage.toNat
    ++ leBytes 8 r.key

/-- Bytes at data_addr that a WRITE to a table takes from there (R254). -/
def dataSize (table : Nat) : Nat :=
  match table with
  | 5 => 64
  | 7 => 144
  | 8 => 192
  | _ => 0

/-- The bytes that the engine still reads at data_addr for a command. -/
def TblCmd.wants (c : TblCmd) : Nat :=
  let f := c.fields
  if f.opcode = 4 ∧ f.addr % 16 = 0 ∧ c.fault = false then dataSize f.table - c.data.length else 0

/-! ### The command ring (R250, R251) -/

/-- The address of the command ring's header. -/
def cmdBase (s : State) : DWord := pairVal TBL_CMD_BASE_LO.reg TBL_CMD_BASE_HI.reg s

/-- The size of the command ring as log2. -/
def cmdLog2 (s : State) : Nat := clamp 6 16 (fget TBL_CMD_SIZE.size_log2 s)

/-- The address of the command with a free-running index. -/
def cmdAddr (i : Word) (s : State) : DWord := cmdBase s + BitVec.ofNat 64 (64 + i.toNat % 2 ^ cmdLog2 s * 64)

/-- Whether the command ring is served. -/
def ringServed (s : State) : Bool := fbit TBL_CTL.cmd_ring_en s && !s.engine.ringOff

/-- Reads prod; while that read is outstanding, one more follows it (R55). -/
def readCmdProd (s : State) : State :=
  if s.engine.headOut then
    if readWaits .cmdHeader s then s else { s with engine := { s.engine with headAgain := true } }
  else submitRead (ownerFunc s) (cmdBase s) 4 .cmdHeader { s with engine := { s.engine with headOut := true } }

/-- TABLE_COMMAND_DOORBELL. -/
def execTableCommandDoorbell (s : State) : Host.Outcome State Fault Refusal :=
  if regLive s && ringServed s then .next (settle (readCmdProd s)) else .next s

/-- The command ring is not served until it is enabled again (R251, R367). -/
def ringFault (s : State) : State :=
  raiseSource 7 (fset TBL_STAT.ring_fault 1
    { s with engine := { s.engine with ringOff := true, ringQ := [], fetched := none } })

/-- Asks for the next bytes of a command's data, as a request for p. -/
def readData (c : TblCmd) (p : Purpose) (s : State) : State :=
  let a := BitVec.ofNat 64 (c.fields.addr + c.data.length)
  match pieces a c.wants with
  | [] => s
  | x :: _ => submitRead (ownerFunc s) a x.2 p s

/-- Fetches the data of the command in front of the firmware's queue. -/
def fetchCm (s : State) : State :=
  match s.engine.cmQ with
  | c :: _ =>
    if s.engine.cmDataOut || c.wants = 0 then s
    else readData c .cmData { s with engine := { s.engine with cmDataOut := true } }
  | [] => s

/-- The data read for the command in front of the firmware's queue arrived, or not (result 0x0A). -/
def cmDataRead (bs : Option Bytes) (s : State) : State :=
  let got := fun (c : TblCmd) => match bs with
    | some bs => { c with data := c.data ++ bs }
    | none => { c with fault := true }
  let s := { s with engine := { s.engine with cmDataOut := false } }
  match s.engine.cmQ with
  | c :: q => fetchCm { s with engine := { s.engine with cmQ := got c :: q } }
  | [] => s

/-- Fetches the data of the command that was read, or the next command. -/
def fetchCmd (s : State) : State :=
  let e := s.engine
  if !ringServed s || e.cmdOut || e.dataOut then s
  else
    match e.fetched with
    | some c => if c.wants = 0 then s else readData c .cmdData { s with engine := { e with dataOut := true } }
    | none =>
      if e.fetch = e.prod then s
      else submitRead (ownerFunc s) (cmdAddr e.fetch s) 64 .cmdRead { s with engine := { e with cmdOut := true } }

/-- A command that was read waits for its data or enters the ring's queue. -/
def queueCmd (c : TblCmd) (s : State) : State :=
  if c.wants = 0 then
    fetchCmd { s with engine := { s.engine with fetched := none, ringQ := s.engine.ringQ ++ [c] } }
  else fetchCmd { s with engine := { s.engine with fetched := some c } }

/-- prod of the command ring was read. -/
def headDone (v : Word) (s : State) : State :=
  let e := s.engine
  let again := e.headAgain
  let s := { s with engine := { e with headOut := false, headAgain := false } }
  if !ringServed s then s
  else if 2 ^ cmdLog2 s < used v e.done || used v e.done < used e.prod e.done then ringFault s
  else
    let s := { s with engine := { s.engine with prod := v } }
    fetchCmd (if again then readCmdProd s else s)

/-- What the engine read for its commands. -/
def ringRead (p : Purpose) (bs : Bytes) (s : State) : State :=
  match p with
  | .cmData => cmDataRead (some bs) s
  | .cmdHeader => headDone (BitVec.ofNat 32 (leNat bs)) s
  | .cmdRead =>
    let i := s.engine.fetch
    let s := { s with engine := { s.engine with cmdOut := false } }
    if ringServed s then
      queueCmd { fromRing := true, index := i, bytes := bs, data := [], fault := false }
        { s with engine := { s.engine with fetch := i + 1 } }
    else s
  | _ =>
    let s := { s with engine := { s.engine with dataOut := false } }
    match s.engine.fetched with
    | some c => queueCmd { c with data := c.data ++ bs } s
    | none => s

/-- A fabric fault of a read for the engine's commands (R367). -/
def ringReadFailed (p : Purpose) (s : State) : State :=
  match p with
  | .cmData => cmDataRead none s
  | .cmdHeader => ringFault { s with engine := { s.engine with headOut := false, headAgain := false } }
  | .cmdRead => ringFault { s with engine := { s.engine with cmdOut := false } }
  | _ =>
    let s := { s with engine := { s.engine with dataOut := false } }
    match s.engine.fetched with
    | some c => queueCmd { c with fault := true } s
    | none => s

/-- Whether a request is a read for the command ring. -/
def Purpose.isRing : Purpose → Bool
  | .cmdHeader | .cmdRead | .cmdData => true
  | _ => false

/-- Whether a request is a read for a command of either source. -/
def Purpose.isCmd (p : Purpose) : Bool := p.isRing || p == .cmData

/-- A write of TBL_CTL: an enable of the command ring resumes it at the done value last written, and reads prod
(R251). What was read for the ring before is of no use. -/
def tableCtl (data : Word) (s : State) : State :=
  let was := fbit TBL_CTL.cmd_ring_en s
  let s := setReg TBL_CTL.reg (data &&& 0xC0FF0000#32) s
  if fbit TBL_CTL.cmd_ring_en s = was then s
  else
    let e := s.engine
    let running := e.resultOut || e.waiting.isSome
      || [e.sweep, e.move, e.copy].any fun j => (j.map (·.cmd.fromRing)).getD false
    let at_ := if running then e.done + 1 else e.done
    let s := discardReqs (·.purpose.isRing) { s with engine := { e with
      ringOff := false, ringQ := [], fetched := none, prod := at_, fetch := at_, headOut := false, headAgain := false,
      cmdOut := false, dataOut := false } }
    if was then s else readCmdProd s

/-! ### Which command is next (R252, R268) -/

/-- Whether a source is still busy with its last command. -/
def sourceBusy (ring : Bool) (s : State) : Bool :=
  let e := s.engine
  (if ring then e.resultOut || e.waiting.isSome else e.cmWaiting.isSome)
    || [e.sweep, e.move, e.copy].any fun j => (j.map (·.cmd.fromRing == ring)).getD false

/-- Whether a command changes tables in every replica. -/
def TblFields.fans (f : TblFields) : Bool := f.fanout && (f.opcode == 4 || f.opcode == 5 || f.opcode == 6)

/-- Whether a command must wait: during a cutover fan-out changes and LOCK (R268), and during a zone move the commands
on its tables. -/
def mustWait (f : TblFields) (s : State) : Bool :=
  (s.engine.hold && (f.fans || f.opcode == 1))
    || (s.engine.move.isSome && (f.table == 1 || f.table == 2) && (f.opcode == 3 || f.opcode == 4 || f.opcode == 5 || f.opcode == 6))

/-- The command of a source that can run now; its data has been read. -/
def sourceHead (ring : Bool) (s : State) : Option TblCmd :=
  if sourceBusy ring s then none
  else (if ring then s.engine.ringQ else s.engine.cmQ).head?.filter fun c => c.wants == 0 && !mustWait c.fields s

/-- The command that the engine serves next: the sources take turns. -/
def nextCmd (s : State) : Option TblCmd :=
  if fbit TBL_CTL.en s then
    if s.engine.cmNext then (sourceHead false s).or (sourceHead true s)
    else (sourceHead true s).or (sourceHead false s)
  else none

/-- Takes a command from its source's queue, which a waiting command of the firmware then enters (R435); the other
source has the next turn. -/
def takeCmd (c : TblCmd) (s : State) : State :=
  let e := s.engine
  { s with engine :=
    if c.fromRing then { e with ringQ := e.ringQ.tail, cmNext := true }
    else { e with cmQ := e.cmQ.tail ++ e.cmWait.take 1, cmWait := e.cmWait.drop 1, cmNext := false } }

/-! ### Ending a command (R252, R256) -/

/-- A command's result goes into the ring, or to the firmware. -/
def answer (c : TblCmd) (r : TblRes) (s : State) : State :=
  if c.fromRing then
    submitWrite (ownerFunc s) (cmdAddr c.index s + 0x30) r.bytes .tblResult
      { s with engine := { s.engine with waiting := none, resultOut := true } }
  else
    let l := s.engine.cmDone
    { s with engine := { s.engine with cmWaiting := none, cmDone := (l ++ [r.bytes]).drop (l.length + 1 - 64) } }

/-- Sets the result of a source that waits for its data write. -/
def setWait (ring : Bool) (w : TblWait) (s : State) : State :=
  { s with engine := if ring then { s.engine with waiting := some w } else { s.engine with cmWaiting := some w } }

/-- A command ends with a result: data goes to data_addr first. -/
def finish (c : TblCmd) (r : TblRes) (s : State) : State :=
  let s := count .global 0x04 1 (if c.fromRing then {} else { priv := 2 }) s
  if r.data.isEmpty then answer c r s
  else
    let w := submitData (ownerFunc s) (BitVec.ofNat 64 c.fields.addr) r.data (.tblData c.fromRing) s
    setWait c.fromRing ⟨c, w.2, false, r.vintage⟩ w.1

/-- A data write of a command of a source was acknowledged, or failed (result 0x0A). -/
def tblDataAcked (ring ok : Bool) (s : State) : State :=
  match if ring then s.engine.waiting else s.engine.cmWaiting with
  | none => s
  | some w =>
    let w := { w with writesLeft := w.writesLeft - 1, failed := w.failed || !ok }
    if w.writesLeft = 0 then answer w.cmd { code := if w.failed then 0x0A else 0, vintage := w.vintage } s
    else setWait ring w s

/-- A result was written: done advances past its command. -/
def tblResultAcked (ok : Bool) (s : State) : State :=
  let s := { s with engine := { s.engine with resultOut := false } }
  if ok then
    let d := s.engine.done + 1
    submitWrite (ownerFunc s) (cmdBase s + 4) (leBytes 4 d.toNat) .tblDone { s with engine := { s.engine with done := d } }
  else ringFault s

/-! ### Targets and vintages (R257, R261, R262, R266) -/

/-- The replicas that a command names. -/
def TblFields.targets (f : TblFields) : List Nat := if f.fanout then List.range 5 else [f.replica]

/-- A change of one replica by a command; one with fanout 0 is shadowed (R266). -/
def applyTo (fan : Bool) (k : Nat) (g : Replica → Replica) (s : State) : State :=
  if fan then modReplica k g s else changeShadowed k g s

/-- The next vintage when fan is set, complete in every replica; the low bits stamp entries. -/
def takeVintage (fan : Bool) (s : State) : State :=
  if fan then
    let v := s.engine.vintage + 1
    { s with engine := { s.engine with vintage := v, vintages := List.replicate 5 v } }
  else s

/-- The vintage that a command returns. -/
def gotVintage (fan : Bool) (s : State) : Word := if fan then s.engine.vintage else 0

/-! ### Exact-match writes (R231, R232) -/

/-- The lowest age of an occupant in any replica of a press in use (R232), or its own where none of them holds it. -/
def commonAge (s : State) (e : Nat × EmEntry) : Nat :=
  let ages := ((List.range 5).filter fun k => inUse k s).filterMap fun k =>
    ((replica k s).em.find? fun x => x.2.key == e.2.key).map (·.2.age)
  ages.min?.getD e.2.age

/-- Whether replica k takes a key at the place that was chosen in replica t (R232). An occupant that is static in one
of them alone is not the same: a static entry is never evicted. -/
def placeAgrees (k t n b : Nat) (key : EmKey) (s : State) : Bool :=
  let keys := fun (i : Nat) => (occupants n key.width (replica i s)).map fun e => (e.2.key, e.2.isStatic && e.2.key != key)
  ((findKey b key (replica k s)).map (·.1) == none || (findKey b key (replica k s)).map (·.1) == some n)
    && ((keys k).isEmpty || keys k == keys t)

/-- The place of a key in every target: the one chosen in the first where the others agree, else their own (R232). The
second part says that replicas diverge. -/
def placings (evict : Bool) (b : Nat) (key : EmKey) (ts : List Nat) (s : State) : List (Nat × Placing) × Bool :=
  let own := fun (age : Nat × EmEntry → Nat) (k : Nat) =>
    decidePlace evict (evictPolicy s) s.engine.lfsr.toNat age b key (replica k s)
  match ts with
  | [] => ([], false)
  | [t] => ([(t, own ownAge t)], false)
  | t :: rest =>
    let p := own (commonAge s) t
    let others := rest.map fun k => if p != .none && placeAgrees k t p.slot b key s then (k, p) else (k, own ownAge k)
    ((t, p) :: others, rest.any fun k => !(p != .none && placeAgrees k t p.slot b key s))

/-- The entries that putting a key at a place removes. -/
def evicted (p : Placing) (key : EmKey) (r : Replica) : List (Nat × EmEntry) :=
  if p = .none then [] else (occupants p.slot key.width r).filter fun e => e.2.key != key

/-- Puts an entry at a place of replica k. Its vintage is the command's, or without one the entry's own or 0 (R261). -/
def placeIn (fan : Bool) (e : EmEntry) (k : Nat) (p : Placing) (s : State) : State :=
  let r := replica k s
  let old := (r.em.find? fun x => x.1 == p.slot && x.2.key == e.key).map (·.2.vintage)
  let v := if fan then BitVec.ofNat 16 s.engine.vintage.toNat else old.getD 0
  let s := if (evicted p e.key r).isEmpty then s else countEvict s
  unfilter k e.key (applyTo fan k (emPut p.slot { e with vintage := v }) s)

/-- Writes an entry into every target, or answers 0x04 when one has no place. The caller has taken the vintage. -/
def emWrite (evict fan : Bool) (e : EmEntry) (ts : List Nat) (s : State) : Except Nat (State × TblRes) :=
  let b := keyBucket e.key s
  let ps := placings evict b e.key ts s
  if ps.1.any fun p => p.2 == .none then .error 0x04
  else
    let outs := ps.1.flatMap fun p => evicted p.2 e.key (replica p.1 s)
    let replaced := match ps.1.head? with
      | some (_, .replace _) => true
      | _ => false
    let t := if outs.isEmpty then s else advanceLfsr s
    let t := if ps.2 then fset TBL_LEARN_STAT.diverged 1 t else t
    let t := ps.1.foldl (fun t p => placeIn fan e p.1 p.2 t) t
    let code := if !outs.isEmpty then 1 else if replaced then 2 else 0
    .ok (t, { code := code, vintage := gotVintage fan t, key := ((outs.head?.map (·.2.key.head)).getD 0) })

/-! ### Deletes (R248) -/

/-- max_age (TBL_AGE_CFG). -/
def maxAge (s : State) : Nat := max 1 (fget TBL_AGE_CFG.max_age s)

/-- The entries of a key in the replicas of presses in use. -/
def usedHolders (key : EmKey) (s : State) : List (Nat × Nat × EmEntry) :=
  ((List.range 5).filter fun k => inUse k s).filterMap fun k => (findKey (keyBucket key s) key (replica k s)).map fun e => (k, e)

/-- Removes a key from every target that holds it, or answers why not. -/
def emDelete (fan cond : Bool) (key : EmKey) (ts : List Nat) (s : State) : Except Nat (State × TblRes) :=
  let held := ts.filterMap fun k => (findKey (keyBucket key s) key (replica k s)).map fun e => (k, e.1)
  let hs := usedHolders key s
  if cond && hs.isEmpty then .error 0x03
  else if cond && hs.any (fun h => h.2.2.age < maxAge s) then .error 0x0E
  else if held.isEmpty then .error 0x03
  else
    let t := held.foldl (fun t h => applyTo fan h.1 (emErase h.2) t) s
    let t := ts.foldl (fun t k => unfilter k key t) t
    .ok (t, { code := 0, vintage := gotVintage fan t })

/-! ### Locks (R258 to R260) -/

/-- A lock slot of the engine. -/
def lockOf (n : Nat) (s : State) : LockSlot := nth {} n s.engine.locks

/-- Sets a lock slot. -/
def setLock (n : Nat) (l : LockSlot) (s : State) : State :=
  { s with engine := { s.engine with locks := setNth n l s.engine.locks } }

/-- Why a command may not act under the lock that it names. -/
def lockError (f : TblFields) (s : State) : Option Nat :=
  let l := lockOf f.slot s
  if l.held && l.ticket.toNat == f.ticket then none
  else if l.broken.any fun t => t.toNat == f.ticket then some 0x0C
  else some 0x07

/-- The replicas that a lock concerns. -/
def LockSlot.replicas (l : LockSlot) : List Nat := if l.all then List.range 5 else [l.replica]

/-- Whether a copy into a replica that a command names is running. -/
def copyInto (f : TblFields) (s : State) : Bool :=
  (s.engine.copy.map fun j => j.targets.any fun t => f.targets.contains t).getD false

/-- LOCK. One for a replica into which a copy is running is busy (DESIGN CHOICE: the copy would change the bucket
under the lock). -/
def runLock (f : TblFields) (s : State) : State × TblRes :=
  if f.table != 0 || 262144 ≤ f.index || (!f.fanout && 5 ≤ f.replica) then (s, { code := 0x09 })
  else if coordinated s && !f.fanout then (s, { code := 0x08 })
  else if copyInto f s || f.targets.any fun k => bucketLocked k f.index s then (s, { code := 0x05 })
  else
    let free := (List.range 16).filter fun i => !(lockOf i s).held
    match free[Sys2Proof.Config.lockSlot s.freeCount % free.length]? with
    | none => (s, { code := 0x06 })
    | some i =>
      let t := (lockOf i s).ticket + 1
      (setLock i { ticket := t, held := true, broken := (lockOf i s).broken.filter (· != t), all := f.fanout,
                   replica := f.replica, bucket := f.index,
                   staged := [] } { s with freeCount := s.freeCount + 1 },
       { code := 0, slot := i, ticket := t.toNat })

/-- Carries out one staged change. -/
def runStaged (l : LockSlot) (x : Staged) (s : State) : Except Nat State :=
  match x with
  | .write e => (emWrite false l.all e l.replicas s).map (·.1)
  | .delete key cond => (emDelete l.all cond key l.replicas s).map (·.1)

/-- Carries out staged changes in order; the error says which failed, and with what result. -/
def runAllStaged (l : LockSlot) : Nat → List Staged → State → Except (Nat × Nat) State
  | _, [], s => .ok s
  | i, x :: xs, s =>
    match runStaged l x s with
    | .error code => .error (i, code)
    | .ok s => runAllStaged l (i + 1) xs s

/-- A lock slot is free again; timedOut says that the lock was broken (R260). -/
def LockSlot.release (l : LockSlot) (timedOut : Bool) : LockSlot :=
  { l with held := false, broken := if timedOut then l.broken ++ [l.ticket] else l.broken, staged := [] }

/-- UNLOCK (R259). -/
def runUnlock (f : TblFields) (s : State) : State × TblRes :=
  if f.table != 0 then (s, { code := 0x09 })
  else
    match lockError f s with
    | some code => (s, { code := code })
    | none =>
      let l := lockOf f.slot s
      let free := setLock f.slot (l.release false) s
      if f.index % 2 = 1 || l.staged.isEmpty then (free, { code := 0 })
      else if !l.all && changeLocked l.replica l.bucket free then (free, { code := 0x05 })
      else
        match runAllStaged l 0 l.staged (takeVintage l.all free) with
        | .ok t => (t, { code := 0, vintage := gotVintage l.all t })
        | .error (i, code) => (free, { code := code, detail := i })

/-- Stages a change of a lock. It is applied to the replicas of the lock, whatever fanout and replica the command gives
(DESIGN CHOICE: R259 says "each replica concerned"). -/
def stage (f : TblFields) (key : EmKey) (x : Staged) (s : State) : State × TblRes :=
  match lockError f s with
  | some code => (s, { code := code })
  | none =>
    let l := lockOf f.slot s
    if keyBucket key s != l.bucket then (s, { code := 0x07 })
    else if 8 ≤ l.staged.length then (s, { code := 0x04 })
    else (setLock f.slot { l with staged := l.staged ++ [x] } s, { code := 0x0D })

/-! ### Index tables (R227, R264, R275, R286, R287) -/

/-- Whether every byte is zero. -/
def allZero (bs : Bytes) : Bool := bs.all (· == 0)

/-- Whether a template image may be written (R287). -/
def templateOk (b : Bytes) : Bool :=
  let w := leAt 0 4 b
  let t := parseTemplate b
  let geneve := leAt 0 1 (slice (t.l4 + 8) 1 t.hdr) % 64 * 4 ≤ 64 && beAt (t.l4 + 10) 2 t.hdr == 0x6558
  let gre := beAt (t.l4 + 2) 2 t.hdr == 0x6558 && beAt t.l4 1 t.hdr < 128
  bits w 25 24 == 0 && bits w 7 0 == 0 && allZero (slice 4 12 b)
    && 1 ≤ t.kind && t.kind ≤ 4 && 38 ≤ t.len && t.len ≤ 176 && (t.l3 == 14 || t.l3 == 18 || t.l3 == 22)
    && (t.kind == 1 || (if t.kind = 2 then geneve else gre))

/-- Whether a classification row's image may be written (R276). -/
def rowImageOk (b : Bytes) : Bool :=
  let a := leAt 0x84 4 b
  bits (leAt 0 60 b) 479 478 == 0 && leAt 0x3C 4 b == 0 && leAt 0x7C 4 b % 2 ^ 31 == 0 && bits a 14 12 == 0
    && leAt 0x88 8 b == 0

/-- Whether a group entry's RES0 fields are zero. -/
def groupOk (b : Bytes) : Bool :=
  (List.range 4).all (fun i => bits (leAt (0x20 + 2 * i) 2 b) 14 13 == 0) && allZero (slice 0x28 24 b)

/-- Entries of an indexed table. -/
def tableSize (table : Nat) : Nat :=
  match table with
  | 2 => 162
  | 3 => 4096
  | 4 => 16384
  | 5 => 4096
  | 6 => 16384
  | 7 => 16384
  | 8 => 4096
  | _ => 0

/-- Whether an image may be written to an indexed table. -/
def imageOk (table : Nat) (b : Bytes) : Bool :=
  match table with
  | 2 => leAt 0 4 b < 2 ^ 17 && leAt 4 4 b < 2 ^ 17
  | 3 => bits (leAt 0 4 b) 30 14 == 0
  | 4 => bits (leAt 0 4 b) 29 24 == 0
  | 5 => groupOk b
  | 6 => bits (leAt 0 8 b) 63 61 == 0 && bits (leAt 8 8 b) 63 63 == 0
  | 7 => rowImageOk b
  | _ => templateOk b

/-- Writes an image at an index of a replica's table. An entry of zeros is not listed. -/
def putImage (table i : Nat) (b : Bytes) (r : Replica) : Replica :=
  let word := BitVec.ofNat 32 (leAt 0 4 b)
  let put := fun (n : Nat) (m : SMap Bytes) => if allZero (b.take n) then merase i m else mput i (b.take n) m
  match table with
  | 2 => { r with zones := mputD (0, 0) i (leAt 0 4 b, leAt 4 4 b) r.zones }
  | 3 => { r with vids := mputD 0 i word r.vids }
  | 4 => { r with domains := mputD 0 i word r.domains }
  | 5 => { r with groups := put 64 r.groups }
  | 6 => { r with hops := put 16 r.hops }
  | 7 => { r with cls := put 144 r.cls }
  | _ => { r with templates := put 192 r.templates }

/-- The image at an index of a replica's table. -/
def getImage (table i : Nat) (r : Replica) : Bytes :=
  let bytes := fun (n : Nat) (m : SMap Bytes) => mgetD (List.replicate n 0) i m
  match table with
  | 2 => leBytes 4 (zoneOf i r).1 ++ leBytes 4 (zoneOf i r).2
  | 3 => leBytes 4 (mgetD 0 i r.vids).toNat
  | 4 => leBytes 4 (mgetD 0 i r.domains).toNat
  | 5 => bytes 64 r.groups
  | 6 => bytes 16 r.hops
  | 7 => bytes 144 r.cls
  | _ => bytes 192 r.templates

/-! ### READ and DUMP -/

/-- The image of an exact-match entry: one slot, or a host key's two (R225). -/
def EmEntry.image (e : EmEntry) : Bytes := if e.key.width = 2 then e.bytes else e.headBytes

/-- What a READ under a lock sees: the replicas with the staged changes applied as far as they can be. -/
def stagedView (l : LockSlot) (s : State) : State :=
  l.staged.foldl (fun s x => match runStaged l x s with | .ok t => t | .error _ => s) s

/-- The LPM key of an image, whatever its action. -/
def lpmKey (b : Bytes) : Option LpmEntry := parseLpm (splice 4 [0, 0, 0, 0] b)

/-- A READ that found an image, or 0x03. -/
def found (b : Option Bytes) : TblRes :=
  match b with
  | none => { code := 0x03 }
  | some b => { code := 0, data := b }

/-- READ of an exact-match key. -/
def readEm (f : TblFields) (key : EmKey) (s : State) : TblRes :=
  let look := fun (t : State) => (findKey (keyBucket key s) key (replica f.replica t)).map (·.2.image)
  if f.useLock then
    match lockError f s with
    | some code => { code := code }
    | none =>
      let l := lockOf f.slot s
      if keyBucket key s != l.bucket then { code := 0x07 } else found (look (stagedView l s))
  else found (look s)

/-- READ. -/
def runRead (f : TblFields) (s : State) : TblRes :=
  if 9 ≤ f.table || 5 ≤ f.replica || f.addr % 16 != 0 || (2 ≤ f.table && tableSize f.table ≤ f.index) then { code := 0x09 }
  else if f.table = 0 then
    match parseKey f.image with
    | none => { code := 0x09 }
    | some key => readEm f key s
  else if f.table = 1 then
    match lpmKey f.image with
    | none => { code := 0x09 }
    | some x =>
      if f.useLock then { code := 0x07 }
      else found ((findLpm x.vrf x.v6 x.length x.addr (replica f.replica s)).map fun e => e.2.bytes e.1)
  else if f.useLock then { code := 0x07 }
  else found (some (getImage f.table f.index (replica f.replica s)))

/-- The 16 bytes of one slot of the exact-match table. -/
def slotImage (n : Nat) (r : Replica) : Bytes :=
  match occupant n r with
  | none => leBytes 16 0
  | some e => if e.1 = n then e.2.headBytes else e.2.key.tail

/-- DUMP. -/
def runDump (f : TblFields) (s : State) : TblRes :=
  let n := leAt 0 4 f.image
  let ovf := bit f.index 31
  let i := f.index % 2 ^ 31
  let inRange := if ovf then i % 4 = 0 ∧ i + 4 * n ≤ ovfSize else i + n ≤ 262144
  if f.table != 0 || 5 ≤ f.replica || f.addr % 16 != 0 || n = 0 || 4096 < n || !inRange then { code := 0x09 }
  else
    let start := if ovf then ovfBase + i else 4 * i
    { code := 0,
      data := (List.range (4 * n)).flatMap fun j => slotImage (start + j) (replica f.replica s) }

/-! ### WRITE and DELETE -/

/-- The code that stops a change before its tables are looked at. -/
def changeError (c : TblCmd) (f : TblFields) (s : State) : Option Nat :=
  if !f.fanout && 5 ≤ f.replica then some 0x09
  else if c.fault then some 0x0A
  else if coordinated s && !f.fanout then some 0x08
  else none

/-- Writes an LPM entry into one replica, at its own row or a free one (R264). -/
def lpmPlace (draw : Nat) (x : LpmEntry) (r : Replica) : Option (Replica × Bool) :=
  match findLpm x.vrf x.v6 x.length x.addr r with
  | some e => some ({ r with lpm := mput e.1 x r.lpm }, true)
  | none =>
    let z := zoneOf (lpmZone x.v6 x.length) r
    (pickRow draw (freePlaces x.rows z.1 (z.1 + z.2) r)).map fun n => ({ r with lpm := mput n x r.lpm }, false)

/-- WRITE of an LPM entry. -/
def writeLpm (f : TblFields) (x : LpmEntry) (s : State) : State × TblRes :=
  let place := fun k => lpmPlace s.freeCount x (replica k s)
  if f.targets.any fun k => (place k).isNone then (s, { code := 0x04 })
  else
    let replaced := ((f.targets.head?.bind place).map (·.2)).getD false
    let t := takeVintage f.fanout { s with freeCount := s.freeCount + 1 }
    let t := f.targets.foldl (fun t k =>
      applyTo f.fanout k (fun r => ((lpmPlace s.freeCount x r).map (·.1)).getD r) t) t
    (t, { code := if replaced then 2 else 0, vintage := gotVintage f.fanout t })

/-- Whether a command would change a locked bucket (R258). -/
def lockedFor (f : TblFields) (b : Nat) (s : State) : Bool :=
  f.targets.any fun k => if f.fanout then bucketLocked k b s else changeLocked k b s

/-- WRITE of an exact-match entry. -/
def writeEm (f : TblFields) (e : EmEntry) (s : State) : State × TblRes :=
  if f.useLock then stage f e.key (.write e) s
  else if lockedFor f (keyBucket e.key s) s then (s, { code := 0x05 })
  else
    match emWrite (evictOn s) f.fanout e f.targets (takeVintage f.fanout s) with
    | .ok r => r
    | .error code => (s, { code := code })

/-- WRITE of an indexed entry. -/
def writeIndexed (f : TblFields) (s : State) : State × TblRes :=
  let lpmOn := f.targets.any fun k => fbit (PRS_LPM_CFG.v4_en k) s || fbit (PRS_LPM_CFG.v6_en k) s
  if f.useLock then (s, { code := 0x07 })
  else if f.table = 2 && lpmOn then (s, { code := 0x08 })
  else
    let t := takeVintage f.fanout s
    let t := f.targets.foldl (fun t k => applyTo f.fanout k (putImage f.table f.index f.image) t) t
    (t, { code := 0, vintage := gotVintage f.fanout t })

/-- WRITE. -/
def runWrite (c : TblCmd) (f : TblFields) (s : State) : State × TblRes :=
  if 9 ≤ f.table || (2 ≤ f.table && tableSize f.table ≤ f.index) || (dataSize f.table != 0 && f.addr % 16 != 0) then
    (s, { code := 0x09 })
  else
    match changeError c f s with
    | some code => (s, { code := code })
    | none =>
      match f.table with
      | 0 =>
        match parseEm f.image with
        | none => (s, { code := 0x09 })
        | some e => writeEm f e s
      | 1 =>
        match parseLpm f.image with
        | none => (s, { code := 0x09 })
        | some x => if f.useLock then (s, { code := 0x07 }) else writeLpm f x s
      | _ => if imageOk f.table f.image then writeIndexed f s else (s, { code := 0x09 })

/-- DELETE of an LPM entry. -/
def deleteLpm (f : TblFields) (x : LpmEntry) (s : State) : State × TblRes :=
  let at_ := fun (r : Replica) => (findLpm x.vrf x.v6 x.length x.addr r).map (·.1)
  if f.targets.all fun k => (at_ (replica k s)).isNone then (s, { code := 0x03 })
  else
    let t := takeVintage f.fanout s
    let t := f.targets.foldl (fun t k =>
      match at_ (replica k s) with
      | some n => applyTo f.fanout k (fun r => { r with lpm := merase n r.lpm }) t
      | none => t) t
    (t, { code := 0, vintage := gotVintage f.fanout t })

/-- DELETE of an exact-match key. -/
def deleteEm (f : TblFields) (key : EmKey) (s : State) : State × TblRes :=
  if f.useLock then stage f key (.delete key f.condAge) s
  else
    match emDelete f.fanout f.condAge key f.targets (takeVintage f.fanout s) with
    | .error code => (s, { code := code })
    | .ok r => if lockedFor f (keyBucket key s) s then (s, { code := 0x05 }) else r

/-- DELETE. -/
def runDelete (c : TblCmd) (f : TblFields) (s : State) : State × TblRes :=
  if 2 ≤ f.table || (f.table = 1 && f.condAge) then (s, { code := 0x09 })
  else
    match changeError c f s with
    | some code => (s, { code := code })
    | none =>
      if f.table = 0 then
        match parseKey f.image with
        | none => (s, { code := 0x09 })
        | some key => deleteEm f key s
      else
        match lpmKey f.image with
        | none => (s, { code := 0x09 })
        | some x => if f.useLock then (s, { code := 0x07 }) else deleteLpm f x s

/-! ### ZONE_MOVE (R265) -/

/-- The signed row count of a ZONE_MOVE. -/
def moveCount (f : TblFields) : Int := (BitVec.ofNat 32 (leAt 0 4 f.image)).toInt

/-- The rows that change hands and the rows that the losing zone keeps, each as first row and end. -/
def moveRanges (z : Nat) (d : Int) (r : Replica) : (Nat × Nat) × (Nat × Nat) :=
  let n := d.natAbs
  if 0 < d then
    let e := zoneOf (z + 1) r
    ((e.1, e.1 + min n e.2), (e.1 + min n e.2, e.1 + e.2))
  else
    let e := zoneOf z r
    ((e.1 + e.2 - min n e.2, e.1 + e.2), (e.1, e.1 + e.2 - min n e.2))

/-- Rows from lo up to hi that valid entries take. -/
def rowsTaken (lo hi : Nat) (r : Replica) : Nat :=
  ((r.lpm.filter fun e => lo ≤ e.1 && e.1 < hi).map (·.2.rows)).sum

/-- The rows that are short for a move in one replica: rows that the zone has not, and rows for the entries that move. -/
def moveShort (z : Nat) (d : Int) (r : Replica) : Nat :=
  let g := moveRanges z d r
  (d.natAbs - (g.1.2 - g.1.1)) + (rowsTaken g.1.1 g.1.2 r - (g.2.2 - g.2.1 - rowsTaken g.2.1 g.2.2 r))

/-- Copies an entry that changes hands to a free row of the rows that stay. -/
def moveEntry (lo hi : Nat) (acc : Replica × Nat) (e : Nat × LpmEntry) : Replica × Nat :=
  match pickRow acc.2 (freePlaces e.2.rows lo hi acc.1) with
  | some n => ({ acc.1 with lpm := mput n e.2 (merase e.1 acc.1.lpm) }, acc.2 + 1)
  | none => (acc.1, acc.2 + 1)

/-- Moves the boundary between zones z and z + 1 of one replica. -/
def moveZone (z : Nat) (d : Int) (draw : Nat) (r : Replica) : Replica :=
  let g := moveRanges z d r
  let r := ((r.lpm.filter fun e => g.1.1 ≤ e.1 && e.1 < g.1.2).foldl (moveEntry g.2.1 g.2.2) (r, draw)).1
  let a := zoneOf z r
  let b := zoneOf (z + 1) r
  let upper := mputD (0, 0) (z + 1) ((Int.ofNat b.1 + d).toNat, (Int.ofNat b.2 - d).toNat) r.zones
  { r with zones := mputD (0, 0) z (a.1, (Int.ofNat a.2 + d).toNat) upper }

/-- ZONE_MOVE starts, or is answered. The answer is none while the move runs. -/
def runMove (c : TblCmd) (f : TblFields) (s : State) : State × Option TblRes :=
  let d := moveCount f
  if f.table != 2 || 160 < f.index || d = 0 || 4096 < d.natAbs || (f.index ≤ 128 && d.natAbs % 2 = 1) then
    (s, some { code := 0x09 })
  else
    match changeError c f s with
    | some code => (s, some { code := code })
    | none =>
      let short := (f.targets.map fun k => moveShort f.index d (replica k s)).foldl max 0
      if f.useLock then (s, some { code := 0x07 })
      else if short != 0 then (s, some { code := 0x0B, key := short })
      else
        ({ s with engine := { s.engine with move := some ⟨c, f.replica, f.targets, f.index, d⟩ } }, none)

/-- A zone move ends (R265). -/
def moveDone (j : TblJob) (s : State) : State :=
  let f := j.cmd.fields
  let draw := s.freeCount
  let n := (j.targets.map fun k => (replica k s).lpm.length).foldl max 0
  let s := takeVintage f.fanout { s with engine := { s.engine with move := none }, freeCount := draw + n }
  let s := j.targets.foldl (fun s k => applyTo f.fanout k (moveZone j.zone j.delta draw) s) s
  finish j.cmd { code := 0, vintage := gotVintage f.fanout s } s

/-! ### REPLICA_COPY (R266) -/

/-- The targets of a copy. -/
def copyTargets (f : TblFields) : List Nat :=
  let t := f.index % 8
  if t = 7 then (List.range 5).filter (· != f.replica) else [t]

/-- Whether a sweep or a copy is running. -/
def passRunning (s : State) : Bool := s.engine.sweep.isSome || s.engine.copy.isSome

/-- REPLICA_COPY starts, ends shadowing, or is answered. With index bit 31 set the shadowing of the source and the
targets that the command names ends, and that alone; a target that is the source, 5 or 6, and index bits 30:3 other
than 0, are answered 0x09 (DESIGN CHOICE, log entry 60: R266 and R254 do not say). -/
def runCopy (c : TblCmd) (f : TblFields) (s : State) : State × Option TblRes :=
  let t := f.index % 8
  let pairs := (copyTargets f).map fun t => (f.replica, t)
  if 5 ≤ f.replica || t = 5 || t = 6 || t = f.replica || bits f.index 30 3 != 0 then (s, some { code := 0x09 })
  else if bit f.index 31 then
    ({ s with engine := { s.engine with
        shadows := s.engine.shadows.filter fun p => !pairs.contains p
        copied := s.engine.copied.filter fun p => !pairs.contains p } }, some { code := 0 })
  else if !coordinated s && (copyTargets f).any fun k => inUse k s then (s, some { code := 0x08 })
  else if (copyTargets f).any fun t => s.engine.locks.any fun l => l.held && (l.all || l.replica == t) then
    (s, some { code := 0x05 })
  else if passRunning s then (s, some { code := 0x05 })
  else
    ({ s with engine := { s.engine with
        copy := some ⟨c, f.replica, copyTargets f, 0, 0⟩
        shadows := (s.engine.shadows.filter fun p => !pairs.contains p) ++ pairs
        copied := s.engine.copied.filter fun p => !pairs.contains p } }, none)

/-- A replica copy ends: every target holds what the source holds, and has its vintage. -/
def copyDone (j : TblJob) (s : State) : State :=
  let r := replica j.source s
  let v := nth 0 j.source s.engine.vintages
  let s := j.targets.foldl (fun s t => setReplica t r s) s
  let live := (j.targets.map fun t => (j.source, t)).filter fun p => s.engine.shadows.contains p
  let s := { s with engine := { s.engine with
    copy := none, vintages := j.targets.foldl (fun vs t => setNth t v vs) s.engine.vintages
    copied := s.engine.copied ++ live } }
  let s := if j.cmd.fields.index % 8 = 7 then fset TBL_LEARN_STAT.diverged 0 s else s
  finish j.cmd { code := 0 } s

/-! ### AGE_SWEEP (R246, R247, R249) -/

/-- AGE_SWEEP starts, or is answered. It clears the ages of the replicas that have taken over before it (R249). -/
def runSweep (c : TblCmd) (f : TblFields) (s : State) : State × Option TblRes :=
  if f.table != 0 then (s, some { code := 0x09 })
  else if passRunning s then (s, some { code := 0x05 })
  else
    ({ s with engine := { s.engine with
        sweep := some ⟨c, 0, s.engine.zeroAges, 0, 0⟩, zeroAges := [], agePending := false } }, none)

/-- The ages of one replica after a sweep. -/
def sweepAges (zero : Bool) (r : Replica) : Replica :=
  { r with em := r.em.map fun e =>
      (e.1, if e.2.isStatic then e.2 else { e.2 with age := if zero then 0 else min 15 (e.2.age + 1) }) }

/-- The event of an entry at its age limit (types 3 and 6): the replica that was swept and the entry's vintage. A host key
has no station address. -/
def agedEvent (type k : Nat) (e : EmEntry) (s : State) : LearnEvent × State :=
  match e.key with
  | .mac fd a => ({ fd := fd, mac := a, type := type, press := k, vintage := e.vintage.toNat }, s)
  | .host vrf _ _ =>
    ({ fd := vrf, mac := Sys2Proof.Config.hostEvictMac s.freeCount, type := type, press := k, vintage := e.vintage.toNat },
     { s with freeCount := s.freeCount + 1 })

/-- What a sweep does with one key that is at its limit wherever a press in use holds it. The single event of
coordinated mode names the lowest-numbered press that holds it, and the vintage there (DESIGN CHOICE: R247 does not
say which). -/
def ageOut (key : EmKey) (s : State) : State :=
  let hs := usedHolders key s
  if hs.isEmpty || hs.any (fun h => h.2.2.isStatic || h.2.2.age < maxAge s) then s
  else if coordinated s then
    match hs with
    | [] => s
    | h :: _ =>
      let e := agedEvent 3 h.1 h.2.2 s
      (postLearn e.1 e.2).1
  else
    hs.foldl (fun s h =>
      if changeLocked h.1 (keyBucket key s) s then s
      else
        let e := agedEvent 6 h.1 h.2.2 (changeShadowed h.1 (emErase h.2.1) s)
        notifyLearn e.1 e.2) s

/-- A sweep ends. -/
def sweepDone (j : TblJob) (s : State) : State :=
  let s := (List.range 5).foldl (fun s k => modReplica k (sweepAges (j.targets.contains k)) s) s
  let s := { s with engine := { s.engine with sweep := none } }
  let keys := ((List.range 5).flatMap fun k => if inUse k s then (replica k s).em.map (·.2.key) else []).foldl
    (fun acc k => if acc.contains k then acc else acc ++ [k]) []
  finish j.cmd { code := 0 } (keys.foldl (fun s k => ageOut k s) s)

/-! ### Serving (R252, R435) -/

/-- Runs a command that has been taken from its queue; one that runs over time is answered when it ends. -/
def runCmd (c : TblCmd) (s : State) : State :=
  let f := c.fields
  let now := fun (r : State × TblRes) => finish c r.2 r.1
  let later := fun (r : State × Option TblRes) =>
    match r.2 with
    | some x => finish c x r.1
    | none => r.1
  let vintage := nth 0 f.replica s.engine.vintages
  if f.res0 then finish c { code := 0x09 } s
  else
    match f.opcode with
    | 1 => now (runLock f s)
    | 2 => now (runUnlock f s)
    | 3 => finish c { runRead f s with vintage := vintage } s
    | 4 => now (runWrite c f s)
    | 5 => now (runDelete c f s)
    | 6 => later (runMove c f s)
    | 7 => later (runCopy c f s)
    | 8 => later (runSweep c f s)
    | 9 => finish c { runDump f s with vintage := vintage } s
    | _ => finish c { code := 0x09 } s

/-- Runs the commands in front whose opcode is none of R254; fuel bounds the number. -/
def runUnknown : Nat → State → State
  | 0, s => s
  | n + 1, s =>
    match nextCmd s with
    | some c => if 1 ≤ c.fields.opcode ∧ c.fields.opcode ≤ 9 then s else runUnknown n (runCmd c (takeCmd c s))
    | none => s

/-- The commands that the engine holds. -/
def queued (s : State) : Nat := s.engine.ringQ.length + s.engine.cmQ.length

/-- The firmware posts a command to the internal queue, or waits with it while that is full (R435). -/
def postCmd (post : Option Bytes) (s : State) : State :=
  match post with
  | none => s
  | some b =>
    let c : TblCmd := { fromRing := false, index := 0, bytes := b, data := [], fault := false }
    if !cmRuns s then s
    else if 64 ≤ s.engine.cmQ.length then { s with engine := { s.engine with cmWait := s.engine.cmWait ++ [c] } }
    else
      { s with
        engine := { s.engine with cmQ := s.engine.cmQ ++ [c] }
        cm := { s.cm with winCmd := max s.cm.winCmd (s.engine.cmQ.length + 1) } }

/-- The engine serves its next command when that has the given opcode. -/
def serveCmd (opcode : Nat) (post : Option Bytes) (s : State) : Host.Outcome State Fault Refusal :=
  if live s then
    let t := postCmd post s
    let t := runUnknown (queued t) t
    match nextCmd t with
    | some c => .next (settle (fetchCm (if c.fields.opcode = opcode then runCmd c (takeCmd c t) else t)))
    | none => .next (settle (fetchCm t))
  else .next s

/-- LOCK. -/
def execLock (post : Option Bytes) (s : State) : Host.Outcome State Fault Refusal := serveCmd 1 post s
/-- UNLOCK. -/
def execUnlock (post : Option Bytes) (s : State) : Host.Outcome State Fault Refusal := serveCmd 2 post s
/-- READ. -/
def execTblRead (post : Option Bytes) (s : State) : Host.Outcome State Fault Refusal := serveCmd 3 post s
/-- WRITE. -/
def execTblWrite (post : Option Bytes) (s : State) : Host.Outcome State Fault Refusal := serveCmd 4 post s
/-- DELETE. -/
def execTblDelete (post : Option Bytes) (s : State) : Host.Outcome State Fault Refusal := serveCmd 5 post s
/-- ZONE_MOVE. -/
def execZoneMove (post : Option Bytes) (s : State) : Host.Outcome State Fault Refusal := serveCmd 6 post s
/-- REPLICA_COPY. -/
def execReplicaCopy (post : Option Bytes) (s : State) : Host.Outcome State Fault Refusal := serveCmd 7 post s
/-- AGE_SWEEP. -/
def execAgeSweep (post : Option Bytes) (s : State) : Host.Outcome State Fault Refusal := serveCmd 8 post s
/-- DUMP. -/
def execDump (post : Option Bytes) (s : State) : Host.Outcome State Fault Refusal := serveCmd 9 post s

/-- Ends an operation that runs over time. -/
def jobEnds (j : Option TblJob) (f : TblJob → State → State) (s : State) : Host.Outcome State Fault Refusal :=
  match live s, j with
  | true, some j => .next (settle (f j s))
  | _, _ => .next s

/-- ZONE_MOVE_DONE. -/
def execZoneMoveDone (s : State) : Host.Outcome State Fault Refusal := jobEnds s.engine.move moveDone s
/-- REPLICA_COPY_DONE. -/
def execReplicaCopyDone (s : State) : Host.Outcome State Fault Refusal := jobEnds s.engine.copy copyDone s
/-- AGE_SWEEP_DONE. -/
def execAgeSweepDone (s : State) : Host.Outcome State Fault Refusal := jobEnds s.engine.sweep sweepDone s

/-- TABLE_CMD_READ_COMPLETE. -/
def execTableCmdReadComplete (req : Nat) (resp : ReadResp) (s : State) : Host.Outcome State Fault Refusal :=
  readReply req resp Purpose.isCmd (fun r bs s => ringRead r.purpose bs s) (fun r s => ringReadFailed r.purpose s) s

/-! ### Time limits and aging (R245, R260) -/

/-- A lock has been held for its time. -/
def lockTimeout (n : Nat) (s : State) : State :=
  let s := fset TBL_STAT.lock_broken 1 (setLock n ((lockOf n s).release true) s)
  raiseSource 7 (postError 2 12 0x0B 0 0 s)

/-- LOCK_TIMEOUT. -/
def execLockTimeout (slot : BitVec 4) (s : State) : Host.Outcome State Fault Refusal :=
  if live s && (lockOf slot.toNat s).held then .next (settle (lockTimeout slot.toNat s)) else .next s

/-- A tick of the age clock. -/
def ageTick (s : State) : State :=
  if s.engine.agePending then fadd TBL_STAT.age_stretched 1 s
  else
    let s := { s with engine := { s.engine with agePending := true } }
    if fbit TBL_AGE_CFG.host_sweep s then raiseSource 1 s else s

/-- AGE_TICK. -/
def execAgeTick (s : State) : Host.Outcome State Fault Refusal :=
  if live s && fbit TBL_AGE_CFG.age_en s then .next (ageTick s) else .next s

/-! ### The learn ring (R237, R240) -/

/-- LEARN_FILTER_HOLDOFF: a key leaves the filter of a press. -/
def execLearnFilterHoldoff (k : Fin 5) (fd : BitVec 14) (mac : BitVec 48) (s : State) : Host.Outcome State Fault Refusal :=
  if live s then .next (unfilter k.val (.mac fd.toNat mac) s) else .next s

/-- LEARN_PROD_TIMER: prod is written at least every 1 µs while events are posted. -/
def execLearnProdTimer (s : State) : Host.Outcome State Fault Refusal :=
  if live s then .next (settle (flushLearnProd false s)) else .next s

/-- The learn ring's cons was read. -/
def learnCons (v : Word) (s : State) : State :=
  let s := modLearn ({ · with consOut := false }) s
  if s.engine.learn.consBad (learnLog2 s) v then
    raiseSource 7 (fset TBL_STAT.learn_fault 1 { s with engine := { s.engine with learnOff := true } })
  else modLearn ({ · with cons := v }) s

/-- A fabric fault on the learn ring (R367). -/
def learnFault (s : State) : State := raiseSource 7 (fset TBL_STAT.ring_fault 1 s)

/-- LEARN_CONS_READ_COMPLETE. -/
def execLearnConsReadComplete (req : Nat) (resp : ReadResp) (s : State) : Host.Outcome State Fault Refusal :=
  readReply req resp (· == .learnCons) (fun _ bs s => learnCons (BitVec.ofNat 32 (leNat bs)) s)
    (fun _ s => learnFault (modLearn ({ · with consOut := false }) s)) s

/-- A write of TBL_LEARN_CFG: size_log2 holds while ring_en is 1, and an enable starts an empty ring
(R240): what was requested for the ring before is of no use. -/
def learnCfg (data : Word) (s : State) : State :=
  let was := fbit TBL_LEARN_CFG.ring_en s
  let size := fget TBL_LEARN_CFG.size_log2 s
  let mode := fget TBL_LEARN_CFG.mode s
  let s := fset TBL_LEARN_CFG.mode mode (setReg TBL_LEARN_CFG.reg (data &&& 0x781FFFFF#32) s)
  let s := if was then fset TBL_LEARN_CFG.size_log2 size s else s
  if !was && fbit TBL_LEARN_CFG.ring_en s then
    let old := fun (p : Purpose) => match p with
      | .learnCons | .learnProd | .learnEvent _ => true
      | _ => false
    discardReqs (old ·.purpose) { s with engine := { s.engine with learnOff := false, learn := {} } }
  else s

end Sys2Proof.Machine
end

