-- ==== Sys2Proof/Machine/Pmu.lean ====
section
/-!
DEFINITION. Performance monitoring beyond the counting itself (spec/15): the counter window (R451, R458), snapshots (R461
to R465) and the sample ring (R468).
-/

namespace Sys2Proof.Machine

/-! ### The counter window (PMU_SEL, R451) -/

/-- The event code of a counter: a fixed counter has the code of what it counts. -/
def counterEvent (n : Nat) (s : State) : Nat :=
  if n = 720 then Sys2Proof.Config.dclkCode.toNat
  else if fixedCounter n then 0x30 + ((n - 512) % 32 - 28)
  else bits (counter n s).evt.toNat 7 0

/-- Whether a counter is enabled. -/
def counterOn (n : Nat) (s : State) : Bool := fixedCounter n || (counter n s).evt.toNat.testBit 31

/-- The counter that PMU_SEL names. -/
def selCounter (s : State) : Nat := fget PMU_SEL.counter s

/-- What a register of the window reads, and what it is written with. -/
inductive Win where
  | evt | filtA | filtB | preLo | preHi
  deriving DecidableEq, Repr

/-- PMU_FILT_B as it is held: bits [29:26] are RES0 where addr_mode is 1 or 2 (R11). -/
def filtBOf (v : Word) : Word :=
  if bits v.toNat 31 30 = 1 ∨ bits v.toNat 31 30 = 2 then v &&& 0xC3FFFFFF#32 else v

/-- The word that a register of the window reads; counters above 735 read 0. -/
def winRead (w : Win) (s : State) : Word :=
  let n := selCounter s
  let c := counter n s
  if 736 ≤ n then 0
  else
    match w with
    | .evt =>
      if fixedCounter n then
        BitVec.ofNat 32 ((c.evt.toNat / 256 * 256 + counterEvent n s) % 2 ^ 31 + 2 ^ 31)
      else c.evt
    | .filtA => c.filtA
    | .filtB => c.filtB
    | .preLo => c.preLo
    | .preHi => c.preHi

/-- A write of a register of the window, ignored for a fixed counter and above 735. -/
def winWrite (w : Win) (data : Word) (s : State) : State :=
  let n := selCounter s
  let c := counter n s
  if 736 ≤ n || fixedCounter n then s
  else
    setCounter n (match w with
      | .evt => { c with evt := data &&& 0xE0FFFFFF#32 }
      | .filtA => { c with filtA := data &&& 0xF1FFFFFF#32 }
      | .filtB => { c with filtB := filtBOf data }
      | .preLo => { c with preLo := data }
      | .preHi => { c with preHi := data &&& 0xFFFF#32 }) s

/-- The value that a read of PMU_VAL_LO captures (R10). -/
def winValue (s : State) : DWord := if 736 ≤ selCounter s then 0 else BitVec.ofNat 64 (counter (selCounter s) s).value.toNat

/-- A write of PMU_VAL_HI sets the counter, also for a snapshot of the same cycle that follows the write; events of the
cycle are then added (R458). -/
def winSet (v : DWord) (events : Nat) (s : State) : State :=
  let n := selCounter s
  let set := fun (c : Counter) => { c with value := BitVec.ofNat 48 v.toNat }
  if 736 ≤ n || fixedCounter n then s
  else
    let s := setCounter n (set (counter n s)) s
    let s := { s with pmu := { s.pmu with edge := s.pmu.edge.map fun m => mputD {} n (set (mgetD {} n m)) m } }
    if events = 0 then s else addCount n events (itemEvent n s) s

/-! ### Snapshots (R461 to R465) -/

/-- The snapshot area. -/
def snapBase (s : State) : DWord := pairVal PMU_SNAP_BASE_LO.reg PMU_SNAP_BASE_HI.reg s

/-- The 64-byte header of a snapshot. -/
def snapHeadBytes (seq : Word) (valid : Bool) (trigger : Nat) (t : Stamp) : Bytes :=
  leBytes 4 seq.toNat ++ leBytes 4 (b2n valid * 2 ^ 31 + trigger * 2 ^ 28 + 736) ++ leBytes 4 t.ns ++ leBytes 4 t.sec
    ++ leBytes 4 (t.frac * 2 ^ 16 + t.sec / 2 ^ 32) ++ leBytes 44 0

/-- A counter as it stood when the DCLK cycle began. -/
def edgeCounter (n : Nat) (s : State) : Counter := mgetD {} n (s.pmu.edge.getD s.pmu.counters)

/-- The entry of a counter (R462), with its value at the edge that ended the cycle before (R461). -/
def snapEntry (n : Nat) (s : State) : Bytes :=
  leBytes 8 ((edgeCounter n s).value.toNat + b2n (edgeCounter n s).ovf * 2 ^ 48
    + (if counterOn n s then counterEvent n s else 0) * 2 ^ 56)

/-- Freezes every counter and writes the header with valid 0 (R463 steps 1 and 2). An overflow of the present cycle is left
to the next snapshot. -/
def freeze (trigger : Nat) (s : State) : State :=
  if s.pmu.snapBusy then fadd PMU_STAT.snap_skip 1 s
  else
    let seq := s.pmu.snapSeq + 1
    let body := (List.range 736).flatMap fun n => snapEntry n s
    let s := submitWrite (ownerFunc s) (snapBase s) (snapHeadBytes seq false trigger (now s)) .snapHeader s
    { s with pmu := { s.pmu with
        snapBusy := true, snapSeq := seq, snapHead := snapHeadBytes seq true trigger (now s), snapBody := body, snapLeft := 0
        counters := trim {} (s.pmu.counters.map fun e => (e.1, { e.2 with ovf := s.pmu.ovfNow.contains e.1 }))
        edge := s.pmu.edge.map fun m => trim {} (m.map fun e => (e.1, { e.2 with ovf := false })) } }

/-- SNAPSHOT_TRIGGER: a write of PMU_CTL.snap. -/
def execSnapshotTrigger (s : State) : Host.Outcome State Fault Refusal :=
  let s := portTurn s
  if regLive s then .next (settle (freeze 0 s)) else .next s

/-- SNAPSHOT_INTERVAL: snap_int_ms have passed. -/
def execSnapshotInterval (s : State) : Host.Outcome State Fault Refusal :=
  if live s && fget PMU_CTL.snap_int_ms s != 0 then .next (settle (freeze 1 s)) else .next s

/-- A snapshot write faulted: the snapshot is abandoned (R465). That of the last header ends no snapshot that has begun
since. -/
def snapFail (p : Purpose) (s : State) : State :=
  let s := fset PMU_STAT.snap_fault 1 s
  if p = .snapFinal then s
  else
    let s := discardReqs (fun r => r.purpose == .snapHeader || r.purpose == .snapEntries) s
    { s with pmu := { s.pmu with snapBusy := false, snapHead := [], snapBody := [], snapLeft := 0 } }

/-- A snapshot write was acknowledged (R463 steps 3 and 4). -/
def snapAcked (p : Purpose) (s : State) : State :=
  match p with
  | .snapHeader =>
    let w := submitData (ownerFunc s) (snapBase s + 0x40) s.pmu.snapBody .snapEntries s
    { w.1 with pmu := { w.1.pmu with snapLeft := w.2, snapBody := [] } }
  | .snapEntries =>
    let n := s.pmu.snapLeft - 1
    let s := { s with pmu := { s.pmu with snapLeft := n } }
    if n = 0 then
      submitWrite (ownerFunc s) (snapBase s) s.pmu.snapHead .snapFinal
        { s with pmu := { s.pmu with snapBusy := false, snapHead := [] } }
    else s
  | _ => s

/-! ### The sample ring (R468) -/

/-- The sample ring fails: records are dropped until it is enabled again. -/
def sampleFail (s : State) : State :=
  raiseSource 4 (fset PMU_SAMPLE_STAT.sample_fault 1 { s with pmu := { s.pmu with sampleOff := true } })

/-- SAMPLE_PROD_TIMER: prod is written at least every 1 µs while records are posted. -/
def execSampleProdTimer (s : State) : Host.Outcome State Fault Refusal :=
  if live s then .next (settle (flushSampleProd false s)) else .next s

/-- The sample ring's cons was read. -/
def sampleCons (v : Word) (s : State) : State :=
  let s := modSampleRing ({ · with consOut := false }) s
  if s.pmu.ring.consBad (sampleLog2 s) v then sampleFail s else modSampleRing ({ · with cons := v }) s

/-- SAMPLE_CONS_READ_COMPLETE. -/
def execSampleConsReadComplete (req : Nat) (resp : ReadResp) (s : State) : Host.Outcome State Fault Refusal :=
  readReply req resp (· == .sampleCons) (fun _ bs s => sampleCons (BitVec.ofNat 32 (leNat bs)) s)
    (fun _ s => sampleFail (modSampleRing ({ · with consOut := false }) s)) s

/-- A write of PMU_SAMPLE_CFG: size_log2 holds while en is 1, and an enable starts an empty ring
(R240): what was requested for the ring before is of no use. -/
def sampleCfg (data : Word) (s : State) : State :=
  let was := fbit PMU_SAMPLE_CFG.en s
  let size := fget PMU_SAMPLE_CFG.size_log2 s
  let s := setReg PMU_SAMPLE_CFG.reg (data &&& 0x8000001F#32) s
  let s := if was then fset PMU_SAMPLE_CFG.size_log2 size s else s
  if !was && fbit PMU_SAMPLE_CFG.en s then
    let old := fun (p : Purpose) => match p with
      | .sampleCons | .sampleProd | .sample _ => true
      | _ => false
    discardReqs (old ·.purpose) { s with pmu := { s.pmu with sampleOff := false, ring := {} } }
  else s

end Sys2Proof.Machine
end

