-- ==== Sys2Proof/Machine/Answers.lean ====
section
/-!
DEFINITION. What the host chip's answers do (spec/12): read completions of each kind, acknowledgements of writes, error
responses and timeouts with the fault of the requester (R363 to R367), and the timers of completion rings (R74, R76,
R78).
-/

namespace Sys2Proof.Machine

/-! ### Faults of reads (R367) -/

/-- Chain k of channel c cannot have its data: it completes with 0x41 in its place, and the channel is fenced, for a data
read with reason 9, and for a descriptor that is read again with reason 10 and no completion of the fault itself (R85). -/
def txDataFail (c : Nat) (first : Word) (reason status : Nat) (s : State) : State :=
  match chainOf c first s with
  | none => s
  | some k =>
    match k.stage with
    | .settling _ => s
    | .launched =>
      let drop := fun (p : Port) => match p.cur with
        | some x => if x.src == .chain c first && !x.onMii then { p with cur := none } else p
        | none => p
      let s := { s with ports := trim {} (s.ports.map fun e => (e.1, drop e.2)) }
      let s := modLog c (fun l => { l with reserved := l.reserved - k.logSlots }) s
      progress c (fence c false reason status (settleChain c k 0x41 k.place s))
    | _ =>
      let s := discardReqs (·.isDataOf c first) (forgetCopies c first s)
      let s := { s with cellar := { s.cellar with txWaiting := s.cellar.txWaiting.erase (c, first) } }
      let s := syncChan c (modChain c first (fun k => { k with stage := .settling 0x41, copies := [] }) s)
      progress c (fence c false reason status s)

/-- A read of a gate list image failed: the load is refused (R309). -/
def imageFailed (n : Nat) (s : State) : State := imageDone n none (discardReqs (·.isImage n) s)

/-- The fault of the requester of a read. -/
def readFailed (r : Req) (s : State) : State :=
  match r.purpose with
  | .chanCtx c | .cringCtx c _ | .startIndex c => faultStart c s
  | .liveChan _ | .liveCring _ => invalFail s
  | .txProd c | .txDesc c => fetchFail c false s
  | .rxProd c | .rxDesc c => fetchFail c true s
  | .txData c first _ => txDataFail c first 9 0x41 s
  | .chainDesc c first _ => txDataFail c first 10 0 s
  | .consIndex n => fenceRing n 10 (modRing n ({ · with consOut := false }) s)
  | .logCons c => fence c false 10 0 (modLog c ({ · with consOut := false }) s)
  | .cmdHeader | .cmdRead | .cmdData | .cmData => ringReadFailed r.purpose s
  | .learnCons => learnFault (modLearn ({ · with consOut := false }) s)
  | .sampleCons => sampleFail (modSampleRing ({ · with consOut := false }) s)
  | .gateImage n => imageFailed n s
  | .fwImage => passFails s
  | _ => s

/-! ### Read completions -/

/-- Whether a request reads a context at a START. -/
def Purpose.isContext : Purpose → Bool
  | .chanCtx _ | .cringCtx _ _ => true
  | _ => false

/-- CONTEXT_READ_COMPLETE (R40). -/
def execContextReadComplete (req : Nat) (resp : ReadResp) (s : State) : Host.Outcome State Fault Refusal :=
  readReply req resp Purpose.isContext (fun r bs s =>
    match r.purpose with
    | .chanCtx c => chanCtxDone c bs s
    | .cringCtx c n => cringCtxDone c n bs s
    | _ => s) readFailed s

/-- Whether a request reads live fields again. -/
def Purpose.isLive : Purpose → Bool
  | .liveChan _ | .liveCring _ => true
  | _ => false

/-- CTX_INVAL_READ_COMPLETE (R42, R89). -/
def execCtxInvalReadComplete (req : Nat) (resp : ReadResp) (s : State) : Host.Outcome State Fault Refusal :=
  readReply req resp Purpose.isLive (fun r bs s =>
    match r.purpose with
    | .liveChan c => liveChanDone c bs s
    | .liveCring n => liveCringDone n bs s
    | _ => s) readFailed s

/-- Whether a request reads the index block. -/
def Purpose.isIndex : Purpose → Bool
  | .startIndex _ | .txProd _ | .rxProd _ => true
  | _ => false

/-- INDEX_BLOCK_READ_COMPLETE (R51, R111). -/
def execIndexBlockReadComplete (req : Nat) (resp : ReadResp) (s : State) : Host.Outcome State Fault Refusal :=
  readReply req resp Purpose.isIndex (fun r bs s =>
    match r.purpose with
    | .startIndex c => startIndexDone c bs s
    | .txProd c => txProdDone c (BitVec.ofNat 32 (leNat bs)) s
    | .rxProd c => rxProdDone c (BitVec.ofNat 32 (leNat bs)) s
    | _ => s) readFailed s

/-- Whether a request reads a descriptor. -/
def Purpose.isDesc : Purpose → Bool
  | .txDesc _ | .rxDesc _ | .chainDesc _ _ _ => true
  | _ => false

/-- DESCRIPTOR_READ_COMPLETE (R58 to R63, R115). -/
def execDescriptorReadComplete (req : Nat) (resp : ReadResp) (s : State) : Host.Outcome State Fault Refusal :=
  readReply req resp Purpose.isDesc (fun r bs s =>
    match r.purpose with
    | .txDesc c => txDescDone c bs s
    | .rxDesc c => rxDescDone c bs s
    | .chainDesc c first i => chainDescDone c first i bs s
    | _ => s) readFailed s

/-- Whether a request reads the data of a chain. -/
def Purpose.isTxData : Purpose → Bool
  | .txData _ _ _ => true
  | _ => false

/-- TX_DATA_READ_COMPLETE (R173, R339). -/
def execTxDataReadComplete (req : Nat) (resp : ReadResp) (cv : CvCheck) (s : State) : Host.Outcome State Fault Refusal :=
  readReply req resp Purpose.isTxData (fun r bs s =>
    match r.purpose with
    | .txData c first i => txDataDone c first i bs cv s
    | _ => s) readFailed s

/-- The channels of ring n go on. -/
def ringProgress (n : Nat) (s : State) : State :=
  s.chans.foldl (fun s e => if e.2.active && e.2.ctx.cring == n then progress e.1 s else s) s

/-- cons_index of ring n was read (R72, R73, R79). -/
def consDone (n : Nat) (v : Word) (s : State) : State :=
  let r := ring n s
  let s := setRing n { r with consOut := false } s
  if 2 ^ r.sizeLog2 < used r.prod v then fenceRing n 11 s
  else
    let s := rereadSeen n (modRing n ({ · with cons := v }) s)
    ringProgress n (stallCheck n (drainPool n s))

/-- Whether a request reads cons_index. -/
def Purpose.isCons : Purpose → Bool
  | .consIndex _ => true
  | _ => false

/-- CONS_INDEX_READ_COMPLETE. -/
def execConsIndexReadComplete (req : Nat) (resp : ReadResp) (s : State) : Host.Outcome State Fault Refusal :=
  readReply req resp Purpose.isCons (fun r bs s =>
    match r.purpose with
    | .consIndex n => consDone n (BitVec.ofNat 32 (leNat bs)) s
    | _ => s) readFailed s

/-- cons of the log ring of channel c was read (R334, R335). -/
def logConsDone (c : Nat) (v : Word) (s : State) : State :=
  let s := modLog c ({ · with consOut := false }) s
  if (chan c s).log.consBad (chan c s).ctx.logLog2 v then fence c false 11 0 s
  else progress c (modLog c ({ · with cons := v }) s)

/-- Whether a request reads the log ring's cons. -/
def Purpose.isLogCons : Purpose → Bool
  | .logCons _ => true
  | _ => false

/-- CVLOG_CONS_READ_COMPLETE. -/
def execCvlogConsReadComplete (req : Nat) (resp : ReadResp) (s : State) : Host.Outcome State Fault Refusal :=
  readReply req resp Purpose.isLogCons (fun r bs s =>
    match r.purpose with
    | .logCons c => logConsDone c (BitVec.ofNat 32 (leNat bs)) s
    | _ => s) readFailed s

/-- The outstanding requests of an image for which p holds are answered together. -/
def dropImage (p : Req → Bool) (s : State) : State :=
  (s.fabric.reqs.filter fun q => p q && q.port.isSome).foldl (fun s q => afterReq q (dropReq q.id s)) s

/-- The reads of an image, those for which p holds, were answered: the whole image of len bytes was read, which f takes
while it is wanted, or one of them was answered with an error: then it has failed. The completions of reads that have been
given up are dropped (R372); while a read of the image has not been issued, the image is not whole, and nothing happens.
-/
def imageReply (p : Req → Bool) (wanted : Bool) (len : Nat) (resp : ImageResp) (f : Bytes → State → State)
    (failed : State → State) (s : State) : Host.Outcome State Fault Refusal :=
  let reqs := s.fabric.reqs.filter p
  let out := reqs.filter (·.port.isSome)
  match resp with
  | .error req =>
    if (findReq req s).any fun r => !p r then .next s
    else readReply req .error (fun _ => true) (fun _ _ s => s) (fun _ s => failed s) s
  | .data bs =>
    if !auxPort s then .next s
    else if out.any (·.discard) then .next (settle (dropImage (fun q => p q && q.discard) s))
    else if !wanted || out.isEmpty || out.length != reqs.length then .next s
    else if bs.length = len then .next (settle (f bs (dropImage p s)))
    else .fault .wrongLength

/-- GATE_LOAD_COMPLETE (R309). -/
def execGateLoadComplete (r : BitVec 5) (resp : ImageResp) (s : State) : Host.Outcome State Fault Refusal :=
  let n := r.toNat
  imageReply (·.isImage n) true (8 * (row n s).gateEntries) resp (fun bs s => imageDone n (some bs) s) (imageFailed n) s

/-- A pass over a firmware image, under way in the given state, was answered; f takes what it read. For a length that no
image has there are no reads, and the pass fails (R438). -/
def passEnds (state : Nat) (image : ImageResp) (f : ReadResp → State → State) (s : State) : Host.Outcome State Fault Refusal :=
  let on := live s && s.cm.state == state
  if on && !lenOk s.cm.loadLen then .next (settle (f .error s))
  else imageReply (·.purpose == .fwImage) on s.cm.loadLen image (fun bs => f (.data bs)) passFails s

/-- FW_VERIFY_DONE: the image as the pass read it. -/
def execFwVerifyDone (image : ImageResp) (s : State) : Host.Outcome State Fault Refusal := passEnds 1 image verifyDone s

/-- FW_LOAD_DONE: the image as the pass read it into the code region. The threads have stopped by then. -/
def execFwLoadDone (image : ImageResp) (s : State) : Host.Outcome State Fault Refusal := passEnds 2 image loadDone s

/-! ### Acknowledgements of writes (R359, R367) -/

/-- A data write of an assigned frame was acknowledged, or failed: the frame then completes with 0x41, and the channel
is fenced. -/
def rxDataAcked (c serial : Nat) (ok : Bool) (s : State) : State :=
  let s := modRx c (fun x => { x with assigned := x.assigned.map fun a =>
    if a.serial = serial then
      { a with writesLeft := a.writesLeft - 1, failed := a.failed || !ok, done := a.done || a.writesLeft ≤ 1 }
    else a }) s
  progress c (deliver c (if ok then s else fence c true 9 0x41 s))

/-- The samples of an item end with the answer to the write of its completion entry (R467): the acknowledgement, or the
error that ends its wait (DESIGN CHOICE: R467 names the acknowledgement alone). -/
def endItem (c : Nat) (rx : Bool) (u : Word) (s : State) : State :=
  endTags (fun t => match t.fin with
    | some f => f.chan == c && f.kind == b2n rx && f.upTo == u
    | none => false) (fun t => t.fin.getD {}) s

/-- The write of a completion entry was acknowledged (R44, R47), or failed (R367). -/
def entryAcked (n c : Nat) (rx : Bool) (u index : Word) (ok : Bool) (s : State) : State :=
  let s := modRing n (fun r => { r with unacked := r.unacked.erase index, memDirty := true }) s
  let s := endItem c rx u s
  flushRing n (if ok then ackDone c rx u s else fence c rx 10 0 (failMark c rx u s))

/-- The write-back of channel c ended (R40, R82, R367). A channel that still stops, or whose quiesce is over, enters
STOPPED, and keeps the fields when the write failed; one that has been fenced, reset or quiesced since goes on from
there. -/
def writtenBack (c : Nat) (ok : Bool) (s : State) : State :=
  let ch := chan c s
  let s := if ok then s else fset FAB_STAT.ctx_fault 1 s
  let stops := ch.writeBack && (match ch.state with
    | .stopping => true
    | .resetting => (ch.expired || !readsPending c s) && (func ch.ctx.func s).qState != 1
    | .quiesced => (func ch.ctx.func s).qState == 0
    | _ => false)
  let ch := { ch with writeBack := false, keptCv := if ok then ch.keptCv else some (ch.tx.cv, ch.rx.cv) }
  if stops then setChan c { ch with state := .stopped } s else stopCheck c (setChan c ch s)

/-- An index block write outside a START ended; what has changed since is written. -/
def indexAcked (c : Nat) (book tx ok : Bool) (s : State) : State :=
  let s := modChan c (fun ch => if book then { ch with bkOut := false } else { ch with idxOut := false }) s
  flushBook c (flushIndex c (if ok then s else fence c (!tx) 10 0 s))

/-- The write of a log record or of the log ring's prod ended. -/
def logAcked (c : Nat) (i : Option Word) (ok : Bool) (s : State) : State :=
  let s := modLog c (fun l => match i with | some i => l.ack i | none => { l with prodOut := false }) s
  flushLogProd c true (if ok then s else fence c false 10 0 s)

/-- The write of a learn event or of the learn ring's prod ended. -/
def learnAcked (i : Option Word) (ok : Bool) (s : State) : State :=
  let s := modLearn (fun l => match i with | some i => l.ack i | none => { l with prodOut := false }) s
  flushLearnProd true (if ok then s else learnFault s)

/-- The write of a sample record or of the sample ring's prod ended. -/
def sampleAcked (i : Option Word) (ok : Bool) (s : State) : State :=
  let s := modSampleRing (fun l => match i with | some i => l.ack i | none => { l with prodOut := false }) s
  flushSampleProd true (if ok then s else sampleFail s)

/-- What the acknowledgement of a write does, or its fault. -/
def writeEnded (r : Req) (ok : Bool) (s : State) : State :=
  match r.purpose with
  | .startWrite c => if ok then startWriteDone c s else faultStart c s
  | .ringResetWrite _ => ringResetWritten ok s
  | .rxData c serial => rxDataAcked c serial ok s
  | .entry n e u i => entryAcked n e.chan e.rx u i ok s
  | .indexWrite c tx => indexAcked c false tx ok s
  | .bookCopy c tx => indexAcked c true tx ok s
  | .writeBack c => writtenBack c ok s
  | .ringProd n =>
    let s := modRing n ({ · with memOut := false }) s
    ringSettled n (if ok then flushRing n s else fenceRing n 10 s)
  | .tblData ring => tblDataAcked ring ok s
  | .tblResult => tblResultAcked ok s
  | .tblDone => if ok then s else ringFault s
  | .learnEvent i => learnAcked (some i) ok s
  | .learnProd => learnAcked none ok s
  | .logRecord c i => logAcked c (some i) ok s
  | .logProd c => logAcked c none ok s
  | .snapHeader | .snapEntries | .snapFinal => if ok then snapAcked r.purpose s else snapFail r.purpose s
  | .sample i => sampleAcked (some i) ok s
  | .sampleProd => sampleAcked none ok s
  | _ => s

/-- FABRIC_WRITE_ACK: err says that the host chip answered with an error. -/
def execFabricWriteAck (req : Nat) (err : Bool) (s : State) : Host.Outcome State Fault Refusal :=
  if !auxPort s then .next s
  else
    match findReq req s with
    | none => .next (lateAnswer req s)
    | some r =>
      if !r.write then .next s
      else
        let t := dropReq req s
        let t := if err then errResponse r t else t
        .next (settle (afterReq r (if r.discard then t else writeEnded r (!err) t)))

/-! ### Timeouts, late answers and port faults (R363 to R366) -/

/-- A request is timed out; one that fails is a fault of its requester. An entry that is held again holds its ring, for
which a START may wait (R493). -/
def timeOut (r : Req) (s : State) : State :=
  let t := timeOutReq r s
  let s := afterReq r (if t.2 then (if r.write then writeEnded r false t.1 else readFailed r t.1) else t.1)
  match r.purpose with
  | .entry n _ _ _ => ringSettled n s
  | _ => s

/-- Port p leaves service, and its outstanding requests are timed out at once. -/
def failPort (p : Nat) (s : State) : State :=
  if s.fabric.faulted.contains p then s
  else (portReqs p s).foldl (fun s r => timeOut r s) (portFault p s)

/-- The timeout of an outstanding request, with the fault of its port when its timeouts reach the limit. -/
def requestTimeout (write : Bool) (req : Nat) (s : State) : State :=
  match findReq req s with
  | none => s
  | some r =>
    if r.write != write then s
    else
      let p := r.port.getD 0
      let s := timeOut r s
      if threshReached p s then failPort p s else s

/-- READ_TIMEOUT: timeout_us have passed since the read was issued. -/
def execReadTimeout (req : Nat) (s : State) : Host.Outcome State Fault Refusal :=
  if auxPort s then .next (settle (requestTimeout false req s)) else .next s

/-- WRITE_TIMEOUT. -/
def execWriteTimeout (req : Nat) (s : State) : Host.Outcome State Fault Refusal :=
  if auxPort s then .next (settle (requestTimeout true req s)) else .next s

/-- LATE_COMPLETION: an answer to a request that has timed out is discarded and counted. -/
def execLateCompletion (req : Nat) (s : State) : Host.Outcome State Fault Refusal :=
  if auxPort s then .next (lateAnswer req s) else .next s

/-- Four timeout periods have passed since a request timed out. -/
def holdExpiry (write : Bool) (req : Nat) (s : State) : State :=
  match s.fabric.quarantine.find? fun q => q.req == req && q.write == write with
  | none => s
  | some q => drainCheck q.func (releaseQuarantine (· == q) s)

/-- QUARANTINE_EXPIRY: the tag of a timed-out read leaves quarantine (R364). -/
def execQuarantineExpiry (req : Nat) (s : State) : Host.Outcome State Fault Refusal :=
  if auxPort s then .next (settle (holdExpiry false req s)) else .next s

/-- WRITE_HOLD_EXPIRY: the hold on the granule of a timed-out write ends (R365). -/
def execWriteHoldExpiry (req : Nat) (s : State) : Host.Outcome State Fault Refusal :=
  if auxPort s then .next (settle (holdExpiry true req s)) else .next s

/-- The level of fp_ierr of a port is high. -/
def ierrHigh (p : Nat) (s : State) : State := { s with fabric := { s.fabric with ierr := s.fabric.ierr ++ [p] } }

/-- fp_ierr of a port rises: the port leaves service (R366, R485). While the block does not run, only the level is
known. -/
def ierrRise (p : Nat) (s : State) : State :=
  if s.fabric.ierr.contains p then s
  else if auxPort s then settle (failPort p (ierrHigh p s))
  else ierrHigh p s

/-- FABRIC_PORT_IERR. -/
def execFabricPortIerr (p : BitVec 4) (high : Bool) (s : State) : Host.Outcome State Fault Refusal :=
  if high then .next (ierrRise p.toNat s)
  else .next { s with fabric := { s.fabric with ierr := s.fabric.ierr.erase p.toNat } }

/-! ### Timers of completion rings -/

/-- STALL_REREAD_TIMER: cons_index of a stalled ring is read every 1 µs (R76). -/
def execStallRereadTimer (n : BitVec 12) (s : State) : Host.Outcome State Fault Refusal :=
  if live s && (ring n.toNat s).stalled then .next (settle (readCons n.toNat s)) else .next s

/-- The channels with a backlog on ring n. -/
def backlogChans (n : Nat) (s : State) : List Nat :=
  ((s.book.pool.filter fun x => x.ring == n).map (·.entry.chan)).foldl
    (fun acc c => if acc.contains c then acc else acc ++ [c]) []

/-- The stall of ring n has lasted stall_time: one alert for each channel with a backlog (R78). -/
def stallAlert (n : Nat) (s : State) : State :=
  (backlogChans n s).foldl (fun s c => postError 1 3 0x11 0 c s) (modRing n ({ · with alerted := true }) s)

/-- STALL_ALERT_TIMER. -/
def execStallAlertTimer (n : BitVec 12) (s : State) : Host.Outcome State Fault Refusal :=
  let r := ring n.toNat s
  if live s && r.stalled && !r.alerted && r.stallTime != 0 then .next (settle (stallAlert n.toNat s)) else .next s

/-- MODERATION_TIMER: mod_time has passed since the first entry written after the ring's last event (R74). -/
def execModerationTimer (n : BitVec 12) (s : State) : Host.Outcome State Fault Refusal :=
  let r := ring n.toNat s
  if live s && r.timer && r.eventEn && r.since != 0 then .next (settle (ringEvent n.toNat s)) else .next s

end Sys2Proof.Machine
end

