-- ==== Sys2Proof/Machine/Flags.lean ====
section
/-!
DEFINITION. What a read of a register shows (R11, R471): the stored word, with every field overlaid that reports state
held elsewhere in the block. Nothing here changes the state.
-/

namespace Sys2Proof.Machine

/-- A stored word with fields replaced by the values they report. -/
def overlay (fs : List (Fld × Nat)) (w : Word) : Word := fs.foldl (fun w f => f.1.write f.2 w) w

/-- A word of which bit i, for i below n, is p i. -/
def maskOf (n : Nat) (p : Nat → Bool) : Nat := (List.range n).foldl (fun a i => if p i then a + 2 ^ i else a) 0

/-- A count as a field of its width shows it, saturated at m. -/
def upTo (m n : Nat) : Nat := min n m

/-! ### GLB -/

/-- GLB_STATUS (R391, R394 to R397). -/
def liveStatus (s : State) : List (Fld × Nat) :=
  [(GLB_STATUS.ready, b2n (auxPort s)), (GLB_STATUS.init_busy, b2n s.power.initBusy),
   (GLB_STATUS.reset_busy, b2n s.power.resetBusy), (GLB_STATUS.reset_cause, s.power.cause),
   (GLB_STATUS.soft_cnt, upTo 0xFFFF s.power.softCnt)]

/-- GLB_THROTTLE_STAT.div: two bits a press. -/
def liveDivs (s : State) : List (Fld × Nat) :=
  [(GLB_THROTTLE_STAT.div, (List.range 5).foldl (fun a k => a + (press k s).div * 4 ^ k) 0)]

/-- GLB_RACK_STAT (R424 to R429). -/
def liveRack (s : State) : List (Fld × Nat) :=
  [(GLB_RACK_STAT.state, s.racking.state), (GLB_RACK_STAT.source, s.racking.source),
   (GLB_RACK_STAT.target, s.racking.target), (GLB_RACK_STAT.cause, s.racking.cause),
   (GLB_RACK_STAT.last_result, s.racking.result), (GLB_RACK_STAT.abort_reason, s.racking.abort),
   (GLB_RACK_STAT.isolated, s.racking.isolated.toNat), (GLB_RACK_STAT.last_cutover, upTo 0x3FF s.racking.lastCutover)]

/-- GLB_ERR_STAT: the slot of the oldest record, and how many are held (R415). -/
def liveErrors (s : State) : List (Fld × Nat) :=
  [(GLB_ERR_STAT.head, (s.errors.posted - s.errors.count) % 64), (GLB_ERR_STAT.count, s.errors.count)]

/-- Word w of error record i (R415). -/
def errWord (i w : Nat) (s : State) : Word :=
  let r := mgetD {} i s.errors.recs
  match w with
  | 0 => r.w0
  | 1 => r.w1
  | 2 => r.w2
  | _ => r.w3

/-- What the GLB register at an offset reports. -/
def liveGlb (a : Nat) (s : State) : List (Fld × Nat) :=
  if a = GLB_STATUS.reg.off then liveStatus s
  else if a = GLB_THROTTLE_STAT.reg.off then liveDivs s
  else if a = GLB_DORM_STAT.reg.off then [(GLB_DORM_STAT.state, s.power.dorm)]
  else if a = GLB_ERR_STAT.reg.off then liveErrors s
  else if a = GLB_RACK_STAT.reg.off then liveRack s
  else if 0x100 ≤ a ∧ a < 0x500 then [(⟨⟨a, 0⟩, 31, 0⟩, (errWord ((a - 0x100) / 16) (a / 4 % 4) s).toNat)]
  else []

/-! ### MGT -/

/-- How MGT_SESSION_STAT codes a session's state (R446). -/
def SessState.code : SessState → Nat
  | .free => 0
  | .challenged => 1
  | .open => 2

/-- One byte of MGT_SESSION_STAT: state, inband and slot. -/
def sessByte (x : Session) : Nat := x.state.code * 64 + b2n x.inband.isSome * 32 + x.slot % 8

/-- MGT_SESSION_STAT, a byte a session. -/
def sessWord (s : State) : Nat := (List.range 4).foldl (fun a i => a + sessByte (session i s) * 256 ^ i) 0

/-- MGT_KEY_SLOT_STAT (R441, R446). -/
def liveKeys (s : State) : List (Fld × Nat) :=
  [(MGT_KEY_SLOT_STAT.port_open, b2n s.aux.portOpen),
   (MGT_KEY_SLOT_STAT.lockout, maskOf 8 fun n => (keySlot n s).lockout),
   (MGT_KEY_SLOT_STAT.slot_state, (List.range 8).foldl (fun a n => a + (keySlot n s).state * 4 ^ n) 0)]

/-- The response that the mailbox holds (R448). -/
def heldResponse (s : State) : Bytes := s.mgmt.mboxRsp.getD []

/-- What the MGT register at an offset reports. -/
def liveMgt (a : Nat) (s : State) : List (Fld × Nat) :=
  if a = MGT_CORE_STAT.reg.off then
    [(MGT_CORE_STAT.state, s.cm.state), (MGT_CORE_STAT.version, s.cm.version.toNat),
     (MGT_CORE_STAT.restart_cnt, upTo 0xFFFF s.cm.starts)]
  else if a = MGT_LOAD_CTL.reg.off then [(MGT_LOAD_CTL.busy, b2n (s.cm.state == 1 || s.cm.state == 2))]
  else if a = MGT_MBOX_RSP.reg.off then
    [(MGT_MBOX_RSP.type_, beAt 0 1 (heldResponse s)), (MGT_MBOX_RSP.len, upTo 0xFF (heldResponse s).length)]
  else if a = MGT_MBOX_STAT.reg.off then
    [(MGT_MBOX_STAT.busy, b2n s.mgmt.mboxBusy.isSome), (MGT_MBOX_STAT.rsp_ready, b2n s.mgmt.mboxRsp.isSome)]
  else if a = MGT_SESSION_STAT.reg.off then [(⟨MGT_SESSION_STAT.reg, 31, 0⟩, sessWord s)]
  else if a = MGT_KEY_SLOT_STAT.reg.off then liveKeys s
  else []

/-! ### FAB and EVT -/

/-- The state code of R81. -/
def ChState.code : ChState → Nat
  | .disabled => 0
  | .running => 1
  | .stopping => 2
  | .stopped => 3
  | .fenced => 4
  | .quiesced => 5
  | .resetting => 6

/-- FAB_CHN_STAT of the selected channel. -/
def liveChan (c : Nat) (s : State) : List (Fld × Nat) :=
  let ch := chan c s
  [(FAB_CHN_STAT.backlog, chanBacklog c false s + chanBacklog c true s),
   (FAB_CHN_STAT.inflight_full, b2n (inflightFull c false s || inflightFull c true s)),
   (FAB_CHN_STAT.tx_held, b2n (!ch.tx.partialDescs.isEmpty && ch.tx.fetch == ch.tx.prod)), (FAB_CHN_STAT.cmd_rejected, b2n ch.rejected),
   (FAB_CHN_STAT.busy, b2n ch.startOp.isSome), (FAB_CHN_STAT.state, ch.state.code)]

/-- FAB_CHN_FENCE_INFO of the selected channel (R91). -/
def liveFence (c : Nat) (s : State) : List (Fld × Nat) :=
  match (chan c s).fence with
  | none => []
  | some f => [(FAB_CHN_FENCE_INFO.dir, b2n f.rx), (FAB_CHN_FENCE_INFO.reason, f.reason),
               (FAB_CHN_FENCE_INFO.status, f.status)]

/-- Channels of a function that are not DISABLED. -/
def chansOf (f : Nat) (s : State) : Nat :=
  (s.chans.filter fun e => e.2.state != .disabled && e.2.ctx.func == f).length

/-- FAB_FUNC_STAT of the selected function (R368 to R383). -/
def liveFunc (f : Nat) (s : State) : List (Fld × Nat) :=
  let x := func f s
  [(FAB_FUNC_STAT.present, b2n x.present), (FAB_FUNC_STAT.vf, b2n x.vf), (FAB_FUNC_STAT.bme, b2n x.bme),
   (FAB_FUNC_STAT.msg_en, b2n x.msgEn), (FAB_FUNC_STAT.flr, b2n x.flr), (FAB_FUNC_STAT.q_state, x.qState),
   (FAB_FUNC_STAT.link_lost, b2n x.linkLost), (FAB_FUNC_STAT.intx_pending, b2n x.intx),
   (FAB_FUNC_STAT.q_timeout, b2n x.qTimeout), (FAB_FUNC_STAT.abandoned, upTo 0xFF x.abandoned),
   (FAB_FUNC_STAT.channels, chansOf f s)]

/-- FAB_PORT_STAT of port i (R362 to R366). -/
def livePort (i : Nat) (s : State) : List (Fld × Nat) :=
  [(FAB_PORT_STAT.in_service i, b2n (inService i s)), (FAB_PORT_STAT.fault i, b2n (s.fabric.faulted.contains i)),
   (FAB_PORT_STAT.tags_out i, readsOut i s), (FAB_PORT_STAT.quarantined i, quarOut false i s)]

/-- Channel context entries cached: one for each channel in use, as far as the cache holds them. DESIGN CHOICE (log
entry 15): no rule says which entries the cache drops when more than 1,024 channels are active, so the model holds
every active entry and counts at most 1,024. -/
def cacheOccupancy (s : State) : Nat := min 1024 (s.chans.filter fun e => e.2.active).length

/-- What the FAB register at an offset reports. -/
def liveFab (a : Nat) (s : State) : List (Fld × Nat) :=
  if a = FAB_STAT.reg.off then
    [(FAB_STAT.in_service, maskOf 16 fun i => inService i s), (FAB_STAT.host_up, b2n s.fabric.hostUp),
     (FAB_STAT.no_port, b2n (svcPorts none s).isEmpty), (FAB_STAT.quarantine, b2n !s.fabric.quarantine.isEmpty)]
  else if a = FAB_CTX_INVAL.reg.off then [(FAB_CTX_INVAL.busy, b2n (s.fabric.invalBusy != 0))]
  else if a = FAB_CTX_CACHE_STAT.reg.off then [(FAB_CTX_CACHE_STAT.occupancy, cacheOccupancy s)]
  else if a = FAB_HOST_LINK.reg.off then [(FAB_HOST_LINK.up, b2n s.fabric.hostUp)]
  else if a = FAB_CHN_STAT.reg.off then liveChan (fget FAB_CHN_SEL.channel s) s
  else if a = FAB_CHN_FENCE_INFO.reg.off then liveFence (fget FAB_CHN_SEL.channel s) s
  else if a = FAB_FUNC_STAT.reg.off then liveFunc (fget FAB_FUNC_SEL.function s) s
  else if a = FAB_FUNC_CTL.reg.off then
    [(FAB_FUNC_CTL.adapter_mem, b2n (func (fget FAB_FUNC_SEL.function s) s).adapterMem)]
  else if (FAB_PORT_STAT.reg 0).off ≤ a ∧ a < (FAB_PORT_STAT.reg 16).off then
    livePort ((a - (FAB_PORT_STAT.reg 0).off) / 4) s
  else if a = EVT_STAT.reg.off then [(EVT_STAT.stall, b2n s.events.stall)]
  else if a = EVT_INTX_CFG.reg.off then
    [(EVT_INTX_CFG.pending, b2n (func (fget EVT_INTX_CFG.func s) s).intx)]
  else []

/-! ### PMU, TIM and CVU -/

/-- What the PMU register at an offset reports; the window shows the counter that PMU_SEL names. -/
def livePmu (a : Nat) (s : State) : List (Fld × Nat) :=
  let word := fun (w : Word) => [((⟨⟨a, 0⟩, 31, 0⟩ : Fld), w.toNat)]
  if a = PMU_STAT.reg.off then [(PMU_STAT.snap_busy, b2n s.pmu.snapBusy)]
  else if a = PMU_SAMPLE_STAT.reg.off then
    [(PMU_SAMPLE_STAT.ring_full, b2n (s.pmu.ring.free (sampleLog2 s) == 0)),
     (PMU_SAMPLE_STAT.inflight, s.pmu.tags.length)]
  else if a = PMU_EVT_CFG.reg.off then word (winRead .evt s)
  else if a = PMU_FILT_A.reg.off then word (winRead .filtA s)
  else if a = PMU_FILT_B.reg.off then word (winRead .filtB s)
  else if a = PMU_PRELOAD_LO.reg.off then word (winRead .preLo s)
  else if a = PMU_PRELOAD_HI.reg.off then word (winRead .preHi s)
  else if a = PMU_VAL_LO.reg.off then word ((winValue s).setWidth 32)
  else if a = PMU_VAL_HI.reg.off then word ((winValue s >>> 32).setWidth 32)
  else []

/-- What the TIM register at an offset reports: the time captured by the last read of TIM_SEC_HI (R343), and whether the
trigger is armed (R356). -/
def liveTim (a : Nat) (s : State) : List (Fld × Nat) :=
  let word := fun (w : Word) => [((⟨⟨a, 0⟩, 31, 0⟩ : Fld), w.toNat)]
  if a = TIM_SEC_LO.reg.off then word s.time.capLo
  else if a = TIM_NS.reg.off then word s.time.capNs
  else if a = TIM_FRAC.reg.off then word s.time.capFrac
  else if a = TIM_TRIG_NS.reg.off then [(TIM_TRIG_NS.arm, b2n s.time.armed)]
  else if a = TIM_STAT.reg.off then [(TIM_STAT.trig_armed, b2n s.time.armed)]
  else []

/-- What the CVU register at an offset reports. -/
def liveCvu (a : Nat) (s : State) : List (Fld × Nat) :=
  if a = CVU_STAT.reg.off then [(CVU_STAT.log_wait, b2n (s.chans.any (·.2.logWaits)))]
  else if a = CVU_TEST_CTL.reg.off then [(CVU_TEST_CTL.active, b2n s.cvTest.active)]
  else if a = CVU_TEST_RES_LO.reg.off then [(CVU_TEST_RES_LO.res_lo, (cvuTestResult s).toNat)]
  else if a = CVU_TEST_RES_HI.reg.off then [(CVU_TEST_RES_HI.res_hi, (cvuTestResult s >>> 32).toNat)]
  else []

/-! ### CEL and TBL -/

/-- CEL_SPARE_CTL (R168). -/
def liveSpares (s : State) : List (Fld × Nat) :=
  [(CEL_SPARE_CTL.copy_busy, b2n s.cellar.copyBank.isSome), (CEL_SPARE_CTL.copy_bank, s.cellar.copyBank.getD 0),
   (CEL_SPARE_CTL.spare1_used, b2n s.cellar.spare1.isSome), (CEL_SPARE_CTL.spare1_bank, s.cellar.spare1.getD 0),
   (CEL_SPARE_CTL.spare0_used, b2n s.cellar.spare0.isSome), (CEL_SPARE_CTL.spare0_bank, s.cellar.spare0.getD 0)]

/-- What the CEL register at an offset reports (R172 to R178). -/
def liveCel (a : Nat) (s : State) : List (Fld × Nat) :=
  if a = CEL_STAT.reg.off then
    [(CEL_STAT.overcommit, b2n (overcommit s)), (CEL_STAT.tx_wait, b2n !s.cellar.txWaiting.isEmpty),
     (CEL_STAT.shared_free, sharedFree s)]
  else if a = CEL_SPARE_CTL.reg.off then liveSpares s
  else if a = CEL_HEADROOM_STAT.reg.off then [(CEL_HEADROOM_STAT.used, chargeSum (·.headroom) s)]
  else []

/-- Whether a command of the table engine runs. -/
def engineBusy (s : State) : Bool :=
  s.engine.waiting.isSome || s.engine.cmWaiting.isSome || s.engine.resultOut || s.engine.sweep.isSome || s.engine.move.isSome
    || s.engine.copy.isSome

/-- What the TBL register at an offset reports (R242 to R268). -/
def liveTbl (a : Nat) (s : State) : List (Fld × Nat) :=
  let e := s.engine
  if a = TBL_STAT.reg.off then
    [(TBL_STAT.busy, b2n (engineBusy s)), (TBL_STAT.age_pending, b2n e.agePending),
     (TBL_STAT.sweep_busy, b2n e.sweep.isSome), (TBL_STAT.copy_busy, b2n e.copy.isSome),
     (TBL_STAT.shadow_on, b2n !e.shadows.isEmpty), (TBL_STAT.locks_held, (e.locks.filter (·.held)).length)]
  else if a = TBL_LEARN_STAT.reg.off then
    [(TBL_LEARN_STAT.ring_full, b2n (e.learn.free (learnLog2 s) == 0))]
  else if (TBL_VINTAGE.reg 0).off ≤ a ∧ a < (TBL_VINTAGE.reg 5).off then
    let i := (a - (TBL_VINTAGE.reg 0).off) / 4
    [(TBL_VINTAGE.vintage i, (nth 0 i e.vintages).toNat)]
  else if (TBL_OCC.reg 0).off ≤ a ∧ a < (TBL_OCC.reg 5).off then
    let i := (a - (TBL_OCC.reg 0).off) / 4
    [(TBL_OCC.occ i, bucketOcc (replica i s))]
  else if (TBL_OVF_OCC.reg 0).off ≤ a ∧ a < (TBL_OVF_OCC.reg 5).off then
    let i := (a - (TBL_OVF_OCC.reg 0).off) / 4
    [(TBL_OVF_OCC.occ i, overflowOcc (replica i s)), (TBL_OVF_OCC.full i, b2n (overflowOcc (replica i s) == ovfSize))]
  else []

/-! ### AUX -/

/-- AUX_SUPPLY_STAT (R386 to R389). -/
def liveSupplies (s : State) : List (Fld × Nat) :=
  [(AUX_SUPPLY_STAT.vaux_ok, b2n s.aux.vaux), (AUX_SUPPLY_STAT.vdd_ok, b2n s.aux.vdd),
   (AUX_SUPPLY_STAT.vdds_ok, b2n (s.aux.vdds == .operating)),
   (AUX_SUPPLY_STAT.vdds_ret, b2n (s.aux.vdds == .retention)), (AUX_SUPPLY_STAT.rclk_ok, b2n s.aux.rclk)]

/-- AUX_BOOK_STAT (R105, R109, R112). -/
def liveBook (s : State) : List (Fld × Nat) :=
  [(AUX_BOOK_STAT.image_valid, b2n s.aux.imageValid), (AUX_BOOK_STAT.drain_busy, b2n s.aux.drainBusy),
   (AUX_BOOK_STAT.source, s.aux.source), (AUX_BOOK_STAT.pending_cnt, s.aux.image.pending.length),
   (AUX_BOOK_STAT.indet_cnt, s.aux.indets.length)]

/-- AUX_CAGE_STAT of cage c (R410, R411); link_up is the link state of the row's ports. -/
def liveCage (c : Nat) (s : State) : List (Fld × Nat) :=
  let x := cage c s
  [(AUX_CAGE_STAT.state c, x.state), (AUX_CAGE_STAT.present c, b2n x.present), (AUX_CAGE_STAT.pg c, b2n x.pg),
   (AUX_CAGE_STAT.fault_in c, b2n x.faultIn), (AUX_CAGE_STAT.pwr_out c, b2n x.pwrOut),
   (AUX_CAGE_STAT.fault_cause c, x.cause), (AUX_CAGE_STAT.link_up c, maskOf 8 fun p => (port (8 * c + p) s).linkUp)]

/-- The address in the pattern store of the word that AUX_WAKE_SEL names. -/
def wakeAddr (s : State) : Nat :=
  fget AUX_WAKE_SEL.slot s * 256 + fget AUX_WAKE_SEL.half s * 128 + fget AUX_WAKE_SEL.word s * 4

/-- The word of the pattern store that AUX_WAKE_SEL names. -/
def wakeWord (s : State) : Nat :=
  leNat ((List.range 4).map fun i => mgetD 0 (wakeAddr s + i) s.aux.patterns)

/-- What the AUX register at an offset reports. -/
def liveAux (a : Nat) (s : State) : List (Fld × Nat) :=
  if a = AUX_STAT.reg.off then [(AUX_STAT.cage_evt, maskOf 32 fun c => regW (AUX_CAGE_EVT.reg c) s != 0)]
  else if a = AUX_SUPPLY_STAT.reg.off then liveSupplies s
  else if a = AUX_SENTINEL_CFG.reg.off then
    [(AUX_SENTINEL_CFG.port, (nth {} (fget AUX_SENTINEL_CFG.sel s) s.aux.sentinels).port)]
  else if a = AUX_BOOK_STAT.reg.off then liveBook s
  else if a = AUX_WAKE_DATA.reg.off then [(AUX_WAKE_DATA.data, wakeWord s)]
  else if (AUX_CAGE_STAT.reg 0).off ≤ a ∧ a < (AUX_CAGE_STAT.reg 32).off ∧ a % 16 = 4 then
    liveCage ((a - (AUX_CAGE_STAT.reg 0).off) / 16) s
  else []

/-! ### PRS -/

/-- PRS_STAT.role of press k (R13, R425, R426). -/
def roleOf (k : Nat) (s : State) : Nat :=
  if s.racking.state != 0 && (k == s.racking.source || k == s.racking.target) then s.racking.state + 1
  else if k = reservePress s then 1
  else 0

/-- PRS_LPM_CFG of press k (R264, R265). -/
def liveLpm (k : Nat) (s : State) : List (Fld × Nat) :=
  [(PRS_LPM_CFG.move_busy k, b2n ((s.engine.move.map (·.targets.contains k)).getD false)),
   (PRS_LPM_CFG.zones_valid k, b2n (zonesValid (replica k s))), (PRS_LPM_CFG.free_rows k, freeRows (replica k s))]

/-- Classification rows of a replica that are valid (R270). -/
def rowsValid (r : Replica) : Nat := (r.cls.filter fun e => bit (leAt 0x7C 4 e.2) 31).length

/-- A bucket level as PRS_POL_STAT shows it: units of 256 bytes, saturated. -/
def levelUnits (l : Nat) : Nat := upTo 0xFFFF (l / 2 ^ 28)

/-- What the policer window of press k shows (R293): the committed values and the levels of the selected policer. -/
def livePolicer (k a : Nat) (s : State) : List (Fld × Nat) :=
  let word := fun (w : Word) => [((⟨⟨a, 0⟩, 31, 0⟩ : Fld), w.toNat)]
  let p := policer k (polSel k s) s
  if a = (PRS_POL_CIR.reg k).off then word (BitVec.ofNat 32 p.cir)
  else if a = (PRS_POL_PIR.reg k).off then word (BitVec.ofNat 32 p.pir)
  else if a = (PRS_POL_CBS.reg k).off then word (BitVec.ofNat 32 p.cbs)
  else if a = (PRS_POL_PBS.reg k).off then word (BitVec.ofNat 32 p.pbs)
  else if a = (PRS_POL_CTL.reg k).off then word p.ctl
  else if a = (PRS_POL_STAT.reg k).off then
    [(PRS_POL_STAT.tc_level k, levelUnits p.tc), (PRS_POL_STAT.tp_level k, levelUnits p.tp)]
  else []

/-- What the PRS register at an address of press k reports. -/
def livePrs (k a : Nat) (s : State) : List (Fld × Nat) :=
  if a = (PRS_STAT.reg k).off then [(PRS_STAT.role k, roleOf k s)]
  else if a = (PRS_CLK_STAT.reg k).off then [(PRS_CLK_STAT.div k, (press k s).div)]
  else if a = (PRS_LANE_STAT.reg k).off then [(PRS_LANE_STAT.in_service k, maskOf 8 fun l => laneIn k l s)]
  else if a = (PRS_REORDER_STAT.reg k).off then [(PRS_REORDER_STAT.occupancy k, (press k s).window.length)]
  else if a = (PRS_LPM_CFG.reg k).off then liveLpm k s
  else if a = (PRS_CLS_CFG.reg k).off then [(PRS_CLS_CFG.rows_valid k, rowsValid (replica k s))]
  else livePolicer k a s

/-! ### ROW and PRT -/

/-- ROW_TWIN_STAT of row r (R119, R120). -/
def liveTwin (r : Nat) (s : State) : List (Fld × Nat) :=
  [(ROW_TWIN_STAT.pair_up r, b2n (pairOfRow r s).isSome),
   (ROW_TWIN_STAT.cfg_err r, b2n (fbit (ROW_TWIN_CFG.twin_en r) s && (pairOfRow r s).isNone)),
   (ROW_TWIN_STAT.local_up r, b2n (port (twinLocal r s) s).linkUp),
   (ROW_TWIN_STAT.partner_up r, b2n (port (fget (ROW_TWIN_CFG.partner_port r) s) s).linkUp),
   (ROW_TWIN_STAT.tx_seq r, if fbit (ROW_TWIN_CFG.anchor r) s then (row r s).txSeq.toNat else 0)]

/-- What the ROW register at an address of row r reports. -/
def liveRow (r a : Nat) (s : State) : List (Fld × Nat) :=
  if a = (ROW_STAT.reg r).off then
    [(ROW_STAT.state r, (row r s).state), (ROW_STAT.link_up r, maskOf 8 fun p => (port (8 * r + p) s).linkUp),
     (ROW_STAT.tx_queued r, upTo 0xFFFF (rowQueued r s))]
  else if a = (ROW_CAL_CFG.reg r).off then [(ROW_CAL_CFG.cal_valid r, b2n (calValid r s))]
  else if a = (ROW_TWIN_STAT.reg r).off then liveTwin r s
  else if a = (ROW_GATE_LOAD.reg r).off then [(ROW_GATE_LOAD.busy r, b2n (row r s).gateBusy)]
  else []

/-- PRT_GATE_STAT of port g (R311 to R314). -/
def liveGates (g : Nat) (s : State) : List (Fld × Nat) :=
  let p := port g s
  [(PRT_GATE_STAT.oper_valid g, b2n p.oper.isSome), (PRT_GATE_STAT.pending g, b2n p.pendingGate.isSome),
   (PRT_GATE_STAT.oper_states g, if gated g s then (gateStates g s).toNat else 0xFF),
   (PRT_GATE_STAT.oper_index g, match p.oper with
      | some l => (l.at (ptpNow s)).1
      | none => 0)]

/-- PRT_PFC_STAT of port g (R178, R189, R192). -/
def livePfc (g : Nat) (s : State) : List (Fld × Nat) :=
  let p := port g s
  [(PRT_PFC_STAT.xoff g, maskOf 8 fun q => (charge g q s).xoff),
   (PRT_PFC_STAT.rx_paused g, maskOf 8 fun i => paused g i s),
   (PRT_PFC_STAT.hold g, maskOf 8 fun q => (charge g q s).holds != 0),
   (PRT_PFC_STAT.link_paused g, b2n (p.linkPause != 0))]

/-- What the PRT register at an address of port g reports. -/
def livePrt (g a : Nat) (s : State) : List (Fld × Nat) :=
  let p := port g s
  if a = (PRT_MAC_STAT.reg g).off then
    [(PRT_MAC_STAT.link_up g, b2n p.linkUp),
     (PRT_MAC_STAT.local_fault g, b2n (evaluates g s && faultState g s == .localFault)),
     (PRT_MAC_STAT.remote_fault g, b2n (evaluates g s && faultState g s == .remoteFault)),
     (PRT_MAC_STAT.tx_active g, b2n ((p.cur.map (·.onMii)).getD false))]
  else if a = (PRT_LPI_STAT.reg g).off then
    [(PRT_LPI_STAT.rx_lpi g, b2n (rxLpiNow g s)), (PRT_LPI_STAT.lpi_capable g, b2n (lpiCapable g s)),
     (PRT_LPI_STAT.tx_state g, p.txLpi)]
  else if a = (PRT_PFC_STAT.reg g).off then livePfc g s
  else if a = (PRT_GATE_STAT.reg g).off then liveGates g s
  else []

/-! ### The whole window -/

/-- The fields of the register at an address that report state held elsewhere (decode of R470). -/
def liveFields (a : Nat) (s : State) : List (Fld × Nat) :=
  match a / 0x10000 with
  | 0 => liveGlb a s
  | 1 => liveMgt a s
  | 2 | 3 => liveFab a s
  | 4 => livePmu a s
  | 5 => liveTim a s
  | 6 => liveCvu a s
  | 7 => liveCel a s
  | 8 => liveTbl a s
  | 9 => liveAux a s
  | n =>
    if n < 0x20 then livePrs (n - 0x10) a s
    else
      let r := (a - 0x200000) / 0x4000
      let o := (a - 0x200000) % 0x4000
      if o < 0x800 then liveRow r a s else livePrt (8 * r + (o - 0x800) / 0x400) a s

/-- The register at an address as the register port knows it. -/
def regAt (a : Nat) (x : RegSpec) : Reg := ⟨a, x.first.rst⟩

/-- What a read of an assigned address shows (R11). -/
def viewed (a : Nat) (x : RegSpec) (s : State) : Word := overlay (liveFields a s) (regW (regAt a x) s)

end Sys2Proof.Machine
end

