-- ==== Sys2Proof/Machine/Registers.lean ====
section
/-!
DEFINITION. The register port (R8 to R12, R392, R470 to R476) and the doorbell window (R54 to R57, R477): reads with
their effects, writes by field type, the writes that are ignored and those that act, and the channel and context
commands (R82, R89).
-/

namespace Sys2Proof.Machine

/-! ### Which accesses act (R8, R9, R392, R474) -/

/-- Whether the register port reaches an address: GLB and AUX registers always, the others while the block runs. -/
def reachable (a : Nat) (s : State) : Bool := if a < 0x10000 || isAux a then glbPort s else regLive s

/-- The register that an access of a width at an address reaches: all four bytes, aligned, assigned and reachable. -/
def accessed (a be : Nat) (s : State) : Option RegSpec :=
  if be == 15 && a % 4 == 0 && reachable a s then findSpec a else none

/-! ### Register pairs (R10, R476) -/

/-- The low registers of the pairs that R10 governs; each high register lies 4 bytes above. -/
def pairLows : List Reg :=
  [FAB_CTX_BASE_LO.reg, FAB_CCTX_BASE_LO.reg, MGT_LOAD_ADDR_LO.reg, PMU_SNAP_BASE_LO.reg, PMU_SAMPLE_BASE_LO.reg,
   PMU_PRELOAD_LO.reg, PMU_VAL_LO.reg, CVU_TEST_TAG_LO.reg, CVU_TEST_RES_LO.reg, TBL_CMD_BASE_LO.reg,
   TBL_LEARN_BASE_LO.reg, ROW_PAUSE_SA_LO.reg 0, ROW_GATE_IMG_LO.reg 0, PRT_MC_HASH_LO.reg 0,
   PRT_GATE_BASE_SEC_LO.reg 0]

/-- Whether a register is the low half of a pair. -/
def RegSpec.isLow (x : RegSpec) : Bool := pairLows.any fun r => r.off == x.first.off

/-- Whether a register is the high half of a pair. -/
def RegSpec.isHigh (x : RegSpec) : Bool := pairLows.any fun r => r.off + 4 == x.first.off

/-! ### Reads -/

/-- Bit number of the lowest bit of a mask. -/
def lowBit (m : Word) : Nat := ((List.range 32).find? fun i => m.toNat.testBit i).getD 32

/-- What the RC field of a register counts from after a read: 0, and for a highest use since the last read the use that
the read finds (CEL_HEADROOM_STAT, PRS_REORDER_STAT). -/
def rcRest (a : Nat) (s : State) : Nat :=
  if a = CEL_HEADROOM_STAT.reg.off then headroomUnits s
  else
    match (List.range 5).find? fun k => (PRS_REORDER_STAT.reg k).off == a with
    | some k => (press k s).window.length
    | none => 0

/-- The RC field of a register after a read that events of the same cycle meet (R12): cleared, and holding the events. -/
def clearRc (a events : Nat) (x : RegSpec) (s : State) : State :=
  if x.rc = 0 then s
  else if a = FAB_FUNC_STAT.reg.off then modFunc (fget FAB_FUNC_SEL.function s) (fun f => { f with abandoned := events }) s
  else
    let most := x.rc.toNat / 2 ^ lowBit x.rc
    setReg (regAt a x) ((regW (regAt a x) s &&& ~~~x.rc) ||| BitVec.ofNat 32 (min (rcRest a s + events) most * 2 ^ lowBit x.rc)) s

/-- The next word of the pattern store comes to the window (AUX_WAKE_SEL.word). -/
def nextWakeWord (s : State) : State := fset AUX_WAKE_SEL.word (fget AUX_WAKE_SEL.word s + 1) s

/-- A read of an assigned and reachable register: what it returns goes to rdata. A read of a high half of which none
was captured answers the half as it stands (DESIGN CHOICE, log entry 11: R10 gives no effect to a _HI read before one
of _LO). -/
def readSpec (a events : Nat) (x : RegSpec) (s : State) : State :=
  if a = TIM_SEC_HI.reg.off then timeCapture s
  else if a = TIM_CAP_SEC.reg.off then captureSecRead s
  else if a = TIM_CAP_NS.reg.off then captureRead s
  else if a = AUX_WAKE_DATA.reg.off then nextWakeWord { s with rdata := viewed a x s }
  else if x.isHigh then
    { s with rdata := (mget a s.pairCap).getD (viewed a x s), pairCap := merase a s.pairCap }
  else
    let s := { s with rdata := viewed a x s }
    let s := if x.isLow then
        match findSpec (a + 4) with
        | some y => { s with pairCap := mput (a + 4) (viewed (a + 4) y s) s.pairCap }
        | none => s
      else s
    clearRc a events x s

/-- A read of the register window; every other offset, width and alignment reads zero (R8, R9). -/
def readReg (a be events : Nat) (s : State) : State :=
  match accessed a be s with
  | some x => readSpec a events x s
  | none => { s with rdata := 0 }

/-! ### Writes: field types (R11, R12) -/

/-- The stored word after a write: RW fields take the data; W1C bits written 1 clear unless the hardware sets them in the
same cycle. -/
def stored (x : RegSpec) (old data hwSet : Word) : Word :=
  (old &&& ~~~x.rw &&& ~~~x.w1c) ||| (data &&& x.rw) ||| (old &&& x.w1c &&& ~~~data) ||| (hwSet &&& x.w1c)

/-- A write by field types alone. -/
def plainWrite (a : Nat) (x : RegSpec) (data hwSet : Word) (s : State) : State :=
  setReg (regAt a x) (stored x (regW (regAt a x) s) data hwSet) s

/-! ### Writes that are ignored -/

/-- Whether any channel is neither DISABLED nor STOPPED. -/
def anyActive (s : State) : Bool := s.chans.any fun e => e.2.active

/-- Whether a channel with tx_en or rx_en at 1 is neither DISABLED nor STOPPED (R330). -/
def anyCovered (s : State) : Bool := s.chans.any fun e => e.2.active && (e.2.ctx.conf.txEn || e.2.ctx.conf.rxEn)

/-- Whether every replica's exact-match table is empty (TBL_HASH_CFG). -/
def tablesEmpty (s : State) : Bool := (List.range 5).all fun i => (replica i s).em.isEmpty

/-- Whether a write of FAB, CEL, CVU, PMU, MGT or TBL configuration is ignored in the state of the block (R88, R174, R330,
spec/07, spec/14, spec/15). -/
def configLocked (a : Nat) (s : State) : Bool :=
  if FAB_CTX_BASE_LO.reg.off ≤ a ∧ a ≤ FAB_CCTX_BASE_HI.reg.off then anyActive s
  else if a = CEL_CFG.reg.off then fget GLB_ROW_EN.row_en s != 0 || anyActive s
  else if a = CVU_CTL.reg.off then anyCovered s
  else if a = PMU_SNAP_BASE_LO.reg.off ∨ a = PMU_SNAP_BASE_HI.reg.off then s.pmu.snapBusy
  else if a = PMU_SAMPLE_BASE_LO.reg.off ∨ a = PMU_SAMPLE_BASE_HI.reg.off then fbit PMU_SAMPLE_CFG.en s
  else if MGT_LOAD_ADDR_LO.reg.off ≤ a ∧ a ≤ MGT_LOAD_LEN.reg.off then s.cm.state == 1 || s.cm.state == 2
  else if TBL_CMD_BASE_LO.reg.off ≤ a ∧ a ≤ TBL_CMD_SIZE.reg.off then fbit TBL_CTL.cmd_ring_en s
  else if a = TBL_LEARN_BASE_LO.reg.off ∨ a = TBL_LEARN_BASE_HI.reg.off then fbit TBL_LEARN_CFG.ring_en s
  else if a = TBL_HASH_CFG.reg.off then !tablesEmpty s
  else false

/-- Whether a write of a row's calendar or gate image registers is ignored (R161, R322, ROW_CAL). -/
def rowLocked (r o : Nat) (s : State) : Bool :=
  if 0x40 ≤ o ∧ o < 0x60 then !fbit (ROW_CAL_CFG.manual r) s || (row r s).state != 0
  else if o = 0x28 ∨ o = 0x2C then (row r s).gateBusy
  else false

/-! ### Writes that act: GLB, AUX -/

/-- A write of GLB_ROW_EN: each bit requests its row enabled or disabled (R160). -/
def writeRowEn (data : Word) (s : State) : State :=
  (List.range 32).foldl (fun s r => if data.toNat.testBit r then requestEnable r s else requestDisable r s) s

/-- A write of GLB_RESET_CTL (R394). -/
def writeReset (data : Word) (s : State) : State :=
  if data.toNat.testBit 31 then softReset (bits data.toNat 15 8) s else s

/-- A write of GLB_DORM_CTL (R401, R406). -/
def writeDorm (data : Word) (s : State) : State :=
  let s := dormFields data s
  let s := if data.toNat.testBit 31 then dormEnter s else s
  if data.toNat.testBit 30 then hostWake s else s

/-- A write of AUX_SENTINEL_CFG: the enables and sel, and the port of sentinel sel. -/
def writeSentinel (data : Word) (s : State) : State :=
  let i := bits data.toNat 18 16
  let s := setReg AUX_SENTINEL_CFG.reg (data &&& 0xFF070000) s
  let x := nth {} i s.aux.sentinels
  { s with aux := { s.aux with sentinels := setNth i { x with port := bits data.toNat 7 0 } s.aux.sentinels } }

/-- A write of AUX_WAKE_DATA: the word is stored while the block is active, and the word number increases. -/
def writeWakeData (data : Word) (s : State) : State :=
  let bs := leBytes 4 data.toNat
  let store := (List.range 4).foldl (fun m i => mputD 0 (wakeAddr s + i) (nth 0 i bs) m) s.aux.patterns
  let s' := if s.power.dorm = 0 then { s with aux := { s.aux with patterns := store } } else s
  nextWakeWord s'

/-- A write of AUX_CAGE_CTL of cage c: the other fields are set, and pwr_en acts (R410, R411). -/
def writeCage (c : Nat) (x : RegSpec) (data : Word) (s : State) : State :=
  let on := fget (AUX_CAGE_CTL.pwr_en c) s
  let s := fset (AUX_CAGE_CTL.pwr_en c) on (plainWrite (AUX_CAGE_CTL.reg c).off x data 0 s)
  if data.toNat.testBit 31 then powerCage c s else unpowerCage c s

/-- Writes of GLB registers. A halted block enables no row, starts no reset and enters no dormancy (R106). -/
def writeGlb (a : Nat) (x : RegSpec) (data hwSet : Word) (s : State) : State :=
  if s.power.halted && (a == GLB_ROW_EN.reg.off || a == GLB_RESET_CTL.reg.off || a == GLB_DORM_CTL.reg.off) then s
  else if a = GLB_ROW_EN.reg.off then writeRowEn data s
  else if a = GLB_RESET_CTL.reg.off then writeReset data s
  else if a = GLB_DORM_CTL.reg.off then writeDorm data s
  else if a = GLB_ERR_POP.reg.off then popErrors (bits data.toNat 6 0) s
  else if a = GLB_CLK_CTL.reg.off ∨ a = GLB_THROTTLE_CFG.reg.off then applyDivs (plainWrite a x data hwSet s)
  else plainWrite a x data hwSet s

/-- Writes of AUX registers. -/
def writeAux (a : Nat) (x : RegSpec) (data hwSet : Word) (s : State) : State :=
  if a = AUX_SENTINEL_CFG.reg.off then writeSentinel data s
  else if a = AUX_WAKE_DATA.reg.off then writeWakeData data s
  else if (AUX_CAGE_CTL.reg 0).off ≤ a ∧ a % 16 = 0 then writeCage ((a - (AUX_CAGE_CTL.reg 0).off) / 16) x data s
  else plainWrite a x data hwSet s

/-! ### Writes that act: MGT, FAB, EVT -/

/-- A write of MGT_MBOX_CMD. -/
def writeMbox (x : RegSpec) (data : Word) (s : State) : State :=
  let s := plainWrite MGT_MBOX_CMD.reg.off x data 0 s
  let part := bits data.toNat 29 27
  match bits data.toNat 31 30 with
  | 0 => s
  | 1 => mboxStore part s
  | 2 => mboxSend (bits data.toNat 7 0) s
  | _ => mboxFetch part s

/-- Writes of MGT registers. -/
def writeMgt (a : Nat) (x : RegSpec) (data hwSet : Word) (s : State) : State :=
  let t := plainWrite a x data hwSet s
  if a = MGT_CORE_CTL.reg.off then (if data.toNat.testBit 31 then haltCm t else t)
  else if a = MGT_LOAD_CTL.reg.off then (if data.toNat.testBit 31 then restartCm s else s)
  else if a = MGT_MBOX_CMD.reg.off then writeMbox x data s
  else t

/-- A write of FAB_CTX_INVAL: its fields are set, and a go acts (R42, R89, R496). -/
def writeInval (x : RegSpec) (data : Word) (s : State) : State :=
  let s := plainWrite FAB_CTX_INVAL.reg.off x data 0 s
  if data.toNat.testBit 31 then ctxInval (data.toNat.testBit 16) (data.toNat.testBit 17) (bits data.toNat 12 0) s else s

/-- A W1C bit that state holds after a write (R12): the hardware's set in the same cycle wins over the clear. -/
def afterW1c (i : Nat) (was : Bool) (data hwSet : Word) : Bool :=
  hwSet.toNat.testBit i || (was && !data.toNat.testBit i)

/-- A write of FAB_CHN_STAT: cmd_rejected of the selected channel is W1C. -/
def writeChanStat (data hwSet : Word) (s : State) : State :=
  modChan (fget FAB_CHN_SEL.channel s) (fun ch => { ch with rejected := afterW1c 5 ch.rejected data hwSet }) s

/-- A write of FAB_FUNC_STAT: q_timeout of the selected function is W1C. -/
def writeFuncStat (data hwSet : Word) (s : State) : State :=
  modFunc (fget FAB_FUNC_SEL.function s) (fun x => { x with qTimeout := afterW1c 22 x.qTimeout data hwSet }) s

/-- A write of FAB_FUNC_CTL for the selected function: adapter_mem, ignored while a channel of the function is neither
DISABLED nor STOPPED, and abandon (R370, R379). -/
def writeFuncCtl (data : Word) (s : State) : State :=
  let f := fget FAB_FUNC_SEL.function s
  let busy := s.chans.any fun e => e.2.active && e.2.ctx.func == f
  let t := if busy then s else modFunc f (fun x => { x with adapterMem := data.toNat.testBit 31 }) s
  if data.toNat.testBit 30 then abandon f t else t

/-- A write of FAB_PORT_CFG of fabric port i: en and max_tags, and restore (R366). -/
def writePortCfg (i : Nat) (x : RegSpec) (data : Word) (s : State) : State :=
  let s := plainWrite (FAB_PORT_CFG.reg i).off x data 0 s
  if data.toNat.testBit 30 then restorePort i s else s

/-- A write of EVT_INTX_CFG: func is set, and ack clears its pending interrupt (R383). -/
def writeIntx (data : Word) (s : State) : State :=
  let f := bits data.toNat 11 0
  let s := fset EVT_INTX_CFG.func f s
  if data.toNat.testBit 31 then clearIntx f s else s

/-- A write of EVT_FORCE (R385). -/
def writeForce (x : RegSpec) (data : Word) (s : State) : State :=
  if data.toNat.testBit 31 then forceEvent (bits data.toNat 11 0) (bits data.toNat 22 12) s
  else plainWrite EVT_FORCE.reg.off x data 0 s

/-- Writes of FAB and EVT registers. -/
def writeFab (a : Nat) (x : RegSpec) (data hwSet : Word) (s : State) : State :=
  if a = FAB_CHN_CTL.reg.off then chnCommand (bits data.toNat 2 0) .clean s
  else if a = FAB_CHN_STAT.reg.off then writeChanStat data hwSet s
  else if a = FAB_CTX_INVAL.reg.off then writeInval x data s
  else if a = FAB_FUNC_STAT.reg.off then writeFuncStat data hwSet s
  else if a = FAB_FUNC_CTL.reg.off then writeFuncCtl data s
  else if (FAB_PORT_CFG.reg 0).off ≤ a ∧ a < (FAB_PORT_CFG.reg 16).off then
    writePortCfg ((a - (FAB_PORT_CFG.reg 0).off) / 4) x data s
  else if a = EVT_INTX_CFG.reg.off then writeIntx data s
  else if a = EVT_FORCE.reg.off then writeForce x data s
  else plainWrite a x data hwSet s

/-! ### Writes that act: PMU, TIM, CVU -/

/-- Writes of PMU registers (R456 to R464); the window writes the counter that PMU_SEL names. -/
def writePmu (a : Nat) (x : RegSpec) (data hwSet : Word) (s : State) : State :=
  if a = PMU_CTL.reg.off then
    let s := plainWrite a x data hwSet s
    if data.toNat.testBit 30 then freeze 0 s else s
  else if a = PMU_SAMPLE_CFG.reg.off then sampleCfg data s
  else if a = PMU_EVT_CFG.reg.off then winWrite .evt data s
  else if a = PMU_FILT_A.reg.off then winWrite .filtA data s
  else if a = PMU_FILT_B.reg.off then winWrite .filtB data s
  else plainWrite a x data hwSet s

/-- Writes of TIM registers: the four time registers are held for a load (R343), and load, step and arm act (R344,
R356). -/
def writeTim (a : Nat) (x : RegSpec) (data hwSet : Word) (s : State) : State :=
  if a = TIM_CTL.reg.off then (if data.toNat.testBit 31 then timeLoad s else s)
  else if a = TIM_SEC_HI.reg.off then { s with time := { s.time with heldHi := data &&& x.rw } }
  else if a = TIM_SEC_LO.reg.off then { s with time := { s.time with heldLo := data &&& x.rw } }
  else if a = TIM_NS.reg.off then { s with time := { s.time with heldNs := data &&& x.rw } }
  else if a = TIM_FRAC.reg.off then { s with time := { s.time with heldFrac := data &&& x.rw } }
  else if a = TIM_ADJ_CTL.reg.off then
    (if data.toNat.testBit 31 then timeStep (data.toNat.testBit 30) s
     else fset TIM_ADJ_CTL.neg (bits data.toNat 30 30) s)
  else if a = TIM_INCR.reg.off then timeIncr (data &&& x.rw) s
  else if a = TIM_TRIG_NS.reg.off then writeTrigger data s
  else plainWrite a x data hwSet s

/-- Writes of CVU registers (R340). -/
def writeCvu (a : Nat) (x : RegSpec) (data hwSet : Word) (s : State) : State :=
  if a = CVU_TEST_CTL.reg.off then cvuTestCtl data s
  else if a = CVU_TEST_DATA.reg.off then cvuTestData data s
  else plainWrite a x data hwSet s

/-- Writes of TBL registers (R240, R251). -/
def writeTbl (a : Nat) (x : RegSpec) (data hwSet : Word) (s : State) : State :=
  if a = TBL_CTL.reg.off then tableCtl data s
  else if a = TBL_CMD_DB.reg.off then (if ringServed s then readCmdProd s else s)
  else if a = TBL_LEARN_CFG.reg.off then learnCfg data s
  else plainWrite a x data hwSet s

/-- Writes of CEL registers: with a limit_us of 0 the wait of every frame that cannot be assigned at once has reached its
limit (R191). -/
def writeCel (a : Nat) (x : RegSpec) (data hwSet : Word) (s : State) : State :=
  let s := plainWrite a x data hwSet s
  if a = CEL_WAIT_LIMIT.reg.off then s.chans.foldl (fun s e => fetchRx e.1 s) s else s

/-! ### Writes that act: PRS, ROW, PRT -/

/-- A write of PRS_CFG of press k, ignored when it would take the last lane out of service. While that lane is kept in
service with its lane_err at 1, a write that leaves it so takes effect (R201). -/
def writePrsCfg (k : Nat) (x : RegSpec) (data : Word) (s : State) : State :=
  let dis := bits data.toNat 23 16
  if dis ||| fget (PRS_LANE_STAT.lane_err k) s = 0xFF ∧ dis ||| (press k s).lanesOut = 0xFF then s
  else refreshLanes k (plainWrite (PRS_CFG.reg k).off x data 0 s)

/-- A write of PRS_LANE_STAT of press k: lanes whose error bit is cleared return (R201), and a bit that the hardware
sets in the same cycle reads 1 (R12). -/
def writeLaneStat (k : Nat) (data hwSet : Word) (s : State) : State :=
  let e := PRS_LANE_STAT.lane_err k
  refreshLanes k (fset e (fget e (clearLaneErr k (e.read data) s) ||| e.read hwSet) s)

/-- A write of PRS_LPM_CFG of press k: an enable is ignored while the zone table is not valid (R264). -/
def writeLpmCfg (k : Nat) (data : Word) (s : State) : State :=
  let ok := zonesValid (replica k s)
  let on := fun (f : Fld) => b2n (f.read data = 1 && (ok || fbit f s))
  fset (PRS_LPM_CFG.v4_en k) (on (PRS_LPM_CFG.v4_en k)) (fset (PRS_LPM_CFG.v6_en k) (on (PRS_LPM_CFG.v6_en k)) s)

/-- Holds a value for the selected policer of press k until its commit (R293). -/
def holdPolicer (k : Nat) (f : Word × Word × Word × Word → Word × Word × Word × Word) (s : State) : State :=
  let h := f (polHeld k s)
  modPress k (fun p => { p with polHeld := some h }) s

/-- Writes of PRS registers of press k. Those of the parser and of classification apply to copies dealt from the next DCLK
cycle on (R220, R296). -/
def writePrs (k a : Nat) (x : RegSpec) (data hwSet : Word) (s : State) : State :=
  if a = (PRS_CFG.reg k).off then writePrsCfg k x data s
  else if a = (PRS_LANE_STAT.reg k).off then writeLaneStat k data hwSet s
  else if a = (PRS_LPM_CFG.reg k).off then writeLpmCfg k data (keepCfg k s)
  else if a = (PRS_POL_SEL.reg k).off then selectPolicer k data s
  else if a = (PRS_POL_CIR.reg k).off then holdPolicer k (fun h => (data, h.2)) s
  else if a = (PRS_POL_PIR.reg k).off then holdPolicer k (fun h => (h.1, data, h.2.2)) s
  else if a = (PRS_POL_CBS.reg k).off then holdPolicer k (fun h => (h.1, h.2.1, data &&& x.rw, h.2.2.2)) s
  else if a = (PRS_POL_PBS.reg k).off then holdPolicer k (fun h => (h.1, h.2.1, h.2.2.1, data &&& x.rw)) s
  else if a = (PRS_POL_CTL.reg k).off then commitPolicer k data s
  else plainWrite a x data hwSet (keepCfg k s)

/-- A write of ROW_TWIN_CFG of row r: while twin_en is 1, only twin_en is taken. -/
def writeTwin (r : Nat) (x : RegSpec) (data : Word) (s : State) : State :=
  if fbit (ROW_TWIN_CFG.twin_en r) s then fset (ROW_TWIN_CFG.twin_en r) (bits data.toNat 31 31) s
  else plainWrite (ROW_TWIN_CFG.reg r).off x data 0 s

/-- Writes of ROW registers of row r. -/
def writeRow (r a : Nat) (x : RegSpec) (data hwSet : Word) (s : State) : State :=
  if a = (ROW_CFG.reg r).off then writeRowCfg r data s
  else if a = (ROW_CAL_CFG.reg r).off then writeCalCfg r (data.toNat.testBit 0) s
  else if a = (ROW_TWIN_CFG.reg r).off then writeTwin r x data s
  else if a = (ROW_GATE_LOAD.reg r).off then gateLoad r data hwSet s
  else plainWrite a x data hwSet s

/-- A write of PRT_MAC_CFG of port g: when the port can send again, frames for asserted priorities are due (R185); a
change of loopback changes the fault state (R154). -/
def writeMacCfg (g : Nat) (x : RegSpec) (data : Word) (s : State) : State :=
  let was := fbit (PRT_MAC_CFG.tx_en g) s
  let s := plainWrite (PRT_MAC_CFG.reg g).off x data 0 s
  let s := if !was && fbit (PRT_MAC_CFG.tx_en g) s && (port g s).linkUp then redueXoff g s else s
  evalLink g s

/-- A write of PRT_GATE_CFG of port g; commit and cancel together are both ignored (R310, R312, R319). -/
def writeGateCfg (g : Nat) (x : RegSpec) (data : Word) (s : State) : State :=
  let was := gated g s
  let s := plainWrite (PRT_GATE_CFG.reg g).off x data 0 s
  let s := if gated g s != was then noteOverrun g s else s
  match data.toNat.testBit 30, data.toNat.testBit 29 with
  | true, false => gateCommit g s
  | false, true => gateCancel g s
  | _, _ => s

/-- Writes of PRT registers of port g. -/
def writePrt (g a : Nat) (x : RegSpec) (data hwSet : Word) (s : State) : State :=
  if a = (PRT_MAC_CFG.reg g).off then writeMacCfg g x data s
  else if a = (PRT_GATE_CFG.reg g).off then writeGateCfg g x data s
  else plainWrite a x data hwSet s

/-! ### The whole window -/

/-- Whether a write is ignored in the state of the block. -/
def locked (a : Nat) (s : State) : Bool :=
  if 0x200000 ≤ a then rowLocked ((a - 0x200000) / 0x4000) ((a - 0x200000) % 0x4000) s else configLocked a s

/-- A write of an assigned register that is not half of a pair (decode of R470). -/
def writeOne (a : Nat) (x : RegSpec) (data hwSet : Word) (s : State) : State :=
  match a / 0x10000 with
  | 0 => writeGlb a x data hwSet s
  | 1 => writeMgt a x data hwSet s
  | 2 | 3 => writeFab a x data hwSet s
  | 4 => writePmu a x data hwSet s
  | 5 => writeTim a x data hwSet s
  | 6 => writeCvu a x data hwSet s
  | 7 => writeCel a x data hwSet s
  | 8 => writeTbl a x data hwSet s
  | 9 => writeAux a x data hwSet s
  | n =>
    if n < 0x10 then plainWrite a x data hwSet s
    else if n < 0x20 then writePrs (n - 0x10) a x data hwSet s
    else
      let r := (a - 0x200000) / 0x4000
      let o := (a - 0x200000) % 0x4000
      if o < 0x800 then writeRow r a x data hwSet s else writePrt (8 * r + (o - 0x800) / 0x400) a x data hwSet s

/-- A write of a low register is held until its high register is written (R10). -/
def holdLow (a : Nat) (data : Word) (s : State) : State := { s with pairHeld := mput a data s.pairHeld }

/-- A write of a high register commits it with the held low value (R10, R458). With no low half held, the high half is
committed alone (DESIGN CHOICE, log entry 11: R10 has software write _LO first and gives no effect to a _HI write
before it). -/
def commitPair (a events : Nat) (x : RegSpec) (data : Word) (s : State) : State :=
  let held := mget (a - 4) s.pairHeld
  let s := { s with pairHeld := merase (a - 4) s.pairHeld }
  if a = PMU_VAL_HI.reg.off then
    let lo := held.getD ((winValue s).setWidth 32)
    winSet (BitVec.ofNat 64 (lo.toNat + (data &&& x.rw).toNat * 2 ^ 32)) events s
  else if a = PMU_PRELOAD_HI.reg.off then
    let s := match held with
      | some lo => winWrite .preLo lo s
      | none => s
    winWrite .preHi data s
  else
    let s := match held, findSpec (a - 4) with
      | some lo, some y => plainWrite (a - 4) y lo 0 s
      | _, _ => s
    plainWrite a x data 0 s

/-- A write of the register window, with the W1C bits that the hardware sets in the same cycle, and the events of the
counter in the same cycle as a write of its value. -/
def writeReg (a be : Nat) (data hwSet : Word) (events : Nat) (s : State) : State :=
  match accessed a be s with
  | none => s
  | some x =>
    if locked a s then s
    else if x.isLow then holdLow a data s
    else if x.isHigh then commitPair a events x data s
    else writeOne a x data hwSet s

/-- REGISTER_WRITE (R11, R12). -/
def execRegisterWrite (addr : BitVec 22) (be : BitVec 4) (data hwSet : Word) (s : State) :
    Host.Outcome State Fault Refusal :=
  let s := portTurn s
  if (accessed addr.toNat be.toNat s).isSome then .next (settle (writeReg addr.toNat be.toNat data hwSet 0 s))
  else .next s

/-- RC_FIELD_READ (R11, R12). -/
def execRcFieldRead (addr : BitVec 22) (be : BitVec 4) (events : BitVec 8) (s : State) :
    Host.Outcome State Fault Refusal := .next (readReg addr.toNat be.toNat events.toNat (portTurn s))

/-- PAIR_LO_READ (R10). -/
def execPairLoRead (addr : BitVec 22) (be : BitVec 4) (s : State) : Host.Outcome State Fault Refusal :=
  .next (readReg addr.toNat be.toNat 0 (portTurn s))

/-- PAIR_HI_WRITE (R10, R458). -/
def execPairHiWrite (addr : BitVec 22) (be : BitVec 4) (data : Word) (events : BitVec 8) (s : State) :
    Host.Outcome State Fault Refusal :=
  let s := portTurn s
  if (accessed addr.toNat be.toNat s).isSome then .next (settle (writeReg addr.toNat be.toNat data 0 events.toNat s))
  else .next s

/-! ### Doorbells (R54 to R57, R477) -/

/-- The write of a doorbell window address rings the doorbell at page offset off of a RUNNING channel; that of another
channel is counted and ignored (R56). -/
def ringBell (off : Nat) (read : Nat → State → State) (a : Nat) (s : State) : State :=
  if a % 0x1000 != off || !fbit FAB_DB_CFG.db_en s then s
  else
    let c := a / 0x1000
    if (chan c s).state == .running then read c (count .fabric 0x10 1 (chanAttr c s) s)
    else fadd FAB_DB_CFG.db_drop_cnt 1 (count .fabric 0x11 1 (chanAttr c s) s)

/-- TRANSMIT_DOORBELL: a write of 4 or 8 bytes whose first byte lies at addr. -/
def execTransmitDoorbell (addr : BitVec 25) (_wide : Bool) (s : State) : Host.Outcome State Fault Refusal :=
  if live s then .next (settle (ringBell 0 (fun c s => readTxProd c (began s) s) addr.toNat s)) else .next s

/-- RECEIVE_DOORBELL. -/
def execReceiveDoorbell (addr : BitVec 25) (_wide : Bool) (s : State) : Host.Outcome State Fault Refusal :=
  if live s then .next (settle (ringBell 8 readRxProd addr.toNat s)) else .next s

/-- POLL_INTERVAL: the poll interval of a RUNNING channel passes since the end of its last index read (R57). -/
def execPollInterval (c : BitVec 13) (s : State) : Host.Outcome State Fault Refusal :=
  let ch := chan c.toNat s
  if live s && ch.state == .running && fbit FAB_DB_CFG.poll_en s && ch.ctx.pollK ≤ 22
      && !ch.tx.idxOut && !ch.rx.idxOut then
    .next (settle (readRxProd c.toNat (readTxProd c.toNat (began s) s)))
  else .next s

/-! ### Channel commands (R82, R87, R90) -/

/-- START: the command for the channel in FAB_CHN_SEL; book says how the retention memory answers the read of its state
(R99, R420). -/
def execStart (book : BookRead) (s : State) : Host.Outcome State Fault Refusal :=
  if regLive s then .next (settle (chnCommand 1 book s)) else .next s

/-- START_FRESH. -/
def execStartFresh (book : BookRead) (s : State) : Host.Outcome State Fault Refusal :=
  if regLive s then .next (settle (chnCommand 4 book s)) else .next s

/-- STOP. -/
def execStop (s : State) : Host.Outcome State Fault Refusal :=
  if regLive s then .next (settle (chnCommand 2 .clean s)) else .next s

/-- RESET. -/
def execReset (s : State) : Host.Outcome State Fault Refusal :=
  if regLive s then .next (settle (chnCommand 3 .clean s)) else .next s

/-- CHN_CMD_INVALID: a command code written to FAB_CHN_CTL, rejected when it is 5 to 7 or not allowed in the state. -/
def execChnCmdInvalid (cmd : BitVec 3) (s : State) : Host.Outcome State Fault Refusal :=
  if regLive s then .next (settle (chnCommand cmd.toNat .clean s)) else .next s

/-! ### Context invalidation (R42, R89) -/

/-- The fields of FAB_CTX_INVAL written with a go. -/
def invalFields (kind reset index : Nat) (s : State) : State :=
  fset FAB_CTX_INVAL.kind kind (fset FAB_CTX_INVAL.ring_reset reset (fset FAB_CTX_INVAL.index index s))

/-- CTX_INVAL_CHANNEL. -/
def execCtxInvalChannel (c : BitVec 13) (s : State) : Host.Outcome State Fault Refusal :=
  if regLive s then .next (settle (ctxInval false false c.toNat (invalFields 0 0 c.toNat s))) else .next s

/-- CTX_INVAL_CRING. -/
def execCtxInvalCring (n : BitVec 12) (s : State) : Host.Outcome State Fault Refusal :=
  if regLive s then .next (settle (ctxInval true false n.toNat (invalFields 1 0 n.toNat s))) else .next s

/-- RING_RESET. -/
def execRingReset (n : BitVec 12) (s : State) : Host.Outcome State Fault Refusal :=
  if regLive s then .next (settle (ctxInval true true n.toNat (invalFields 1 1 n.toNat s))) else .next s

end Sys2Proof.Machine
end

