-- ==== Sys2Proof/Machine/Dispatch.lean ====
section
/-!
DEFINITION. The dispatch of commands: one arm for each constructor of Instr, in the order of spec/opcode_table.json.
-/

namespace Sys2Proof.Machine

/-- The effect of a command on everything but the queue. -/
def exec (i : Instr) (s : State) : Host.Outcome State Fault Refusal :=
  match i with
  | .registerWrite addr be data hwSet => Sys2Proof.Machine.execRegisterWrite addr be data hwSet s
  | .rcFieldRead addr be events => Sys2Proof.Machine.execRcFieldRead addr be events s
  | .pairLoRead addr be => Sys2Proof.Machine.execPairLoRead addr be s
  | .pairHiWrite addr be data events => Sys2Proof.Machine.execPairHiWrite addr be data events s
  | .transmitDoorbell addr wide => Sys2Proof.Machine.execTransmitDoorbell addr wide s
  | .receiveDoorbell addr wide => Sys2Proof.Machine.execReceiveDoorbell addr wide s
  | .pollInterval chan => Sys2Proof.Machine.execPollInterval chan s
  | .start book => Sys2Proof.Machine.execStart book s
  | .startFresh book => Sys2Proof.Machine.execStartFresh book s
  | .stop => Sys2Proof.Machine.execStop s
  | .reset => Sys2Proof.Machine.execReset s
  | .chnCmdInvalid cmd => Sys2Proof.Machine.execChnCmdInvalid cmd s
  | .contextReadComplete req resp => Sys2Proof.Machine.execContextReadComplete req resp s
  | .ctxInvalChannel chan => Sys2Proof.Machine.execCtxInvalChannel chan s
  | .ctxInvalCring ring => Sys2Proof.Machine.execCtxInvalCring ring s
  | .ringReset ring => Sys2Proof.Machine.execRingReset ring s
  | .ctxInvalReadComplete req resp => Sys2Proof.Machine.execCtxInvalReadComplete req resp s
  | .indexBlockReadComplete req resp => Sys2Proof.Machine.execIndexBlockReadComplete req resp s
  | .descriptorReadComplete req resp => Sys2Proof.Machine.execDescriptorReadComplete req resp s
  | .txDataReadComplete req resp cv => Sys2Proof.Machine.execTxDataReadComplete req resp cv s
  | .chainStage => Sys2Proof.Machine.execChainStage s
  | .chainSettle chan => Sys2Proof.Machine.execChainSettle chan s
  | .frameReceive port rx => Sys2Proof.Machine.execFrameReceive port rx s
  | .miiWordError row port => Sys2Proof.Machine.execMiiWordError row port s
  | .dealHeaderCopies press => Sys2Proof.Machine.execDealHeaderCopies press s
  | .laneResult press seq lane latency tbl cell => Sys2Proof.Machine.execLaneResult press seq lane latency tbl cell s
  | .reorderTimeout press seq => Sys2Proof.Machine.execReorderTimeout press seq s
  | .laneErrClear press lanes => Sys2Proof.Machine.execLaneErrClear press lanes s
  | .schedulerDecision port => Sys2Proof.Machine.execSchedulerDecision port s
  | .txStaged port cell => Sys2Proof.Machine.execTxStaged port cell s
  | .frameTransmitEnd port cut => Sys2Proof.Machine.execFrameTransmitEnd port cut s
  | .pauseFrameTransmit port => Sys2Proof.Machine.execPauseFrameTransmit port s
  | .pauseRefreshTimer port prio => Sys2Proof.Machine.execPauseRefreshTimer port prio s
  | .pauseTimerExpiry port timer => Sys2Proof.Machine.execPauseTimerExpiry port timer s
  | .rxWaitLimit chan frame => Sys2Proof.Machine.execRxWaitLimit chan frame s
  | .receiveAssign chan cell cv => Sys2Proof.Machine.execReceiveAssign chan cell cv s
  | .fabricWriteAck req err => Sys2Proof.Machine.execFabricWriteAck req err s
  | .consIndexReadComplete req resp => Sys2Proof.Machine.execConsIndexReadComplete req resp s
  | .stallRereadTimer ring => Sys2Proof.Machine.execStallRereadTimer ring s
  | .stallAlertTimer ring => Sys2Proof.Machine.execStallAlertTimer ring s
  | .moderationTimer ring => Sys2Proof.Machine.execModerationTimer ring s
  | .resetDrainTimeout chan => Sys2Proof.Machine.execResetDrainTimeout chan s
  | .lateCompletion req => Sys2Proof.Machine.execLateCompletion req s
  | .linkFaultChange port fault => Sys2Proof.Machine.execLinkFaultChange port fault s
  | .linkHoldTimer port => Sys2Proof.Machine.execLinkHoldTimer port s
  | .lpiIdleTimer port => Sys2Proof.Machine.execLpiIdleTimer port s
  | .lpiWakeEnd port => Sys2Proof.Machine.execLpiWakeEnd port s
  | .receiveLpi port on => Sys2Proof.Machine.execReceiveLpi port on s
  | .rowEnableRequest row => Sys2Proof.Machine.execRowEnableRequest row s
  | .rowDisableRequest row => Sys2Proof.Machine.execRowDisableRequest row s
  | .rowEnabled row => Sys2Proof.Machine.execRowEnabled row s
  | .rowDisabled row => Sys2Proof.Machine.execRowDisabled row s
  | .rowCfgWrite row data => Sys2Proof.Machine.execRowCfgWrite row data s
  | .calendarManualClear row => Sys2Proof.Machine.execCalendarManualClear row s
  | .spareCopyComplete corrected bad => Sys2Proof.Machine.execSpareCopyComplete corrected bad s
  | .twinRecoveryReset row => Sys2Proof.Machine.execTwinRecoveryReset row s
  | .throttleWindowEnd press => Sys2Proof.Machine.execThrottleWindowEnd press s
  | .pressClockSwitch press => Sys2Proof.Machine.execPressClockSwitch press s
  | .slowWindowEnd press => Sys2Proof.Machine.execSlowWindowEnd press s
  | .powerOnReset book => Sys2Proof.Machine.execPowerOnReset book s
  | .powerFailWarning => Sys2Proof.Machine.execPowerFailWarning s
  | .drainComplete => Sys2Proof.Machine.execDrainComplete s
  | .supplyLoss supply level rclk => Sys2Proof.Machine.execSupplyLoss supply level rclk s
  | .vauxLoss => Sys2Proof.Machine.execVauxLoss s
  | .vauxRestore => Sys2Proof.Machine.execVauxRestore s
  | .softReset key => Sys2Proof.Machine.execSoftReset key s
  | .tableCommandDoorbell => Sys2Proof.Machine.execTableCommandDoorbell s
  | .tableCmdReadComplete req resp => Sys2Proof.Machine.execTableCmdReadComplete req resp s
  | .lock post => Sys2Proof.Machine.execLock post s
  | .unlock post => Sys2Proof.Machine.execUnlock post s
  | .tblRead post => Sys2Proof.Machine.execTblRead post s
  | .tblWrite post => Sys2Proof.Machine.execTblWrite post s
  | .tblDelete post => Sys2Proof.Machine.execTblDelete post s
  | .zoneMove post => Sys2Proof.Machine.execZoneMove post s
  | .zoneMoveDone => Sys2Proof.Machine.execZoneMoveDone s
  | .replicaCopy post => Sys2Proof.Machine.execReplicaCopy post s
  | .replicaCopyDone => Sys2Proof.Machine.execReplicaCopyDone s
  | .ageSweep post => Sys2Proof.Machine.execAgeSweep post s
  | .ageSweepDone => Sys2Proof.Machine.execAgeSweepDone s
  | .dump post => Sys2Proof.Machine.execDump post s
  | .lockTimeout slot => Sys2Proof.Machine.execLockTimeout slot s
  | .ageTick => Sys2Proof.Machine.execAgeTick s
  | .learnFilterHoldoff press fd mac => Sys2Proof.Machine.execLearnFilterHoldoff press fd mac s
  | .learnProdTimer => Sys2Proof.Machine.execLearnProdTimer s
  | .learnConsReadComplete req resp => Sys2Proof.Machine.execLearnConsReadComplete req resp s
  | .policerCommit press data => Sys2Proof.Machine.execPolicerCommit press data s
  | .policerSelect press data => Sys2Proof.Machine.execPolicerSelect press data s
  | .gateListLoad row data => Sys2Proof.Machine.execGateListLoad row data s
  | .gateLoadComplete row resp => Sys2Proof.Machine.execGateLoadComplete row resp s
  | .gateCommit port => Sys2Proof.Machine.execGateCommit port s
  | .gateCancel port => Sys2Proof.Machine.execGateCancel port s
  | .gateListSwitch port => Sys2Proof.Machine.execGateListSwitch port s
  | .gateEntryChange port => Sys2Proof.Machine.execGateEntryChange port s
  | .cvuTestStart data => Sys2Proof.Machine.execCvuTestStart data s
  | .cvuTestData data => Sys2Proof.Machine.execCvuTestData data s
  | .cvlogProdTimer chan => Sys2Proof.Machine.execCvlogProdTimer chan s
  | .logSlotReread chan => Sys2Proof.Machine.execLogSlotReread chan s
  | .cvlogConsReadComplete req resp => Sys2Proof.Machine.execCvlogConsReadComplete req resp s
  | .timeIncrWrite data => Sys2Proof.Machine.execTimeIncrWrite data s
  | .timeCaptureRead => Sys2Proof.Machine.execTimeCaptureRead s
  | .timeLoad => Sys2Proof.Machine.execTimeLoad s
  | .timeStep neg => Sys2Proof.Machine.execTimeStep neg s
  | .ppsInEdge falling => Sys2Proof.Machine.execPpsInEdge falling s
  | .captureRead => Sys2Proof.Machine.execCaptureRead s
  | .ppsOutPulse => Sys2Proof.Machine.execPpsOutPulse s
  | .ppsWidthEnd => Sys2Proof.Machine.execPpsWidthEnd s
  | .triggerArm data => Sys2Proof.Machine.execTriggerArm data s
  | .triggerFire => Sys2Proof.Machine.execTriggerFire s
  | .triggerWidthEnd => Sys2Proof.Machine.execTriggerWidthEnd s
  | .readTimeout req => Sys2Proof.Machine.execReadTimeout req s
  | .writeTimeout req => Sys2Proof.Machine.execWriteTimeout req s
  | .quarantineExpiry req => Sys2Proof.Machine.execQuarantineExpiry req s
  | .writeHoldExpiry req => Sys2Proof.Machine.execWriteHoldExpiry req s
  | .fabricPortIerr port high => Sys2Proof.Machine.execFabricPortIerr port high s
  | .fabricPortRestore port => Sys2Proof.Machine.execFabricPortRestore port s
  | .functionStateUpdate func fsState => Sys2Proof.Machine.execFunctionStateUpdate func fsState s
  | .hostLinkChange up => Sys2Proof.Machine.execHostLinkChange up s
  | .quiesceDrainTimeout func => Sys2Proof.Machine.execQuiesceDrainTimeout func s
  | .functionAbandon => Sys2Proof.Machine.execFunctionAbandon s
  | .eventEmit ready => Sys2Proof.Machine.execEventEmit ready s
  | .intxAck func fold => Sys2Proof.Machine.execIntxAck func fold s
  | .eventForce func vector => Sys2Proof.Machine.execEventForce func vector s
  | .blockEventGap source => Sys2Proof.Machine.execBlockEventGap source s
  | .dormancyEnter data => Sys2Proof.Machine.execDormancyEnter data s
  | .dormancyQuiesceEnd => Sys2Proof.Machine.execDormancyQuiesceEnd s
  | .hostWake => Sys2Proof.Machine.execHostWake s
  | .wakeTimer => Sys2Proof.Machine.execWakeTimer s
  | .wakeVddsReturn => Sys2Proof.Machine.execWakeVddsReturn s
  | .sentinelFrame port rx => Sys2Proof.Machine.execSentinelFrame port rx s
  | .patternMatch sentinel => Sys2Proof.Machine.execPatternMatch sentinel s
  | .cagePresenceChange cage present => Sys2Proof.Machine.execCagePresenceChange cage present s
  | .cagePowerEnable cage => Sys2Proof.Machine.execCagePowerEnable cage s
  | .cagePowerDisable cage => Sys2Proof.Machine.execCagePowerDisable cage s
  | .cagePowerGood cage => Sys2Proof.Machine.execCagePowerGood cage s
  | .cagePgTimeout cage => Sys2Proof.Machine.execCagePgTimeout cage s
  | .cagePowerFault cage asserted => Sys2Proof.Machine.execCagePowerFault cage asserted s
  | .cagePowerGoodLost cage => Sys2Proof.Machine.execCagePowerGoodLost cage s
  | .cageButton cage => Sys2Proof.Machine.execCageButton cage s
  | .errorPop n => Sys2Proof.Machine.execErrorPop n s
  | .rack source cause => Sys2Proof.Machine.execRack source cause s
  | .rackPrepareTest => Sys2Proof.Machine.execRackPrepareTest s
  | .rackPrepareTimeout => Sys2Proof.Machine.execRackPrepareTimeout s
  | .rackHandover => Sys2Proof.Machine.execRackHandover s
  | .rackCutoverEnd tenths => Sys2Proof.Machine.execRackCutoverEnd tenths s
  | .abortRack => Sys2Proof.Machine.execAbortRack s
  | .setLearnMode mode => Sys2Proof.Machine.execSetLearnMode mode s
  | .spareBank bank => Sys2Proof.Machine.execSpareBank bank s
  | .retireKey slot => Sys2Proof.Machine.execRetireKey slot s
  | .counterReset sameCycle => Sys2Proof.Machine.execCounterReset sameCycle s
  | .restorePress press => Sys2Proof.Machine.execRestorePress press s
  | .activateFw sid digest => Sys2Proof.Machine.execActivateFw sid digest s
  | .fwVerifyDone image => Sys2Proof.Machine.execFwVerifyDone image s
  | .fwLoadDone image => Sys2Proof.Machine.execFwLoadDone image s
  | .watchdogExpiry thread => Sys2Proof.Machine.execWatchdogExpiry thread s
  | .cmRestart => Sys2Proof.Machine.execCmRestart s
  | .cmHalt => Sys2Proof.Machine.execCmHalt s
  | .cmSlowPathEnd how cell => Sys2Proof.Machine.execCmSlowPathEnd how cell s
  | .retentionSpareDone => Sys2Proof.Machine.execRetentionSpareDone s
  | .openReq path => Sys2Proof.Machine.execOpenReq path s
  | .proof path => Sys2Proof.Machine.execProof path s
  | .command path => Sys2Proof.Machine.execCommand path s
  | .close path => Sys2Proof.Machine.execClose path s
  | .challengeTimeout sid => Sys2Proof.Machine.execChallengeTimeout sid s
  | .sessionIdleTimeout sid => Sys2Proof.Machine.execSessionIdleTimeout sid s
  | .keyLockoutEnd slot => Sys2Proof.Machine.execKeyLockoutEnd slot s
  | .mboxStorePart part => Sys2Proof.Machine.execMboxStorePart part s
  | .mboxSend len => Sys2Proof.Machine.execMboxSend len s
  | .mboxFetchPart part => Sys2Proof.Machine.execMboxFetchPart part s
  | .keyWord slot word data => Sys2Proof.Machine.execKeyWord slot word data s
  | .keyCommit slot => Sys2Proof.Machine.execKeyCommit slot s
  | .keyLock => Sys2Proof.Machine.execKeyLock s
  | .snapshotTrigger => Sys2Proof.Machine.execSnapshotTrigger s
  | .snapshotInterval => Sys2Proof.Machine.execSnapshotInterval s
  | .powerOnResetAssert => Sys2Proof.Machine.execPowerOnResetAssert s
  | .sampleProdTimer => Sys2Proof.Machine.execSampleProdTimer s
  | .sampleConsReadComplete req resp => Sys2Proof.Machine.execSampleConsReadComplete req resp s
  | .pressSelfTestDone press pass => Sys2Proof.Machine.execPressSelfTestDone press pass s
  | .pressLogicFault press => Sys2Proof.Machine.execPressLogicFault press s
  | .localSramUncorrectable inCode => Sys2Proof.Machine.execLocalSramUncorrectable inCode s

end Sys2Proof.Machine
end

