-- ==== Sys2Proof/Machine/Tick.lean ====
section
/-!
DEFINITION. What happens in a DCLK cycle whatever is commanded: the PTP clock at its edges (R341), the slot classes and
counter 720 (R451, R459), the window of slow-unit detection, outstanding reads (R454), and the clock of the
cellarmaster (R437, R454).
-/

namespace Sys2Proof.Machine

/-- Press k classifies its 8 lanes (R459), for its counters and for its slow window. -/
def slotCycle (k : Nat) (s : State) : State :=
  let p := press k s
  let t := min 8 p.taken.length
  let waits := !p.waiting.isEmpty
  let s := setPress k { p with taken := [], winCycles := p.winCycles + 1, winWaiting := p.winWaiting + b2n waits,
                               winDelivered := p.winDelivered + t } s
  let s := addCount (slotCounter k 0) t false s
  let s := addCount (slotCounter k (if waits then 3 else 2)) (8 - t) false s
  count (.press k) (if waits then 0x33 else 0x32) (8 - t) { filtered := false }
    (count (.press k) 0x30 t { filtered := false } s)

/-- Reads outstanding, counted for each fabric port (R450, R454). -/
def countReads (s : State) : State :=
  (List.range 16).foldl (fun s i =>
    if readsOut i s = 0 then s else count .fabric 0x0A (readsOut i s) { filtered := false, port := some i } s) s

/-- An MCLK edge of the cellarmaster: threads that stop for an activation have stopped, the load pass reads the image,
and a restart is over (R438, R440). -/
def cmCycle (s : State) : State :=
  let s := if cmRuns s then
      count .global 0x07 1 { priv := 2 } { s with cm := { s.cm with winRan := true } }
    else s
  let s := { s with cm := { s.cm with restarting := false } }
  if s.cm.state = 4 then settle (startPass { s with cm := { s.cm with state := 2 } }) else s

/-- A 1 ms window of load ends (R437); the busiest thread's share is a free value of at most 100, and 0 where no
thread has run. -/
def loadWindow (s : State) : State :=
  let busy := if s.cm.winRan then min 100 (Sys2Proof.Config.busyPct s.freeCount).toNat else 0
  let s := fset MGT_LOAD_IND.overload (b2n s.cm.winDrop) (fset MGT_LOAD_IND.busy_pct busy
    (fset MGT_LOAD_IND.cmd_depth s.cm.winCmd (fset MGT_LOAD_IND.sp_depth s.cm.winSlow s)))
  { s with freeCount := s.freeCount + 1,
           cm := { s.cm with
             winSlow := s.cm.slowQ.length, winCmd := s.engine.cmQ.length, winDrop := false, winRan := false } }

/-- What the end of a DCLK cycle brings to the ports: a port whose idle time has expired enters LPI (R156), and pause timers
that were loaded start to run (R190). -/
def portsEnd (s : State) : State :=
  (s.ports.filter fun e => e.2.lpiDue || !e.2.loads.isEmpty).foldl (fun s e =>
    modPort e.1 Port.takeLoads (enterLpi e.1 s)) s

/-- What the end of a DCLK cycle brings: slots and reads are counted (R459, R454), the presses look at their backlog
(R399), what arrived is admitted after the frees of the cycle, every xoff state is evaluated once (R177), and idle ports
rest. -/
def cycleEnd (s : State) : State :=
  let s := countReads ((List.range 5).foldl (fun s k => slotCycle k s) (addCount 720 1 false s))
  let s := (List.range 5).foldl (fun s k => backlogCheck k s) s
  settle (portsEnd (evalXoff (admitArrivals s)))

/-- What the beginning of a DCLK cycle brings: results that the limit of 8 held back retire (R197), and the slower clocks
have their edges. -/
def cycleStart (s : State) : State :=
  let s := settle ((List.range 5).foldl (fun s k => retireCycle k s) s)
  let s := if s.time.dclk % 4 = 0 then cmCycle s else s
  if s.time.dclk % 1600000 = 0 then loadWindow s else s

/-- A DCLK cycle ends and the next begins: the clocks stand while power-on reset is held and while the block is halted; in
dormancy only PTP time runs (R402, R403, R452). -/
def tick (s : State) : State :=
  if !clockRuns s then s
  else
    let s := if live s then cycleEnd s else s
    let s := { s with time := { s.time with dclk := s.time.dclk + 1 }, replicasOld := []
                      pmu := { s.pmu with edge := none, ovfNow := [] } }
    let s := if s.time.dclk % 2 = 0 then sclkEdge s else afterEdge s
    if live s then cycleStart s else s

/-- The cycle of row_round on which row r stands, which is held at 0 unless the row is enabled or disabling (R132, R162,
R483). -/
def rowRound (r : Nat) (s : State) : Nat := if rowTakes r s then (s.time.dclk - (row r s).roundAt) % 8 else 0

end Sys2Proof.Machine
end

