-- ==== Sys2Proof/Machine/Step.lean ====
section
/-!
DEFINITION. One step: the command at the front of the queue, or one DCLK cycle when the queue is empty.
-/

namespace Sys2Proof.Machine

/-- The command at the front of the queue takes effect on the state with the queue's rest; with an empty queue a DCLK
cycle passes. -/
def step (s : State) : Host.Outcome State Fault Refusal :=
  match s.pending with
  | [] => .next (tick s)
  | c :: rest => exec c { s with pending := rest }

/-- The state with the command that a word spells put in front of its queue: spec/opcode_table.json gives no row any bits,
so no word spells a command. -/
def State.withFetchWord (s : State) (_nbits _w : Nat) : State := s

end Sys2Proof.Machine
end

