-- ==== Sys2Proof/WellFormed.lean ====
section
/-!
DEFINITION. Which commands the spec lets an agent send: the bounds that the widths of the operands do not already give.
exec gives every command a meaning; a command that is not well formed is one that no agent outside the block can form.
-/

namespace Sys2Proof

/-- Whether an answer to the read of a firmware image can be one: MGT_LOAD_LEN, which gives its length, has 20 bits
(R438). -/
def ImageResp.imageOk : ImageResp → Bool
  | .data bytes => bytes.length < 2 ^ 20
  | .error _ => true

/-- A frame on a port's receive slots has at least one byte. -/
def RxArrival.ok (x : RxArrival) : Bool := !x.bytes.isEmpty

/-- A message in a frame is no longer than the longest frame (PRT_FRAME_CFG.max_frame, R443). -/
def MsgPath.ok : MsgPath → Bool
  | .mailbox => true
  | .inband _ _ msg => msg.length ≤ 16384

/-- A table command posted by the cellarmaster firmware has 64 bytes; its data stands at data_addr (R253, R254). -/
def postOk : Option Bytes → Bool
  | none => true
  | some b => b.length == 64

/-- Whether a command is well formed. -/
def Instr.wf : Instr → Bool
  | .frameReceive _ x => x.ok
  | .sentinelFrame _ x => x.ok
  | .lock p => postOk p
  | .unlock p => postOk p
  | .tblRead p => postOk p
  | .tblWrite p => postOk p
  | .tblDelete p => postOk p
  | .zoneMove p => postOk p
  | .replicaCopy p => postOk p
  | .ageSweep p => postOk p
  | .dump p => postOk p
  | .counterReset same => same.all fun e => e.counter.toNat < 736
  | .activateFw _ digest => digest.length == 16
  | .fwVerifyDone image => image.imageOk
  | .fwLoadDone image => image.imageOk
  | .openReq path => path.ok
  | .proof path => path.ok
  | .command path => path.ok
  | .close path => path.ok
  | .rackCutoverEnd tenths => tenths.toNat ≤ 160
  | .registerWrite _ _ _ _ | .rcFieldRead _ _ _ | .pairLoRead _ _ | .pairHiWrite _ _ _ _
  | .transmitDoorbell _ _ | .receiveDoorbell _ _ | .pollInterval _ | .start _ | .startFresh _ | .stop | .reset
  | .chnCmdInvalid _ | .contextReadComplete _ _ | .ctxInvalChannel _ | .ctxInvalCring _ | .ringReset _
  | .ctxInvalReadComplete _ _ | .indexBlockReadComplete _ _ | .descriptorReadComplete _ _
  | .txDataReadComplete _ _ _ | .chainStage | .chainSettle _ | .miiWordError _ _ | .dealHeaderCopies _
  | .laneResult _ _ _ _ _ _ | .reorderTimeout _ _ | .laneErrClear _ _ | .schedulerDecision _ | .txStaged _ _
  | .frameTransmitEnd _ _ | .pauseFrameTransmit _ | .pauseRefreshTimer _ _ | .pauseTimerExpiry _ _
  | .rxWaitLimit _ _ | .receiveAssign _ _ _ | .fabricWriteAck _ _ | .consIndexReadComplete _ _
  | .stallRereadTimer _ | .stallAlertTimer _ | .moderationTimer _ | .resetDrainTimeout _ | .lateCompletion _
  | .linkFaultChange _ _ | .linkHoldTimer _ | .lpiIdleTimer _ | .lpiWakeEnd _ | .receiveLpi _ _
  | .rowEnableRequest _ | .rowDisableRequest _ | .rowEnabled _ | .rowDisabled _ | .rowCfgWrite _ _
  | .calendarManualClear _ | .spareCopyComplete _ _ | .twinRecoveryReset _ | .throttleWindowEnd _
  | .pressClockSwitch _ | .slowWindowEnd _ | .powerOnReset _ | .powerFailWarning | .drainComplete
  | .supplyLoss _ _ _ | .vauxLoss | .vauxRestore | .softReset _ | .tableCommandDoorbell
  | .tableCmdReadComplete _ _ | .zoneMoveDone | .replicaCopyDone | .ageSweepDone | .lockTimeout _ | .ageTick
  | .learnFilterHoldoff _ _ _ | .learnProdTimer | .learnConsReadComplete _ _ | .policerCommit _ _
  | .policerSelect _ _ | .gateListLoad _ _ | .gateLoadComplete _ _ | .gateCommit _ | .gateCancel _
  | .gateListSwitch _ | .gateEntryChange _ | .cvuTestStart _ | .cvuTestData _ | .cvlogProdTimer _
  | .logSlotReread _ | .cvlogConsReadComplete _ _ | .timeIncrWrite _ | .timeCaptureRead | .timeLoad
  | .timeStep _ | .ppsInEdge _ | .captureRead | .ppsOutPulse | .ppsWidthEnd | .triggerArm _ | .triggerFire
  | .triggerWidthEnd | .readTimeout _ | .writeTimeout _ | .quarantineExpiry _ | .writeHoldExpiry _
  | .fabricPortIerr _ _ | .fabricPortRestore _ | .functionStateUpdate _ _ | .hostLinkChange _
  | .quiesceDrainTimeout _ | .functionAbandon | .eventEmit _ | .intxAck _ _ | .eventForce _ _ | .blockEventGap _
  | .dormancyEnter _ | .dormancyQuiesceEnd | .hostWake | .wakeTimer | .wakeVddsReturn | .patternMatch _
  | .cagePresenceChange _ _ | .cagePowerEnable _ | .cagePowerDisable _ | .cagePowerGood _ | .cagePgTimeout _
  | .cagePowerFault _ _ | .cagePowerGoodLost _ | .cageButton _ | .errorPop _ | .rack _ _ | .rackPrepareTest
  | .rackPrepareTimeout | .rackHandover | .abortRack | .setLearnMode _ | .spareBank _ | .retireKey _
  | .restorePress _ | .watchdogExpiry _ | .cmRestart | .cmHalt | .cmSlowPathEnd _ _ | .retentionSpareDone
  | .challengeTimeout _ | .sessionIdleTimeout _ | .keyLockoutEnd _ | .mboxStorePart _ | .mboxSend _
  | .mboxFetchPart _ | .keyWord _ _ _ | .keyCommit _ | .keyLock | .snapshotTrigger | .snapshotInterval
  | .powerOnResetAssert | .sampleProdTimer | .sampleConsReadComplete _ _ | .pressSelfTestDone _ _
  | .pressLogicFault _ | .localSramUncorrectable _ => true

end Sys2Proof
end

