-- ==== Sys2Proof/Safety.lean ====
section
/-!
DEFINITION. What counts as a safe run, in the terms that statements use: outcomes, the invariant of a state, and what a
command leaves as it was.
-/

namespace Sys2Proof.Machine

/-- The step goes on to a next state. -/
def Goes (o : Host.Outcome State Fault Refusal) : Prop := ∃ t, o = .next t

/-! ### The invariant of a state -/

/-- Canonical form of a sparse map in which an unlisted number holds d: keys rise strictly and no entry holds d, so that
equal maps are equal data. -/
def canonical {α : Type} (d : α) (m : SMap α) : Prop := msorted m = true ∧ ∀ e ∈ m, e.2 ≠ d

/-- The PTP time is one that a timestamp can carry (R341, R347): seconds of 48 bits, nanoseconds below 10^9, the fraction
of 16 bits and the further fraction of 12 bits; and the increment in force lies in its range (R342). -/
def Time.wf (t : Time) : Prop :=
  (t.sec < 2 ^ 48 ∧ t.ns < 1000000000 ∧ t.frac < 2 ^ 16 ∧ t.sub < 2 ^ 12)
    ∧ 0x10000000 ≤ t.incr ∧ t.incr ≤ 0x18000000

/-- The error queue holds at most 64 records, in slots 0 to 63 (R415, R416). -/
def ErrQueue.wf (e : ErrQueue) : Prop := e.count ≤ 64 ∧ msorted e.recs = true ∧ ∀ r ∈ e.recs, r.1 < 64

/-- Two waiting events that R381 and R385 would have merged: of one ring or block source, or the same forced event. -/
def Event.merges (a b : Event) : Bool := a.src == b.src && (b.src != .force && b.src != .deassert || a == b)

/-- No event waits that would have merged with one that waits before it (R381, R385). -/
def Events.wf (e : Events) : Prop := e.waiting.Pairwise fun a b => a.merges b = false

/-- Requests stand in the order of submission, each under an identity of its own that none later gets. -/
def Fabric.wf (f : Fabric) : Prop := f.reqs.Pairwise (fun a b => a.id < b.id) ∧ ∀ r ∈ f.reqs, r.id < f.nextId

/-- A block that holds power-on reset is not ready (R391), and GLB_DORM_STAT has a state of its table. -/
def Power.wf (p : Power) : Prop := (p.por = true → p.ready = false) ∧ p.dorm ≤ 4

/-- The invariant of the machine. -/
def State.wf (s : State) : Prop :=
  msorted s.regs = true ∧ canonical {} s.chans ∧ canonical {} s.rings ∧ canonical {} s.book.points
    ∧ (canonical {} s.cellar.charges ∧ msorted s.cellar.frames = true)
    ∧ canonical {} s.rows ∧ canonical {} s.ports ∧ canonical {} s.presses ∧ (canonical {} s.replicas ∧ msorted s.replicasOld = true)
    ∧ s.fabric.wf ∧ canonical {} s.funcs ∧ s.events.wf ∧ s.time.wf ∧ s.power.wf ∧ s.errors.wf
    ∧ canonical {} s.pmu.counters ∧ (canonical {} s.aux.image.points ∧ msorted s.aux.image.prods = true)
    ∧ canonical 0 s.aux.patterns ∧ canonical 0 s.cm.sram

/-! ### What a command leaves as it was

Whatever a command does, the block goes on with what its rules let happen at any time: an event is counted (R450) and may
tag an item (R466), a block source raises (R384), the fabric issues what waits (R357 to R362), and a port in LPI wakes for a
control frame that is due (R158). A part of the state is left as it was when nothing but this happens to it. -/

/-- The parts of the state. -/
inductive Part where
  | pending | regs | pairHeld | pairCap | rdata | chans | rings | book | cellar | rows | ports | presses | replicas
  | engine | fabric | funcs | events | time | cvTest | aux | power | errors | racking | cm | mgmt | pmu | freeCount | serial
  deriving DecidableEq, Repr

/-- The registers in which the counting and raising of events shows: EVT_STAT, PMU_SAMPLE_STAT and PMU_OVF. -/
def eventReg (a : Nat) : Bool :=
  a == EVT_STAT.reg.off || a == PMU_SAMPLE_STAT.reg.off || ((PMU_OVF.reg 0).off ≤ a && a < (PMU_OVF.reg 23).off)

/-- Registers of the window that are not named keep their words; event registers may show events. -/
def regsLeft (changed : List Nat) (s t : State) : Prop :=
  ∀ a, a ∉ changed → eventReg a = false → mget a t.regs = mget a s.regs

/-- A port without its LPI state. -/
def Port.awake (p : Port) : Port := { p with txLpi := 0 }

/-- A request without the port that it was issued on. -/
def Req.queued (r : Req) : Req := { r with port := none }

/-- The configuration of a counter. -/
def Counter.config (c : Counter) : Counter := { c with value := 0, ovf := false, armed := false }

/-- Whether a part is left as it was between two states. -/
def Part.left (p : Part) (s t : State) : Prop :=
  match p with
  | .pending => t.pending = s.pending
  | .regs => regsLeft [] s t
  | .pairHeld => t.pairHeld = s.pairHeld
  | .pairCap => t.pairCap = s.pairCap
  | .rdata => t.rdata = s.rdata
  | .chans => t.chans = s.chans
  | .rings => t.rings = s.rings
  | .book => t.book = s.book
  | .cellar => t.cellar = s.cellar
  | .rows => t.rows = s.rows
  | .ports => ∀ g, (port g t).awake = (port g s).awake
  | .presses => t.presses = s.presses
  | .replicas => t.replicas = s.replicas ∧ t.replicasOld = s.replicasOld
  | .engine => t.engine = s.engine
  | .fabric => ({ t.fabric with reqs := t.fabric.reqs.map Req.queued } : Fabric)
      = { s.fabric with reqs := s.fabric.reqs.map Req.queued }
  | .funcs => t.funcs = s.funcs
  | .events => ({ t.events with waiting := [] } : Events) = { s.events with waiting := [] }
      ∧ s.events.waiting <+: t.events.waiting
  | .time => t.time = s.time
  | .cvTest => t.cvTest = s.cvTest
  | .aux => t.aux = s.aux
  | .power => t.power = s.power
  | .errors => t.errors = s.errors
  | .racking => t.racking = s.racking
  | .cm => t.cm = s.cm
  | .mgmt => t.mgmt = s.mgmt
  | .pmu => ({ t.pmu with counters := [], tags := [], edge := none, ovfNow := [] } : Pmu)
        = { s.pmu with counters := [], tags := [], edge := none, ovfNow := [] }
      ∧ ∀ n, (counter n t).config = (counter n s).config
  | .freeCount => t.freeCount = s.freeCount
  | .serial => t.serial = s.serial

/-- Every part but the named ones is left as it was. -/
def ChangesOnly (changed : List Part) (s t : State) : Prop := ∀ p, p ∉ changed → p.left s t

/-- The parts of the state that a command may change; every other part is left as the command found it. -/
def mayChange : Instr → List Part
  | .registerWrite _ _ _ _ | .pairHiWrite _ _ _ _ =>
    [.regs, .pairHeld, .chans, .rings, .book, .cellar, .rows, .ports, .presses, .engine, .fabric, .funcs, .time,
     .cvTest, .aux, .power, .errors, .racking, .cm, .mgmt, .pmu, .freeCount]
  | .rcFieldRead _ _ _ | .pairLoRead _ _ => [.regs, .pairCap, .rdata, .funcs, .time]
  | .transmitDoorbell _ _ | .receiveDoorbell _ _ => [.regs, .chans, .fabric]
  | .pollInterval _ | .resetDrainTimeout _ | .cvlogProdTimer _ | .logSlotReread _ => [.chans, .fabric]
  | .start _ | .startFresh _ | .stop | .reset | .chnCmdInvalid _ =>
    [.regs, .chans, .rings, .book, .cellar, .ports, .presses, .fabric, .aux, .power, .errors, .pmu]
  | .contextReadComplete _ _ | .ctxInvalReadComplete _ _ | .indexBlockReadComplete _ _ | .descriptorReadComplete _ _
  | .consIndexReadComplete _ _ | .cvlogConsReadComplete _ _ | .readTimeout _ | .writeTimeout _
  | .fabricPortIerr _ _ =>
    [.regs, .chans, .rings, .book, .cellar, .rows, .ports, .presses, .engine, .fabric, .funcs, .events, .aux,
     .power, .errors, .cm, .pmu]
  | .ctxInvalChannel _ | .ctxInvalCring _ | .ringReset _ => [.regs, .rings, .fabric]
  | .txDataReadComplete _ _ _ =>
    [.regs, .chans, .rings, .book, .cellar, .rows, .ports, .presses, .engine, .fabric, .funcs, .events, .cvTest,
     .aux, .power, .errors, .cm, .pmu]
  | .chainStage => [.chans, .cellar, .fabric]
  | .chainSettle _ | .frameTransmitEnd _ _ | .gateListSwitch _ =>
    [.regs, .chans, .rings, .book, .cellar, .ports, .presses, .fabric, .aux, .power, .pmu]
  | .frameReceive _ _ | .pauseFrameTransmit _ => [.regs, .cellar, .ports, .fabric, .pmu]
  | .miiWordError _ _ | .rowCfgWrite _ _ | .calendarManualClear _ | .ppsInEdge _ | .eventForce _ _ => [.regs]
  | .dealHeaderCopies _ => [.regs, .chans, .presses]
  | .laneResult _ _ _ _ _ _ =>
    [.regs, .chans, .rings, .book, .cellar, .ports, .presses, .replicas, .engine, .fabric, .aux, .power,
     .errors, .racking, .cm, .pmu, .freeCount, .serial]
  | .reorderTimeout _ _ | .pressLogicFault _ =>
    [.regs, .chans, .rings, .cellar, .presses, .fabric, .aux, .power, .errors, .racking, .pmu]
  | .rackPrepareTimeout =>
    [.regs, .chans, .rings, .book, .cellar, .ports, .presses, .fabric, .time, .aux, .power, .errors, .racking, .pmu]
  | .laneErrClear _ _ | .throttleWindowEnd _ | .pressClockSwitch _ | .policerSelect _ _ => [.regs, .presses]
  | .schedulerDecision _ =>
    [.regs, .chans, .rings, .book, .cellar, .rows, .ports, .engine, .fabric, .aux, .power, .pmu]
  | .txStaged _ _ => [.regs, .chans, .cellar, .ports, .presses, .fabric, .errors, .pmu]
  | .pauseRefreshTimer _ _ | .pauseTimerExpiry _ _ | .lpiWakeEnd _ | .receiveLpi _ _ | .gateCancel _ => [.ports]
  | .rxWaitLimit _ _ => [.chans, .cellar, .fabric, .pmu]
  | .receiveAssign _ _ _ =>
    [.regs, .chans, .rings, .book, .cellar, .fabric, .cvTest, .aux, .power, .errors, .pmu, .serial]
  | .fabricWriteAck _ _ =>
    [.regs, .chans, .rings, .book, .cellar, .ports, .presses, .engine, .fabric, .funcs, .events, .aux, .power,
     .errors, .pmu]
  | .stallRereadTimer _ => [.rings, .fabric]
  | .stallAlertTimer _ => [.regs, .rings, .errors]
  | .moderationTimer _ => [.rings]
  | .lateCompletion _ | .quarantineExpiry _ | .writeHoldExpiry _ | .functionStateUpdate _ _ | .hostLinkChange _
  | .quiesceDrainTimeout _ | .sampleConsReadComplete _ _ =>
    [.regs, .chans, .rings, .book, .cellar, .ports, .presses, .fabric, .funcs, .events, .aux, .power, .pmu]
  | .linkFaultChange _ _ | .linkHoldTimer _ | .lpiIdleTimer _ | .gateCommit _ | .gateEntryChange _ => [.regs, .ports]
  | .rowEnableRequest _ => [.regs, .rows, .presses, .engine]
  | .rowDisableRequest _ | .rowEnabled _ => [.regs, .rows, .ports]
  | .rowDisabled _ => [.rows]
  | .spareCopyComplete _ _ => [.regs, .cellar, .errors]
  | .twinRecoveryReset _ => [.regs, .rows]
  | .slowWindowEnd _ | .pressSelfTestDone _ _ => [.regs, .presses, .errors, .racking]
  | .powerOnReset _ =>
    [.regs, .pairHeld, .pairCap, .chans, .rings, .book, .cellar, .rows, .ports, .presses, .replicas, .engine,
     .fabric, .funcs, .events, .time, .cvTest, .aux, .power, .errors, .racking, .cm, .mgmt, .pmu, .freeCount]
  | .powerFailWarning => [.regs, .chans, .rings, .cellar, .fabric, .aux, .power, .pmu]
  | .drainComplete =>
    [.regs, .pairHeld, .pairCap, .chans, .rings, .book, .cellar, .rows, .ports, .presses, .engine, .fabric,
     .funcs, .events, .time, .cvTest, .aux, .power, .errors, .racking, .cm, .mgmt, .pmu]
  | .supplyLoss _ _ _ | .powerOnResetAssert =>
    [.regs, .pairHeld, .pairCap, .chans, .rings, .book, .cellar, .rows, .ports, .presses, .replicas, .engine,
     .fabric, .funcs, .events, .time, .cvTest, .aux, .power, .errors, .racking, .cm, .mgmt, .pmu]
  | .vauxLoss => [.regs, .aux, .errors]
  | .vauxRestore | .sentinelFrame _ _ | .cagePresenceChange _ _ | .cagePowerEnable _ | .cagePowerDisable _
  | .cagePowerGood _ | .cagePgTimeout _ | .cagePowerFault _ _ | .cagePowerGoodLost _ =>
    [.regs, .aux]
  | .softReset _ => [.regs, .chans, .rings, .cellar, .presses, .fabric, .aux, .power, .racking, .pmu]
  | .tableCommandDoorbell | .learnProdTimer => [.engine, .fabric]
  | .tableCmdReadComplete _ _ | .learnConsReadComplete _ _ =>
    [.regs, .chans, .rings, .book, .cellar, .ports, .presses, .engine, .fabric, .funcs, .events, .aux, .power,
     .pmu]
  | .lock _ | .unlock _ | .tblRead _ | .tblWrite _ | .tblDelete _ | .zoneMove _ | .replicaCopy _ | .ageSweep _
  | .dump _ =>
    [.regs, .presses, .replicas, .engine, .fabric, .cm, .freeCount]
  | .zoneMoveDone => [.replicas, .engine, .fabric, .freeCount]
  | .replicaCopyDone => [.regs, .replicas, .engine, .fabric]
  | .ageSweepDone => [.regs, .replicas, .engine, .fabric, .cm, .freeCount]
  | .lockTimeout _ => [.regs, .engine, .errors]
  | .ageTick => [.regs, .engine]
  | .learnFilterHoldoff _ _ _ | .policerCommit _ _ | .restorePress _ => [.presses]
  | .gateListLoad _ _ => [.regs, .rows, .ports, .fabric]
  | .gateLoadComplete _ _ =>
    [.regs, .chans, .rings, .book, .cellar, .rows, .ports, .presses, .fabric, .funcs, .events, .aux, .power,
     .pmu]
  | .cvuTestStart _ => [.regs, .cvTest]
  | .cvuTestData _ => [.cvTest]
  | .timeIncrWrite _ | .timeStep _ | .triggerArm _ | .triggerFire => [.regs, .time]
  | .timeCaptureRead => [.rdata, .time]
  | .timeLoad | .ppsOutPulse | .ppsWidthEnd | .triggerWidthEnd => [.time]
  | .captureRead => [.regs, .rdata, .time]
  | .fabricPortRestore _ => [.fabric]
  | .functionAbandon => [.chans, .rings, .book, .cellar, .ports, .presses, .fabric, .funcs, .aux, .power, .pmu]
  | .eventEmit _ | .intxAck _ _ => [.regs, .rings, .funcs, .events, .pmu]
  | .blockEventGap _ => [.events]
  | .dormancyEnter _ => [.regs, .power]
  | .dormancyQuiesceEnd => [.regs, .cellar, .rows, .ports, .presses, .fabric, .aux, .power, .errors, .cm, .pmu]
  | .hostWake | .wakeTimer | .wakeVddsReturn | .patternMatch _ | .cageButton _ =>
    [.regs, .rows, .ports, .presses, .aux, .power]
  | .errorPop _ => [.errors]
  | .rack _ _ => [.regs, .presses, .racking]
  | .abortRack => [.regs, .chans, .presses, .racking]
  | .rackPrepareTest => [.presses, .engine, .racking]
  | .rackHandover => [.presses, .pmu]
  | .rackCutoverEnd _ =>
    [.regs, .chans, .rings, .book, .cellar, .ports, .presses, .engine, .fabric, .time, .aux, .power, .racking, .pmu]
  | .setLearnMode _ => [.regs, .presses, .engine]
  | .spareBank _ => [.cellar]
  | .retireKey _ => [.aux, .mgmt]
  | .counterReset _ => [.pmu]
  | .activateFw _ _ => [.fabric, .cm]
  | .fwVerifyDone _ | .fwLoadDone _ =>
    [.regs, .chans, .rings, .book, .cellar, .ports, .presses, .engine, .fabric, .funcs, .events, .aux, .power,
     .errors, .cm, .pmu]
  | .watchdogExpiry _ | .localSramUncorrectable _ => [.regs, .chans, .cellar, .engine, .fabric, .errors, .cm, .pmu]
  | .cmRestart => [.engine, .cm]
  | .cmHalt => [.regs, .chans, .cellar, .engine, .fabric, .cm, .pmu]
  | .cmSlowPathEnd _ _ => [.regs, .chans, .cellar, .ports, .fabric, .errors, .cm, .pmu, .serial]
  | .retentionSpareDone => [.book]
  | .openReq _ | .close _ => [.regs, .cellar, .ports, .fabric, .mgmt, .pmu, .freeCount, .serial]
  | .proof _ => [.regs, .cellar, .ports, .fabric, .aux, .mgmt, .pmu, .freeCount, .serial]
  | .command _ =>
    [.regs, .chans, .cellar, .ports, .presses, .engine, .fabric, .aux, .racking, .cm, .mgmt, .pmu, .freeCount, .serial]
  | .challengeTimeout _ | .sessionIdleTimeout _ => [.mgmt]
  | .keyLockoutEnd _ | .keyWord _ _ _ | .keyCommit _ | .keyLock => [.aux]
  | .mboxStorePart _ | .mboxSend _ => [.regs, .mgmt]
  | .mboxFetchPart _ => [.regs, .freeCount]
  | .snapshotTrigger | .snapshotInterval => [.regs, .fabric, .pmu]
  | .sampleProdTimer => [.fabric, .pmu]

/-- Whether a command reaches the block through the register port: what software writes there or reads. -/
def viaRegisterPort : Instr → Bool
  | .registerWrite _ _ _ _ | .rcFieldRead _ _ _ | .pairLoRead _ _ | .pairHiWrite _ _ _ _ | .timeCaptureRead | .captureRead
  | .triggerArm _ | .gateCommit _ | .snapshotTrigger | .softReset _ => true
  | _ => false

/-- The state that a command finds: an access of the register port waits until the changes of PTP time that the port has
taken have taken effect (R475, R488). Every other command finds the state as it is. -/
def entered (c : Instr) (s : State) : State := if viaRegisterPort c then portTurn s else s

/-- The parts that a change of PTP time may change when it takes effect: a trigger may fire and gate lists switch. -/
def turnParts : List Part :=
  [.regs, .chans, .rings, .book, .cellar, .ports, .presses, .fabric, .time, .aux, .power, .pmu]

/-- The command c goes on from s to a next state of which Q holds, and leaves every part but the named ones as it found
it. -/
def Completes (c : Instr) (s : State) (changed : List Part) (Q : State → Prop) : Prop :=
  ∃ t, exec c s = .next t ∧ ChangesOnly changed (entered c s) t ∧ Q t

/-- The bytes that a command brings as an answer, with the number of bytes that the request for it asks for. -/
def answerOf (s : State) : Instr → Option (Bytes × Nat)
  | .contextReadComplete q x | .ctxInvalReadComplete q x | .indexBlockReadComplete q x | .descriptorReadComplete q x
  | .txDataReadComplete q x _ | .consIndexReadComplete q x | .tableCmdReadComplete q x | .learnConsReadComplete q x
  | .cvlogConsReadComplete q x | .sampleConsReadComplete q x =>
    match x with
    | .data bs => (findReq q s).map fun r => (bs, r.len)
    | .error => none
  | .gateLoadComplete n (.data bs) => some (bs, 8 * (row n.toNat s).gateEntries)
  | .fwVerifyDone (.data bs) | .fwLoadDone (.data bs) => some (bs, s.cm.loadLen)
  | _ => none

/-- Whether the answer that a command brings carries as many bytes as its request asks for (R484). -/
def fits (c : Instr) (s : State) : Bool :=
  match answerOf s c with
  | some (bs, n) => bs.length == n
  | _ => true

/-! ### Terms that statements use -/

/-- PTP time as one number, in units of 2^-28 ns (R341). -/
def Time.units (t : Time) : Nat := ((t.sec * 1000000000 + t.ns) * 2 ^ 16 + t.frac) * 2 ^ 12 + t.sub

/-- Between s and t a request is submitted that is the next of all: its kind, function, address, length and purpose. -/
def Submits (write : Bool) (f : Nat) (addr : DWord) (len : Nat) (p : Purpose) (s t : State) : Prop :=
  ∃ r ∈ t.fabric.reqs, r.id = s.fabric.nextId ∧ r.write = write ∧ r.func = f ∧ r.addr = addr ∧ r.len = len
    ∧ r.purpose = p ∧ r.discard = false

/-- Request r is outstanding under the identity req in a block that runs, its completion is wanted, and its function is
not quiesced. -/
def Awaits (req : Nat) (r : Req) (s : State) : Prop :=
  auxPort s = true ∧ findReq req s = some r ∧ r.discard = false ∧ (func r.func s).qState = 0

/-- Every request that waits has been issued. -/
def AllIssued (s : State) : Prop := ∀ r ∈ s.fabric.reqs, r.port.isSome = true

/-- No request has the identity req any more. -/
def Answered (req : Nat) (t : State) : Prop := ∀ r ∈ t.fabric.reqs, r.id ≠ req

/-- A request is submitted between s and t with the given kind, function, address and purpose, and carries the data. -/
def Sends (write : Bool) (f : Nat) (addr : DWord) (data : Bytes) (p : Purpose) (s t : State) : Prop :=
  ∃ q ∈ t.fabric.reqs, s.fabric.nextId ≤ q.id ∧ q.write = write ∧ q.func = f ∧ q.addr = addr ∧ q.data = data ∧ q.purpose = p

/-- The table engine serves command c next, which the given opcode names, and no reserved field of it is set. -/
def Serves (opcode : Nat) (c : TblCmd) (s : State) : Prop :=
  live s = true ∧ nextCmd s = some c ∧ c.fields.opcode = opcode ∧ c.fields.res0 = false

/-- Command c has ended between s and t with result r. Where it has no data, the firmware finds it in its memory, or it is
being written into the command in the ring; else its data is being written to data_addr first. -/
def Results (c : TblCmd) (r : TblRes) (s t : State) : Prop :=
  (c.fromRing = false → r.data = [] → t.engine.cmDone.getLast? = some r.bytes)
    ∧ (c.fromRing = true → r.data = [] →
        Sends true (ownerFunc s) (cmdAddr c.index s + 0x30) r.bytes .tblResult s t ∧ t.engine.resultOut = true)
    ∧ (r.data ≠ [] → ∃ w, (if c.fromRing then t.engine.waiting else t.engine.cmWaiting) = some w ∧ w.cmd = c
        ∧ w.failed = false ∧ w.vintage = r.vintage
        ∧ w.writesLeft = (pieces (BitVec.ofNat 64 c.fields.addr) r.data.length).length
        ∧ ∀ p ∈ pieces (BitVec.ofNat 64 c.fields.addr) r.data.length,
            Sends true (ownerFunc s) (BitVec.ofNat 64 c.fields.addr + BitVec.ofNat 64 p.1) (slice p.1 p.2 r.data)
              (.tblData c.fromRing) s t)

/-- The reply r to a management message goes out between s and t by the way the message came: the mailbox holds it, or the
last frame of the queue of class 0 of the port carries it, where that port is a destination whose queue is not empty. -/
def Replies (path : MsgPath) (r : Bytes) (s t : State) : Prop :=
  match path with
  | .mailbox => t.mgmt.mboxBusy = none ∧ t.mgmt.mboxRsp = some r
  | .inband p sa _ =>
    let bs := padded (replyFrame p.toNat sa r s)
    isDest p.toNat s = true → bs.length ≤ maxFrame p.toNat s → fwdQueue p.toNat 0 s ≠ [] →
      ∃ f, fwdQueue p.toNat 0 t = fwdQueue p.toNat 0 s ++ [f] ∧ f.frame = none ∧ f.bytes = bs

/-- The parts that handling a management message may change: l, and those through which a frame carries the reply. -/
def withReply (path : MsgPath) (l : List Part) : List Part :=
  match path with
  | .mailbox => l
  | .inband _ _ _ => l ++ [.regs, .cellar, .ports, .fabric, .pmu, .serial]

/-- Every channel but c is as it was. -/
def chansLeft (c : Nat) (s t : State) : Prop := ∀ d, d ≠ c → chan d t = chan d s

/-- The channel that FAB_CHN_SEL selects. -/
def selected (s : State) : Nat := fget FAB_CHN_SEL.channel s

/-- Every waiting command is well formed. -/
def State.queueWf (s : State) : Prop := ∀ c ∈ s.pending, c.wf = true

/-- Registers at whose write something acts beside the field types, or in their place. -/
def actsOnWrite (a : Nat) : Bool :=
  [GLB_ROW_EN.reg, GLB_RESET_CTL.reg, GLB_DORM_CTL.reg, GLB_ERR_POP.reg, GLB_CLK_CTL.reg, GLB_THROTTLE_CFG.reg,
   MGT_CORE_CTL.reg, MGT_LOAD_CTL.reg, MGT_MBOX_CMD.reg, FAB_CHN_CTL.reg, FAB_CHN_STAT.reg, FAB_CTX_INVAL.reg,
   FAB_FUNC_STAT.reg, FAB_FUNC_CTL.reg, EVT_INTX_CFG.reg, EVT_FORCE.reg, PMU_CTL.reg, PMU_SAMPLE_CFG.reg,
   PMU_EVT_CFG.reg, PMU_FILT_A.reg, PMU_FILT_B.reg, TIM_CTL.reg, TIM_SEC_HI.reg, TIM_SEC_LO.reg, TIM_NS.reg,
   TIM_FRAC.reg, TIM_ADJ_CTL.reg, TIM_INCR.reg, TIM_TRIG_NS.reg, CVU_TEST_CTL.reg, CVU_TEST_DATA.reg, TBL_CTL.reg,
   TBL_CMD_DB.reg, TBL_LEARN_CFG.reg, CEL_WAIT_LIMIT.reg, AUX_SENTINEL_CFG.reg, AUX_WAKE_DATA.reg].any (·.off == a)
  || ((FAB_PORT_CFG.reg 0).off ≤ a && a < (FAB_PORT_CFG.reg 16).off)
  || ((List.range 32).any fun c => (AUX_CAGE_CTL.reg c).off == a)
  || ((List.range 5).any fun k => [PRS_CFG.reg k, PRS_LANE_STAT.reg k, PRS_LPM_CFG.reg k, PRS_POL_SEL.reg k,
        PRS_POL_CIR.reg k, PRS_POL_PIR.reg k, PRS_POL_CBS.reg k, PRS_POL_PBS.reg k, PRS_POL_CTL.reg k].any (·.off == a))
  || ((List.range 32).any fun r => [ROW_CFG.reg r, ROW_CAL_CFG.reg r, ROW_TWIN_CFG.reg r, ROW_GATE_LOAD.reg r].any
        (·.off == a))
  || ((List.range 256).any fun g => [PRT_MAC_CFG.reg g, PRT_GATE_CFG.reg g].any (·.off == a))

end Sys2Proof.Machine
end

