-- ==== Sys2Proof/Certificates/Slice0/Obligations.lean ====
section
/-!
DEFINITION. The statements for the provers. Each says which rules of spec/ it follows. Completes c s changed Q reads: command c goes on
from s to a next state of which Q holds, and every part of the state outside changed is left as it was (Sys2Proof/Safety.lean).
-/

open Sys2Proof Sys2Proof.Machine

/-! ### The machine -/

/-- A step takes the command at the front of the queue and runs it on the state with the queue's rest. -/
def Obligations.StepRunsFront : Prop :=
  ∀ (c : Instr) (rest : List Instr) (s : State),
    step { s with pending := c :: rest } = exec c { s with pending := rest }

/-- The state in which power-on reset is held meets the invariant of the machine. -/
def Obligations.ResetMeetsInvariant : Prop := State.reset.wf

/-- What power-on reset leaves (R14, R81, R109, R389, R393, R471): every channel DISABLED, no request, no error
record, the map of rows to presses, every cage EMPTY and absent, the aux image invalid, and the identity of R1 in the
registers. -/
def Obligations.ResetState : Prop :=
  State.reset.pending = []
    ∧ (∀ c, chan c State.reset = {}) ∧ (chan 0 State.reset).state = .disabled
    ∧ State.reset.power.por = true ∧ State.reset.power.ready = false
    ∧ State.reset.fabric.reqs = [] ∧ State.reset.errors.count = 0 ∧ State.reset.aux.imageValid = false
    ∧ fget GLB_PRESS_MAP.group0 State.reset = 0 ∧ fget GLB_PRESS_MAP.group1 State.reset = 1
    ∧ fget GLB_PRESS_MAP.group2 State.reset = 2 ∧ fget GLB_PRESS_MAP.group3 State.reset = 3
    ∧ reservePress State.reset = 4
    ∧ (∀ r, rowEnabled r State.reset = false)
    ∧ (∀ c, (cage c State.reset).state = 0 ∧ (cage c State.reset).present = false)
    ∧ viewed GLB_IDENT.reg.off ⟨GLB_IDENT.reg, 1, 4, 0, 0, 0, 0, .p⟩ State.reset = 0x4E5A2560#32
    ∧ viewed GLB_ISSUE.reg.off ⟨GLB_ISSUE.reg, 1, 4, 0, 0, 0, 0, .p⟩ State.reset = 0x00000B00#32

/-- Every step keeps the invariant of the machine, whatever command is at the front of the queue. -/
def Obligations.StepKeepsInvariant : Prop :=
  ∀ s t : State, s.wf → step s = .next t → t.wf

/-- Every command goes on to a next state, and leaves every part of the state as it found it but the parts that
mayChange names for it; no command may change the queue of the commands that wait behind it. The one stop is an answer
of another number of bytes than its request asked for, which no wire of R484 can carry. A command finds the state as
it is, but for an access of the register port: behind a change of PTP time that waits, it waits until that change has
taken effect (R475, R488), which may change the parts of turnParts (that the wait passes in the access itself is the
model's own choice, log entry 78). -/
def Obligations.CommandsChangeOnlyTheirParts : Prop :=
  ∀ (c : Instr) (s : State), s.wf →
    ChangesOnly turnParts s (entered c s)
    ∧ (viaRegisterPort c = false ∨ clockRuns s = false ∨ (s.time.due = [] ∧ s.time.next = []) → entered c s = s)
    ∧ ((∃ t, exec c s = .next t ∧ ChangesOnly (mayChange c) (entered c s) t)
      ∨ (exec c s = .fault .wrongLength ∧ fits c s = false))

/-- With an empty queue a DCLK cycle passes (the model's own choice, log entry 1). While the clocks stand, nothing
changes. In a block that runs, DCLK counts, and no command that waits, table entry, function, event, error record,
racking or session changes. At an SCLK edge, every second DCLK, PTP time advances by the increment in force, in units
of 2^-28 ns (R341, R342), and the changes of time that were commanded become due; they take effect after the cycle of
the edge (R345). An edge at which ns wraps to 0 asserts the PPS output (R355), and one that reaches the time of an
armed trigger fires it (R356). -/
def Obligations.TickAdvancesTime : Prop :=
  ∀ s : State, s.wf → s.pending = [] →
    (clockRuns s = false → step s = .next s)
    ∧ (clockRuns s = true → ∃ t, step s = .next t ∧ t.time.dclk = s.time.dclk + 1
        ∧ ChangesOnly [.regs, .chans, .rings, .book, .cellar, .rows, .ports, .presses, .replicas, .fabric, .time, .aux,
            .power, .cm, .pmu, .freeCount, .serial] s t
        ∧ t.replicas = s.replicas ∧ t.replicasOld = []
        ∧ (t.time.dclk % 2 = 1 → s.time.due = [] → t.time = { s.time with dclk := s.time.dclk + 1 })
        ∧ (t.time.dclk % 2 = 1 → t.time.due = [] ∧ t.time.next = s.time.next)
        ∧ (t.time.dclk % 2 = 0 →
            t.time.units = (s.time.units + s.time.incr) % (2 ^ 48 * 1000000000 * 2 ^ 28)
            ∧ t.time.incr = s.time.incr ∧ t.time.due = s.time.next ∧ t.time.next = []
            ∧ (fbit TIM_PPS_CFG.pps_out_en s = true → t.time.sec ≠ s.time.sec → t.time.ppsOut = true)
            ∧ (s.time.armed = true → s.time.trigOut = false →
                (t.time.trigOut = true ↔ triggerReached t = true) ∧ (t.time.trigOut = true → t.time.armed = false))))

/-! ### Time and its pins (spec/11) -/

/-- TIME_INCR_WRITE, TIME_CAPTURE_READ, TIME_LOAD and TIME_STEP while every register is reached (R342 to R345). A read
of TIM_SEC_HI captures all four words of the time and returns the first. A write of TIM_INCR sets its field; it, a
load of the held values and a step wait for the next SCLK edge, and until then the time stands. Once due, an increment
applies held to 0x1000_0000 to 0x1800_0000; a load sets the time, each field held to its range; a step adds or
subtracts, leaves frac and sub, and makes no change when it would go below zero, which sets step_err. A load that
reaches the time of an armed trigger fires it. A read of the port waits until what the port has taken has taken effect
(R475, R488). That a step on an empty queue is a DCLK cycle is the model's own choice (log entry 1), and so is that
operands are taken at the command and that the changes stand in the order of their commands (log entry 78). -/
def Obligations.TimeIsReadLoadedAndStepped : Prop :=
  ∀ s : State, s.wf → let e := portTurn s
    (regLive s = true → ∀ (data : Word) (neg : Bool),
      Completes (.timeIncrWrite data) s [.regs, .time] (fun t =>
        fget TIM_INCR.incr t = data.toNat ∧ regsLeft [TIM_INCR.reg.off] s t
          ∧ t.time = { s.time with next := s.time.next ++ [.incr data.toNat] })
      ∧ (regLive e = true → Completes .timeCaptureRead s [.time, .rdata] (fun t =>
        (t.time.capHi, t.time.capLo, t.time.capNs, t.time.capFrac) = e.time.words ∧ t.rdata = e.time.words.1
          ∧ t.time.units = e.time.units))
      ∧ Completes .timeLoad s [.time] (fun t =>
        t.time = { s.time with next := s.time.next ++
          [.load (bits s.time.heldHi.toNat 15 0 * 2 ^ 32 + s.time.heldLo.toNat) (bits s.time.heldNs.toNat 29 0)
            (bits s.time.heldFrac.toNat 31 16) (bits s.time.heldFrac.toNat 15 4)] })
      ∧ Completes (.timeStep neg) s [.regs, .time] (fun t =>
        fget TIM_ADJ_CTL.neg t = b2n neg ∧ regsLeft [TIM_ADJ_CTL.reg.off] s t
          ∧ t.time = { s.time with next := s.time.next ++
            [.step neg (fget TIM_STEP_SEC.step_sec s) (min (fget TIM_STEP_NS.step_ns s) 999999999)] }))
    ∧ (clockRuns s = true → e.time.due = [] ∧ e.time.next = []
      ∧ (∀ v, s.time.due ++ s.time.next = [.incr v] →
          e.time = { s.time with due := [], next := [], incr := clamp 0x10000000 0x18000000 v })
      ∧ (∀ sec ns frac sub, s.time.due ++ s.time.next = [.load sec ns frac sub] →
          e.time.sec = sec % 2 ^ 48 ∧ e.time.ns = min ns 999999999)
      ∧ (∀ sec ns, s.time.due ++ s.time.next = [.step true sec ns] →
          s.time.sec * 1000000000 + s.time.ns < sec * 1000000000 + ns → fbit TIM_STAT.step_err e = true))
    ∧ (s.pending = [] → clockRuns s = true → s.time.dclk % 2 = 0 →
      (∀ v, s.time.due = [.incr v] → ∃ t, step s = .next t
        ∧ t.time = { s.time with dclk := s.time.dclk + 1, due := [], incr := clamp 0x10000000 0x18000000 v })
      ∧ (∀ sec ns frac sub, s.time.due = [.load sec ns frac sub] → ∃ t, step s = .next t
        ∧ t.time.sec = sec % 2 ^ 48 ∧ t.time.ns = min ns 999999999
        ∧ t.time.frac = frac % 2 ^ 16 ∧ t.time.sub = sub % 2 ^ 12
        ∧ (s.time.armed = true → triggerReached { s with time := s.time.loaded sec ns frac sub } = true →
            t.time.armed = false ∧ t.time.trigOut = true ∧ fbit TIM_STAT.trig_fired t = true))
      ∧ (∀ neg sec ns, s.time.due = [.step neg sec ns] → ∃ t, step s = .next t
        ∧ (let now := s.time.sec * 1000000000 + s.time.ns
           let by_ := sec * 1000000000 + ns
           t.time.frac = s.time.frac ∧ t.time.sub = s.time.sub
           ∧ (neg = true → by_ ≤ now → t.time.sec * 1000000000 + t.time.ns = now - by_)
           ∧ (neg = true → now < by_ →
               t.time = { s.time with dclk := s.time.dclk + 1, due := [] } ∧ fbit TIM_STAT.step_err t = true)
           ∧ (neg = false → t.time.sec * 1000000000 + t.time.ns = (now + by_) % (2 ^ 48 * 1000000000)))))

/-- PPS_IN_EDGE, CAPTURE_READ, PPS_OUT_PULSE, PPS_WIDTH_END, TRIGGER_ARM, TRIGGER_FIRE and TRIGGER_WIDTH_END (R354 to
R356). The selected edge captures the time, sets cap_valid, sets cap_ovr when a capture is overwritten, and raises
source 2; an edge that is not selected does nothing. A read of TIM_CAP_NS clears cap_valid. The PPS output asserts at
an edge at which ns wrapped to 0, and at no other; the outputs end as commanded, and arming takes trig_ns. An armed
trigger fires, with block source 2, when its time is reached; before it, the trigger stays armed. An access of the
port finds the state after the changes of time that the port has taken (R488; that the wait passes in the access is
the model's own choice, log entry 78). -/
def Obligations.TimePins : Prop :=
  ∀ (falling : Bool) (data : Word) (s : State), s.wf → clockRuns s = true → let e := portTurn s
    (fbit TIM_PPS_CFG.pps_in_en s = true → fbit TIM_PPS_CFG.in_falling s = falling →
      Completes (.ppsInEdge falling) s [.regs] (fun t =>
        fget TIM_CAP_SEC.cap_sec t = s.time.sec % 2 ^ 32 ∧ fget TIM_CAP_NS.cap_ns t = s.time.ns
          ∧ fbit TIM_STAT.cap_valid t = true
          ∧ (fbit TIM_STAT.cap_valid s = true → fbit TIM_STAT.cap_ovr t = true)
          ∧ (fget EVT_STAT.src_pending t).testBit 2 = true
          ∧ regsLeft [TIM_CAP_SEC.reg.off, TIM_CAP_NS.reg.off, TIM_STAT.reg.off] s t))
    ∧ (fbit TIM_PPS_CFG.pps_in_en s = false ∨ fbit TIM_PPS_CFG.in_falling s ≠ falling →
        exec (.ppsInEdge falling) s = .next s)
    ∧ (regLive e = true → Completes .captureRead s [.regs, .rdata, .time] (fun t =>
        t.rdata = e.time.capNsHeld.getD (regW TIM_CAP_NS.reg e) ∧ fbit TIM_STAT.cap_valid t = false
          ∧ regsLeft [TIM_STAT.reg.off] e t ∧ t.time = { e.time with capNsHeld := none }))
    ∧ (fbit TIM_PPS_CFG.pps_out_en s = true → s.time.wrapped = true →
        Completes .ppsOutPulse s [.time] (fun t => t.time = { s.time with ppsOut := true }))
    ∧ (fbit TIM_PPS_CFG.pps_out_en s = false ∨ s.time.wrapped = false → exec .ppsOutPulse s = .next s)
    ∧ Completes .ppsWidthEnd s [.time] (fun t => t.time = { s.time with ppsOut := false })
    ∧ (regLive e = true → Completes (.triggerArm data) s [.regs, .time] (fun t =>
        t.time = { e.time with armed := true } ∧ fget TIM_TRIG_NS.trig_ns t = data.toNat % 2 ^ 30
          ∧ regsLeft [TIM_TRIG_NS.reg.off] e t))
    ∧ Completes .triggerWidthEnd s [.time] (fun t => t.time = { s.time with trigOut := false })
    ∧ (s.time.armed = true →
        (triggerReached s = true → Completes .triggerFire s [.regs, .time] (fun t =>
          t.time = { s.time with armed := false, trigOut := true } ∧ fbit TIM_STAT.trig_fired t = true
            ∧ (fget EVT_STAT.src_pending t).testBit 2 = true
            ∧ ((fget EVT_BLOCK_VEC.src_en s).testBit 2 = true → ∃ e ∈ t.events.waiting, e.src = .block 2)))
        ∧ (triggerReached s = false → Completes .triggerFire s [] (fun t => t = s)))

/-! ### The register port (spec/01, R8 to R12) -/

/-- A read of an offset that is not assigned returns zero and a write to one has no effect (R9); the same holds for an
access that is not of all four bytes or not aligned, by each of the four access commands. The access finds the state
after the changes of PTP time that the port has taken (R488; that they pass in the access is the model's own choice,
log entry 78). -/
def Obligations.UnassignedAccessHasNoEffect : Prop :=
  ∀ (addr : BitVec 22) (be : BitVec 4) (data hwSet : Word) (events : BitVec 8) (s : State),
    findSpec addr.toNat = none ∨ be ≠ 15 ∨ addr.toNat % 4 ≠ 0 →
      exec (.registerWrite addr be data hwSet) s = .next (portTurn s)
      ∧ exec (.pairHiWrite addr be data events) s = .next (portTurn s)
      ∧ exec (.rcFieldRead addr be events) s = .next { portTurn s with rdata := 0 }
      ∧ exec (.pairLoRead addr be) s = .next { portTurn s with rdata := 0 }

/-- REGISTER_WRITE to every register on every page at whose write nothing but the field types acts, and which is no
half of a pair (R11, R12): RW bits take the data, W1C bits written 1 clear unless the hardware sets them in the same
cycle, other bits keep their value; no other register changes. A write that the state of the block locks changes
nothing (R88, R161, R174, R322, R330). In the registers that show events, an event may set a W1C bit again at once.
What a press deals with keeps its values to the end of the DCLK cycle (R220, R296). The write finds the state after
the changes of PTP time that the port has taken (R488; that they pass in the access is the model's own choice, log
entry 78). -/
def Obligations.RegisterWriteByFieldType : Prop :=
  ∀ (addr : BitVec 22) (data hwSet : Word) (x : RegSpec) (s : State), s.wf → let e := portTurn s
    accessed addr.toNat 15 e = some x → x.isLow = false → x.isHigh = false → actsOnWrite addr.toNat = false →
    Completes (.registerWrite addr 15 data hwSet) s [.regs, .presses] (fun t =>
      (locked addr.toNat e = false → ∀ i < 32,
        let after := if x.rw.getLsbD i then data.getLsbD i
          else if x.w1c.getLsbD i then hwSet.getLsbD i || ((regW (regAt addr.toNat x) e).getLsbD i && !data.getLsbD i)
          else (regW (regAt addr.toNat x) e).getLsbD i
        (eventReg addr.toNat = false → (regW (regAt addr.toNat x) t).getLsbD i = after)
        ∧ (x.w1c.getLsbD i = true → after = true → (regW (regAt addr.toNat x) t).getLsbD i = true))
      ∧ (locked addr.toNat e = true → regsLeft [] e t)
      ∧ regsLeft [addr.toNat] e t
      ∧ ∀ k < 5, cfgInForce k t = cfgInForce k e ∧ { press k t with cfgOld := none } = { press k e with cfgOld := none })

/-- PAIR_HI_WRITE and PAIR_LO_READ (R10). A write to the low half of a register pair is held, with REGISTER_WRITE, and
the following PAIR_HI_WRITE commits both halves; of the two counter pairs of performance monitoring, PMU_PRELOAD
commits to the selected counter and to no other (R457), and PMU_VAL is stated with the snapshots. A read of the low
half captures the high half of the same moment, which the next read of the high half returns, whatever has changed
since. Accesses find the state after the changes of PTP time that the port has taken (R488; that they pass in the
access is the model's own choice, log entry 78). -/
def Obligations.PairsActAtOneMoment : Prop :=
  ∀ (addr : BitVec 22) (lo hi : Word) (events : BitVec 8) (x y : RegSpec) (s : State), s.wf → let e := portTurn s
    (addr.toNat < 0x3FFFFC → y.isLow = true → y.isHigh = false → x.isHigh = true →
      (accessed addr.toNat 15 e = some y → accessed (addr.toNat + 4) 15 e = some x → x.isLow = false →
        locked addr.toNat e = false → locked (addr.toNat + 4) e = false →
        addr.toNat + 4 ≠ PMU_VAL_HI.reg.off → addr.toNat + 4 ≠ PMU_PRELOAD_HI.reg.off →
        Completes (.registerWrite addr 15 lo 0) s [.pairHeld] (fun t =>
          mget addr.toNat t.pairHeld = some lo ∧
          Completes (.pairHiWrite (addr + 4) 15 hi events) t [.regs, .pairHeld] (fun u =>
            regW (regAt addr.toNat y) u = stored y (regW (regAt addr.toNat y) e) lo 0
            ∧ regW (regAt (addr.toNat + 4) x) u = stored x (regW (regAt (addr.toNat + 4) x) e) hi 0
            ∧ regsLeft [addr.toNat, addr.toNat + 4] e u)))
      ∧ (accessed addr.toNat 15 e = some y → findSpec (addr.toNat + 4) = some x → y.rc = 0 →
        (∀ r ∈ [TIM_SEC_HI.reg.off, TIM_CAP_SEC.reg.off, TIM_CAP_NS.reg.off, AUX_WAKE_DATA.reg.off],
          addr.toNat ≠ r ∧ addr.toNat + 4 ≠ r) →
        Completes (.pairLoRead addr 15) s [.pairCap, .rdata] (fun t =>
          t.rdata = viewed addr.toNat y e
          ∧ ∀ u : State, u.wf → u.pairCap = t.pairCap → accessed (addr.toNat + 4) 15 (portTurn u) = some x →
              Completes (.pairLoRead (addr + 4) 15) u [.pairCap, .rdata] (fun v =>
                v.rdata = viewed (addr.toNat + 4) x e))))
    ∧ (regLive e = true → AllIssued e → selCounter e < 736 → fixedCounter (selCounter e) = false →
      Completes (.registerWrite (BitVec.ofNat 22 PMU_PRELOAD_LO.reg.off) 15 lo 0) s [.pairHeld] (fun t =>
        mget PMU_PRELOAD_LO.reg.off t.pairHeld = some lo ∧ (∀ n, counter n t = counter n e) ∧
        Completes (.pairHiWrite (BitVec.ofNat 22 PMU_PRELOAD_HI.reg.off) 15 hi events) t [.pairHeld, .pmu] (fun u =>
          counter (selCounter e) u = { counter (selCounter e) e with preLo := lo, preHi := hi &&& 0xFFFF#32 }
          ∧ ∀ n, n ≠ selCounter e → counter n u = counter n e)))

/-- RC_FIELD_READ returns the value before the events of its cycle, and the field then holds those events, up to its
largest value (R12). The register is one whose field counts events and reports nothing held elsewhere; the read finds
the state after the changes of PTP time that the port has taken (R488; that they pass in the access is the model's own
choice, log entry 78). -/
def Obligations.ReadClearLosesNoEvent : Prop :=
  ∀ (addr : BitVec 22) (events : BitVec 8) (x : RegSpec) (s : State), s.wf → let e := portTurn s
    accessed addr.toNat 15 e = some x → x.rc ≠ 0 → x.isLow = false → x.isHigh = false →
    addr.toNat ≠ FAB_FUNC_STAT.reg.off → addr.toNat ≠ CEL_HEADROOM_STAT.reg.off →
    (∀ k < 5, addr.toNat ≠ (PRS_REORDER_STAT.reg k).off) →
    (∀ r ∈ [TIM_SEC_HI.reg.off, TIM_CAP_SEC.reg.off, TIM_CAP_NS.reg.off, AUX_WAKE_DATA.reg.off], addr.toNat ≠ r) →
    Completes (.rcFieldRead addr 15 events) s [.regs, .rdata] (fun t =>
      t.rdata = viewed addr.toNat x e
      ∧ regW (regAt addr.toNat x) t = (regW (regAt addr.toNat x) e &&& ~~~x.rc)
          ||| BitVec.ofNat 32 (min events.toNat (x.rc.toNat / 2 ^ lowBit x.rc) * 2 ^ lowBit x.rc)
      ∧ regsLeft [addr.toNat] e t)

/-! ### Channels: doorbells, commands, contexts (spec/02, spec/03) -/

/-- TRANSMIT_DOORBELL, RECEIVE_DOORBELL and POLL_INTERVAL (R54 to R57). A doorbell of a RUNNING channel reads the
producer index of that direction of the channel's index block; while such a read waits to be issued, the doorbell
coalesces into it, and while one is outstanding, it asks for one further read. No other channel changes. A doorbell of
a channel that is not RUNNING is counted in db_drop_cnt and ignored, and a write to any other offset of the channel's
page has no effect. While polling is enabled, the interval of a RUNNING channel reads both indices once neither read
is outstanding; else it does nothing: that an interval does nothing while a read is outstanding is the model's own
choice (log entry 14), and so is that a timer does nothing outside the state in which it runs (log entry 8). -/
def Obligations.DoorbellReadsProducerIndex : Prop :=
  ∀ (c : BitVec 13) (addr : BitVec 25) (wide : Bool) (s : State), s.wf → live s = true →
    let ch := chan c.toNat s
    (fbit FAB_DB_CFG.db_en s = true →
    (addr.toNat = c.toNat * 0x1000 → ch.state = .running →
      Completes (.transmitDoorbell addr wide) s [.chans, .fabric] (fun t =>
        chansLeft c.toNat s t ∧ (chan c.toNat t).tx.idxOut = true ∧ (chan c.toNat t).rx = ch.rx
        ∧ (ch.tx.idxOut = false → Submits false ch.ctx.func ch.ctx.idxAddr 4 (.txProd c.toNat) s t)
        ∧ (ch.tx.idxOut = true → t.fabric.nextId = s.fabric.nextId
            ∧ (readWaits (.txProd c.toNat) s = true → chan c.toNat t = ch)
            ∧ (readWaits (.txProd c.toNat) s = false → (chan c.toNat t).tx.idxAgain = true))))
    ∧ (addr.toNat = c.toNat * 0x1000 + 8 → ch.state = .running →
      Completes (.receiveDoorbell addr wide) s [.chans, .fabric] (fun t =>
        chansLeft c.toNat s t ∧ (chan c.toNat t).rx.idxOut = true ∧ (chan c.toNat t).tx = ch.tx
        ∧ (ch.rx.idxOut = false → Submits false ch.ctx.func (ch.ctx.idxAddr + 4) 4 (.rxProd c.toNat) s t)
        ∧ (ch.rx.idxOut = true → t.fabric.nextId = s.fabric.nextId
            ∧ (readWaits (.rxProd c.toNat) s = true → chan c.toNat t = ch)
            ∧ (readWaits (.rxProd c.toNat) s = false → (chan c.toNat t).rx.idxAgain = true))))
    ∧ (ch.state ≠ .running →
      (addr.toNat = c.toNat * 0x1000 → Completes (.transmitDoorbell addr wide) s [.regs] (fun t =>
        fget FAB_DB_CFG.db_drop_cnt t = min (fget FAB_DB_CFG.db_drop_cnt s + 1) 65535
          ∧ regsLeft [FAB_DB_CFG.reg.off] s t))
      ∧ (addr.toNat = c.toNat * 0x1000 + 8 → Completes (.receiveDoorbell addr wide) s [.regs] (fun t =>
        fget FAB_DB_CFG.db_drop_cnt t = min (fget FAB_DB_CFG.db_drop_cnt s + 1) 65535
          ∧ regsLeft [FAB_DB_CFG.reg.off] s t)))
    ∧ (addr.toNat % 0x1000 ≠ 0 → Completes (.transmitDoorbell addr wide) s [] (fun t => t.chans = s.chans))
    ∧ (addr.toNat % 0x1000 ≠ 8 → Completes (.receiveDoorbell addr wide) s [] (fun t => t.chans = s.chans)))
    ∧ (fbit FAB_DB_CFG.poll_en s = true → ch.state = .running → ch.ctx.pollK ≤ 22 →
      ch.tx.idxOut = false → ch.rx.idxOut = false →
      Completes (.pollInterval c) s [.chans, .fabric] (fun t =>
        chansLeft c.toNat s t ∧ (chan c.toNat t).tx.idxOut = true ∧ (chan c.toNat t).rx.idxOut = true
        ∧ t.fabric.nextId = s.fabric.nextId + 2
        ∧ Submits false ch.ctx.func ch.ctx.idxAddr 4 (.txProd c.toNat) s t
        ∧ Sends false ch.ctx.func (ch.ctx.idxAddr + 4) [] (.rxProd c.toNat) s t))
    ∧ (fbit FAB_DB_CFG.poll_en s = false ∨ ch.state ≠ .running ∨ 22 < ch.ctx.pollK ∨ ch.tx.idxOut = true
        ∨ ch.rx.idxOut = true → exec (.pollInterval c) s = .next s)

/-- START, START_FRESH and CHN_CMD_INVALID (R40, R82, R90, R99, R420). START of a channel that is DISABLED or STOPPED,
while the fabric is enabled and block-level requests may be issued, reads the channel context entry and leaves the
channel's state until its context is known; START_FRESH does the same where no accepted work is outstanding. A word of
the retention book corrected for it is counted; an error of one mirror beyond its code sets mirror_fault and is
posted. START and START_FRESH of an active channel, of one whose START or write-back is in progress, or while they may
issue nothing, START_FRESH with accepted work outstanding, and command codes 5 to 7 set cmd_rejected and change
nothing else; code 0 does nothing. That a START whose owner function may issue nothing is rejected is the model's own
choice (log entry 15), for R371 does not list it. -/
def Obligations.StartReadsChannelContext : Prop :=
  ∀ (cmd : BitVec 3) (b : BookRead) (s : State), s.wf → regLive s = true →
    let c := selected s
    let reads := fun (fresh : Bool) (t : State) =>
      chansLeft c s t ∧ (chan c t).state = (chan c s).state
        ∧ (chan c t).startOp = some { fresh := fresh, phase := .context, next := {} }
        ∧ Submits false (ownerFunc s) (ctxAddr c s) 128 (.chanCtx c) s t
    let rejects := fun (t : State) => chan c t = { chan c s with rejected := true } ∧ chansLeft c s t
    let faulted := fun (t : State) => t.book.oneMirror = true ∧ fbit AUX_BOOK_STAT.mirror_fault t = true
        ∧ (s.errors.count < 64 → t.errors.count = s.errors.count + 1)
    ((chan c s).startOp = none → (chan c s).active = false → (chan c s).writeBack = false → fbit FAB_CTL.en s = true →
      mayIssue (ownerFunc s) s = true →
      Completes (.start .clean) s [.regs, .chans, .fabric] (fun t => reads false t ∧ regsLeft [FAB_CTX_CACHE_STAT.reg.off] s t)
      ∧ Completes (.start .corrected) s [.regs, .chans, .fabric, .errors] (fun t => reads false t
          ∧ fget GLB_ERR_CTL.corr_cnt t = min (fget GLB_ERR_CTL.corr_cnt s + 1) 65535)
      ∧ Completes (.start .mirrorError) s [.regs, .chans, .book, .fabric, .errors] (fun t => reads false t ∧ faulted t)
      ∧ (freshOk c s = true →
        Completes (.startFresh .clean) s [.regs, .chans, .fabric] (fun t =>
          reads true t ∧ regsLeft [FAB_CTX_CACHE_STAT.reg.off] s t)
        ∧ Completes (.startFresh .corrected) s [.regs, .chans, .fabric, .errors] (fun t => reads true t
          ∧ fget GLB_ERR_CTL.corr_cnt t = min (fget GLB_ERR_CTL.corr_cnt s + 1) 65535)
        ∧ Completes (.startFresh .mirrorError) s [.regs, .chans, .book, .fabric, .errors] (fun t =>
          reads true t ∧ faulted t)))
    ∧ ((chan c s).active = true ∨ (chan c s).startOp ≠ none ∨ (chan c s).writeBack = true ∨ fbit FAB_CTL.en s = false
          ∨ mayIssue (ownerFunc s) s = false →
        Completes (.start b) s [.chans] rejects ∧ Completes (.startFresh b) s [.chans] rejects)
    ∧ (freshOk c s = false → Completes (.startFresh b) s [.chans] rejects)
    ∧ (4 < cmd.toNat → Completes (.chnCmdInvalid cmd) s [.chans] rejects)
    ∧ Completes (.chnCmdInvalid 0) s [] (fun t => t.chans = s.chans)

/-- STOP and RESET (R82, R83, R86, R90, R113, R495). STOP of a RUNNING or FENCED channel drops the frames queued to it
and makes it STOPPING; with no work left its block-written context fields are written back, or deferred where its
function may issue nothing, and then it is STOPPED. RESET of a RUNNING, STOPPING or FENCED channel drops queued frames
and every chain that is not launched, the accepted point goes back to the launched one, and the channel is RESETTING,
or STOPPED where nothing is outstanding and the write is deferred; while the write-back of a STOPPING channel is under
way it is taken too, no second write-back goes out, and the channel is RESETTING until that write is answered (R90).
STOP in any other state, as STOPPING, RESET in any other, as RESETTING, and both while a START is in progress are
rejected. -/
def Obligations.StopAndReset : Prop :=
  ∀ s : State, s.wf → regLive s = true →
    let c := selected s
    let ch := chan c s
    let rejects := fun (t : State) => chan c t = { ch with rejected := true } ∧ chansLeft c s t
    (ch.startOp = none → ch.writeBack = false → (ch.state = .running ∨ ch.state = .fenced) →
      Completes .stop s (mayChange .stop) (fun t =>
        (chan c t).rx.queue = [] ∧ ((chan c t).state = .stopping ∨ (chan c t).state = .stopped)
        ∧ (workDone c s = true → mayIssue ch.ctx.func s = true →
            (chan c t).state = .stopping ∧ (chan c t).writeBack = true
            ∧ Sends true (ownerFunc s) (ctxAddr c s + 0x50) (cvBytes ch.tx.cv ch.rx.cv) (.writeBack c) s t)
        ∧ (workDone c s = true → mayIssue ch.ctx.func s = false →
            (chan c t).state = .stopped ∧ (chan c t).deferred = true
            ∧ (chan c t).keptCv = some (ch.tx.cv, ch.rx.cv))))
    ∧ (ch.startOp = none → ch.writeBack = false →
        (ch.state = .running ∨ ch.state = .stopping ∨ ch.state = .fenced) →
      Completes .reset s (mayChange .reset) (fun t =>
        (chan c t).rx.queue = [] ∧ ((chan c t).state = .resetting ∨ (chan c t).state = .stopped)
        ∧ (∀ k ∈ (chan c t).tx.chains, k.stage = .launched)
        ∧ (points c t).accepted = (points c s).launched))
    ∧ (ch.startOp = none → ch.writeBack = true → ch.state = .stopping →
      Completes .reset s (mayChange .reset) (fun t =>
        (chan c t).rx.queue = [] ∧ (chan c t).state = .resetting ∧ (chan c t).writeBack = true
        ∧ (∀ k ∈ (chan c t).tx.chains, k.stage = .launched)
        ∧ (points c t).accepted = (points c s).launched ∧ (∀ r ∈ t.fabric.reqs, r.purpose = .writeBack c → r.id < s.fabric.nextId)))
    ∧ (ch.startOp ≠ none ∨ (ch.state ≠ .running ∧ ch.state ≠ .fenced) → Completes .stop s [.chans] rejects)
    ∧ (ch.startOp ≠ none ∨ (ch.state ≠ .running ∧ ch.state ≠ .stopping ∧ ch.state ≠ .fenced) →
        Completes .reset s [.chans] rejects)

/-- CONTEXT_READ_COMPLETE and the end of a START (R38, R40, R41, R82, R102, R367). A channel context entry that is
legal, with a ring whose context the block does not hold, is followed by the read of the completion context entry,
once memory holds the ring's prod_index (the order of the reads, which STARTs read the index block, and the wait for
prod_index are the model's own choice, log entry 15). An entry with a value that R41 or R330 names, or of a function
that may not start it, and an error response, end the START: cmd_rejected sets, the channel keeps its state, and
nothing else of it changes but writes of its index block that waited for the START's end, which now go out; an error
response also sets ctx_fault. A completion context entry is taken over; if its function is the channel's, a channel
that has resumed since power-on reset writes its indices, book copy and report, and another reads its index block
first; a START_FRESH writes zeros and reads none; else the START is rejected. When the last of the three writes is
acknowledged, the channel is RUNNING with its new context, at its points, and both producer indices are read; where
the entry that was read has cons_index beyond the ring, it is fenced at once with reason 11 (R72; the instant is the
model's own choice, log entry 15). -/
def Obligations.ContextReadCompletes : Prop :=
  ∀ (req c : Nat) (r : Req) (bs : Bytes) (op : StartOp) (s : State), s.wf → Awaits req r s →
    (chan c s).startOp = some op → (chan c s).active = false →
    let rejects := fun (t : State) =>
      Answered req t ∧ (chan c t).state = (chan c s).state ∧ (chan c t).startOp = none ∧ (chan c t).rejected = true
      ∧ ((chan c s).idxDirty = false → (chan c s).bkDirty = false →
          chan c t = { chan c s with startOp := none, rejected := true })
      ∧ chansLeft c s t
    (r.write = false → r.purpose = .chanCtx c →
      (bs.length = r.len → ctxRes0Bad bs = false → (parseCtx bs).bad s = false →
        funcStartBad (parseCtx bs).func s = false → ringHeld (parseCtx bs).cring s = false →
        Completes (.contextReadComplete req (.data bs)) s [.chans, .fabric] (fun t =>
          Answered req t ∧ (chan c t).state = (chan c s).state
          ∧ (∃ o, (chan c t).startOp = some o ∧ o.phase = .cring ∧ o.next.ctx = parseCtx bs)
          ∧ (ringUnsettled (parseCtx bs).cring s = false →
              Submits false (ownerFunc s) (cctxAddr (parseCtx bs).cring s) 64 (.cringCtx c (parseCtx bs).cring) s t)))
      ∧ (bs.length = r.len → ctxRes0Bad bs = true ∨ (parseCtx bs).bad s = true ∨ funcStartBad (parseCtx bs).func s = true →
        Completes (.contextReadComplete req (.data bs)) s [.chans, .fabric] rejects)
      ∧ Completes (.contextReadComplete req .error) s [.regs, .chans, .fabric] (fun t =>
          rejects t ∧ fbit FAB_STAT.ctx_fault t = true))
    ∧ (r.write = false → ∀ n, r.purpose = .cringCtx c n → op.next.ctx.cring = n → ringHeld n s = false →
        bs.length = r.len →
        ((parseCring bs (ring n s)).func ≠ op.next.ctx.func →
          Completes (.contextReadComplete req (.data bs)) s [.chans, .rings, .fabric] rejects)
        ∧ ((parseCring bs (ring n s)).func = op.next.ctx.func → op.fresh = false →
          Completes (.contextReadComplete req (.data bs)) s [.chans, .rings, .fabric] (fun t =>
            Answered req t ∧ ring n t = parseCring bs (ring n s) ∧ (chan c t).state = (chan c s).state
            ∧ ((chan c s).resumed = false →
                Submits false op.next.ctx.func op.next.ctx.idxAddr 64 (.startIndex c) s t)
            ∧ ((chan c s).resumed = true → t.fabric.nextId = s.fabric.nextId + 3
              ∧ (∃ o, (chan c t).startOp = some o ∧ o.phase = .report ∧ o.next.epoch = (chan c s).epoch + 1)
              ∧ Sends true op.next.ctx.func (op.next.ctx.idxAddr + 0x18)
                  (leBytes 4 (points c s).launched.toNat ++ leBytes 4 (points c s).sent.toNat
                    ++ leBytes 4 (points c s).delivered.toNat ++ leBytes 4 ((chan c s).epoch + 1).toNat)
                  (.startWrite c) s t)))
        ∧ ((parseCring bs (ring n s)).func = op.next.ctx.func → op.fresh = true →
          Completes (.contextReadComplete req (.data bs)) s [.chans, .rings, .fabric] (fun t =>
            Answered req t ∧ ring n t = parseCring bs (ring n s) ∧ (chan c t).state = (chan c s).state
            ∧ t.fabric.nextId = s.fabric.nextId + 3
            ∧ (∃ o, (chan c t).startOp = some o ∧ o.phase = .report ∧ o.fresh = true ∧ o.next.epoch = 0
                ∧ o.next.points = some {})
            ∧ Sends true op.next.ctx.func (op.next.ctx.idxAddr + 0x18) (leBytes 16 0) (.startWrite c) s t)))
    ∧ (r.write = true → r.purpose = .startWrite c → op.phase = .report →
        (∀ q ∈ s.fabric.reqs, q.id ≠ req → q.isStart c = false) →
        (op.next.consBad = true → Completes (.fabricWriteAck req false) s (mayChange (.fabricWriteAck req false)) (fun t =>
          Answered req t ∧ (chan c t).state = .fenced ∧ (chan c t).fence = some ⟨true, 11, 0⟩
          ∧ (chan c t).ctx = op.next.ctx))
        ∧ (op.next.consBad = false → Completes (.fabricWriteAck req false) s (mayChange (.fabricWriteAck req false)) (fun t =>
          Answered req t ∧ (chan c t).state = .running ∧ (chan c t).startOp = none ∧ (chan c t).fence = none
          ∧ (chan c t).ctx = op.next.ctx ∧ (chan c t).epoch = op.next.epoch
          ∧ points c t = op.next.points.getD (bookPoints c s) ∧ (chan c t).tx.accepted = (points c t).accepted
          ∧ (chan c t).tx.idxOut = true ∧ (chan c t).rx.idxOut = true)))

/-- CTX_INVAL_CHANNEL, CTX_INVAL_CRING, RING_RESET and CTX_INVAL_READ_COMPLETE (R42, R89, R496). With no invalidation
in progress, a go reads the live fields of a RUNNING channel or of a ring again. A ring reset acts when no channel of
the ring is active: it sets prod_index to 0 and clears stalled, in the block and, by the same write, in memory, reads
the live fields, and keeps the backlog; else it is ignored. A go for a channel that is not RUNNING, and a go while an
invalidation is in progress, are ignored. The completions apply the live fields of the channel or ring and of no
other, and the acknowledged write ends its part of the invalidation. -/
def Obligations.ContextInvalidation : Prop :=
  ∀ (c : BitVec 13) (n : BitVec 12) (s : State), s.wf →
    (regLive s = true →
      (s.fabric.invalBusy = 0 →
        ((chan c.toNat s).state = .running → Completes (.ctxInvalChannel c) s [.regs, .fabric] (fun t =>
          Submits false (ownerFunc s) (ctxAddr c.toNat s) 128 (.liveChan c.toNat) s t ∧ t.fabric.invalBusy = 1
          ∧ regsLeft [FAB_CTX_INVAL.reg.off] s t))
        ∧ Completes (.ctxInvalCring n) s [.regs, .fabric] (fun t =>
          Submits false (ownerFunc s) (cctxAddr n.toNat s) 64 (.liveCring n.toNat) s t ∧ t.fabric.invalBusy = 1
          ∧ regsLeft [FAB_CTX_INVAL.reg.off] s t)
        ∧ ((∀ d, (chan d s).active = true → (chan d s).ctx.cring ≠ n.toNat) →
          Completes (.ringReset n) s [.regs, .rings, .fabric] (fun t =>
            (ring n.toNat t).prod = 0 ∧ (ring n.toNat t).prodKept = true ∧ (ring n.toNat t).stalled = false
            ∧ t.fabric.invalBusy = 2 ∧ (∀ m, m ≠ n.toNat → ring m t = ring m s)
            ∧ t.fabric.nextId = s.fabric.nextId + 2
            ∧ Submits false (ownerFunc s) (cctxAddr n.toNat s) 64 (.liveCring n.toNat) s t
            ∧ Sends true (ownerFunc s) (cctxAddr n.toNat s + 0x28) (leBytes 8 0) (.ringResetWrite n.toNat) s t)))
      ∧ ((chan c.toNat s).state ≠ .running ∨ s.fabric.invalBusy ≠ 0 →
        Completes (.ctxInvalChannel c) s [.regs] (fun t => regsLeft [FAB_CTX_INVAL.reg.off] s t))
      ∧ (s.fabric.invalBusy ≠ 0 →
        Completes (.ctxInvalCring n) s [.regs] (fun t => regsLeft [FAB_CTX_INVAL.reg.off] s t))
      ∧ (s.fabric.invalBusy ≠ 0 ∨ ((chan c.toNat s).active = true ∧ (chan c.toNat s).ctx.cring = n.toNat) →
        Completes (.ringReset n) s [.regs] (fun t => regsLeft [FAB_CTX_INVAL.reg.off] s t)))
    ∧ (∀ (req : Nat) (r : Req) (bs : Bytes), Awaits req r s →
        (r.write = false → r.purpose = .liveChan c.toNat → bs.length = r.len → (chan c.toNat s).state = .running →
          Completes (.ctxInvalReadComplete req (.data bs)) s [.chans, .ports, .fabric] (fun t =>
            Answered req t ∧ chansLeft c.toNat s t ∧ (chan c.toNat t).state = .running
            ∧ (chan c.toNat t).ctx = { (chan c.toNat s).ctx with
                pollK := (parseCtx bs).pollK, weight := (parseCtx bs).weight, burst := (parseCtx bs).burst,
                cir := (parseCtx bs).cir, pir := (parseCtx bs).pir, cbs := (parseCtx bs).cbs, pbs := (parseCtx bs).pbs }
            ∧ t.fabric.invalBusy = s.fabric.invalBusy - 1))
        ∧ (r.write = false → r.purpose = .liveCring n.toNat → bs.length = r.len →
          Completes (.ctxInvalReadComplete req (.data bs)) s [.rings, .fabric] (fun t =>
            Answered req t ∧ ring n.toNat t = parseCringLive bs (ring n.toNat s)
            ∧ (∀ m, m ≠ n.toNat → ring m t = ring m s) ∧ t.fabric.invalBusy = s.fabric.invalBusy - 1))
        ∧ (r.write = true → r.purpose = .ringResetWrite n.toNat →
          Completes (.fabricWriteAck req false) s [.fabric] (fun t =>
            Answered req t ∧ t.fabric.invalBusy = s.fabric.invalBusy - 1)))

/-- INDEX_BLOCK_READ_COMPLETE of a producer index (R51), on the transmit side and on the receive side. A value at most
the ring's size ahead of the done index of its ring and of the value held before is taken; one further ahead of the
done index fences the channel with reason 7, and else one further ahead of the value held, which has moved backward,
with reason 8; a fence posts an error record. -/
def Obligations.ProducerIndexIsChecked : Prop :=
  ∀ (req c : Nat) (r : Req) (bs : Bytes) (s : State), s.wf → Awaits req r s → r.write = false →
    bs.length = r.len → (chan c s).state = .running →
    let p := BitVec.ofNat 32 (leNat bs)
    let tx := (chan c s).tx
    let rx := (chan c s).rx
    let sizeT := 2 ^ (chan c s).ctx.txLog2
    let sizeR := 2 ^ (chan c s).ctx.rxLog2
    let fences := fun (fromRx : Bool) (reason : Nat) =>
      Completes (.indexBlockReadComplete req (.data bs)) s
        [.regs, .chans, .rings, .cellar, .fabric, .errors, .pmu] (fun t =>
          (chan c t).state = .fenced ∧ (chan c t).rx.queue = []
          ∧ ((chan c s).fence = none → (chan c t).fence = some ⟨fromRx, reason, 0⟩)
          ∧ (s.errors.count < 64 → t.errors.count = s.errors.count + 1))
    (r.purpose = .txProd c →
      (used p tx.done ≤ sizeT → used p tx.prod ≤ sizeT →
        Completes (.indexBlockReadComplete req (.data bs)) s [.chans, .fabric] (fun t =>
          Answered req t ∧ chansLeft c s t ∧ (chan c t).tx.prod = p ∧ (chan c t).state = .running
          ∧ (chan c t).tx.done = tx.done ∧ (chan c t).rx = rx))
      ∧ (sizeT < used p tx.done → fences false 7)
      ∧ (used p tx.done ≤ sizeT → sizeT < used p tx.prod → fences false 8))
    ∧ (r.purpose = .rxProd c →
      (used p rx.done ≤ sizeR → used p rx.prod ≤ sizeR →
        Completes (.indexBlockReadComplete req (.data bs)) s [.chans, .fabric] (fun t =>
          Answered req t ∧ chansLeft c s t ∧ (chan c t).rx.prod = p ∧ (chan c t).state = .running
          ∧ (chan c t).rx.done = rx.done ∧ (chan c t).tx = tx))
      ∧ (sizeR < used p rx.done → fences true 7)
      ∧ (used p rx.done ≤ sizeR → sizeR < used p rx.prod → fences true 8))

/-! ### Descriptors, chains, received frames and completions (spec/02, spec/03, spec/05) -/

/-- DESCRIPTOR_READ_COMPLETE (R58 to R63). A transmit descriptor that is well formed and not the last of its chain is
held; one that is the last makes its chain accepted, and tx_accepted passes the chain; a malformed one fences the
channel with the first reason that it meets and status 0x40, and its descriptors are passed as well. A buffer
descriptor is held behind those before it; where frames may wait, the queue of the channel stays. -/
def Obligations.DescriptorReadCompletes : Prop :=
  ∀ (req c : Nat) (r : Req) (bs : Bytes) (s : State), s.wf → Awaits req r s → r.write = false → bs.length = r.len →
    (chan c s).state = .running →
    let ch := chan c s
    let ds := ch.tx.partialDescs ++ [parseTxDesc bs]
    let u := ch.tx.accepted + BitVec.ofNat 32 ds.length
    (r.purpose = .txDesc c →
      (txDescReason ch.tx.partialDescs (parseTxDesc bs) = none → (parseTxDesc bs).last = false →
        Completes (.descriptorReadComplete req (.data bs)) s [.chans, .fabric] (fun t =>
          Answered req t ∧ chansLeft c s t ∧ (chan c t).tx.partialDescs = ds ∧ (chan c t).tx.accepted = ch.tx.accepted))
      ∧ (txDescReason ch.tx.partialDescs (parseTxDesc bs) = none → (parseTxDesc bs).last = true →
        Completes (.descriptorReadComplete req (.data bs)) s (mayChange (.descriptorReadComplete req (.data bs)))
          (fun t => Answered req t ∧ (chan c t).tx.partialDescs = [] ∧ (chan c t).tx.accepted = u
            ∧ (points c t).accepted = u ∧ (chan c t).state = .running))
      ∧ (∀ reason, txDescReason ch.tx.partialDescs (parseTxDesc bs) = some reason →
        Completes (.descriptorReadComplete req (.data bs)) s (mayChange (.descriptorReadComplete req (.data bs)))
          (fun t => (chan c t).state = .fenced ∧ (points c t).accepted = u
            ∧ (ch.fence = none → (chan c t).fence = some ⟨false, reason, 0x40⟩))))
    ∧ (r.purpose = .rxDesc c →
      Completes (.descriptorReadComplete req (.data bs)) s (mayChange (.descriptorReadComplete req (.data bs))) (fun t =>
        Answered req t ∧ chansLeft c s t ∧ (chan c t).rx.descs = ch.rx.descs ++ [parseRxDesc bs]
        ∧ (chan c t).rx.fetch = ch.rx.fetch + 1 ∧ (chan c t).tx = ch.tx
        ∧ (fget CEL_WAIT_LIMIT.limit_us s ≠ 0 →
            (chan c t).rx.queue = ch.rx.queue ∧ ChangesOnly [.chans, .fabric] s t)))

/-- CHAIN_STAGE and TX_DATA_READ_COMPLETE (R173, R367). The chain that has waited longest takes its cells of the
transmit region when they are free, and its data is read; while they are not, it and every chain behind it wait. Data
that is not the last missing piece is kept; with the last piece the chain is staged with the pieces joined, and its
header copy waits at the press of the channel's home row. An error response makes the chain complete with status 0x41
in its place, and fences the channel with reason 9. -/
def Obligations.ChainsAreStaged : Prop :=
  (∀ (c : Nat) (first : Word) (rest : List (Nat × Word)) (k : Chain) (s : State), s.wf → live s = true →
      s.cellar.txWaiting = (c, first) :: rest → chainOf c first s = some k →
      (k.needs ≤ txFree s → Completes .chainStage s [.chans, .cellar, .fabric] (fun t =>
        chansLeft c s t ∧ (∃ j, chainOf c first t = some j ∧ j.stage = .reading ∧ j.cells = k.needs)
        ∧ s.cellar.txUsed + k.needs ≤ t.cellar.txUsed
        ∧ s.fabric.nextId + (chainFrags k.descs).length ≤ t.fabric.nextId))
      ∧ (txFree s < k.needs → Completes .chainStage s [] (fun t => t.cellar.txWaiting = s.cellar.txWaiting)))
  ∧ (∀ (req c : Nat) (first : Word) (i : Nat) (k : Chain) (f : Frag) (r : Req) (bs : Bytes) (s : State), s.wf →
        Awaits req r s → r.write = false → r.purpose = .txData c first i → bs.length = r.len → (chan c s).state = .running →
        chainOf c first s = some k → k.stage = .reading → k.frags[i]? = some f →
        let fs := setNth i { f with data := some bs } k.frags
        (fs.any (·.data.isNone) = true → Completes (.txDataReadComplete req (.data bs) .agree) s [.chans, .fabric] (fun t =>
          Answered req t ∧ chansLeft c s t ∧ chainOf c first t = some { k with frags := fs }))
        ∧ (fs.any (·.data.isNone) = false →
          Completes (.txDataReadComplete req (.data bs) .agree) s [.regs, .chans, .fabric, .presses] (fun t =>
            Answered req t ∧ chansLeft c s t
            ∧ chainOf c first t = some { k with frags := fs, data := fs.flatMap fun x => x.data.getD [], stage := .staged }
            ∧ (press (ownerPress (chan c s).ctx.homeRow s) t).waiting.length
                = (press (ownerPress (chan c s).ctx.homeRow s) s).waiting.length + 1))
        ∧ Completes (.txDataReadComplete req .error .agree) s (mayChange (.txDataReadComplete req .error .agree)) (fun t =>
            (chan c t).state = .fenced ∧ ((chan c s).fence = none → (chan c t).fence = some ⟨false, 9, 0x41⟩)
            ∧ ∀ j, chainOf c first t = some j → j.stage = .settling 0x41))

/-- CHAIN_SETTLE (R92, R98, R494). The head chain of a RUNNING channel that settles with a status gives its outcome
once a slot of its ring is free: it leaves the channel, the launched and sent points pass it together, and its
completion entry of 32 bytes is written at prod_index. -/
def Obligations.HeadChainSettles : Prop :=
  ∀ (c : BitVec 13) (k : Chain) (status : Nat) (s : State), s.wf → live s = true →
    let n := (chan c.toNat s).ctx.cring
    (chan c.toNat s).state = .running → (chan c.toNat s).tx.chains = [k] → k.stage = .settling status →
    s.book.pool = [] → (ring n s).full = false →
    Completes (.chainSettle c) s (mayChange (.chainSettle c)) (fun t =>
      (chan c.toNat t).tx.chains = [] ∧ (points c.toNat t).launched = k.stop ∧ (points c.toNat t).sent = k.stop
      ∧ (ring n t).prod = (ring n s).prod + 1
      ∧ ∃ r ∈ t.fabric.reqs, r.write = true ∧ r.len = 32 ∧ r.func = (ring n s).func
          ∧ r.purpose = .entry n (chainEntry c.toNat k status none [] s) k.stop (ring n s).prod
          ∧ r.data = (chainEntry c.toNat k status none [] s).bytes (phaseOf (ring n s).prod (ring n s).sizeLog2)
          ∧ r.addr = (ring n s).base + BitVec.ofNat 64 ((ring n s).prod.toNat % 2 ^ (ring n s).sizeLog2 * 32))

/-- RECEIVE_ASSIGN (R65, R67, R68, R171, R335, R339). With buffers posted that hold the frame at the head of a
channel's queue, a free slot of its ring and free log slots for its check values, where the channel has them, the
frame is assigned: rx_taken advances by the buffers it takes, it leaves the queue, and its bytes are written. Where
its log slots are not free, or its check values disagree twice, it waits. A descriptor that is malformed, or a frame
that needs more than 32 buffers, fences the channel with its reason, 6 for the latter, and status 0x40; with too few
descriptors the frame waits; and a frame of which a cell cannot be corrected leaves the queue unassigned. The frames
behind it stay, where frames may wait. That rx_taken passes 32 descriptors in the case of reason 6 is the model's own
choice (log entry 22), and so is that a frame of which a cell cannot be corrected leaves its buffers posted (log entry
71). -/
def Obligations.FrameIsAssigned : Prop :=
  ∀ (c : BitVec 13) (q : RxRef) (rest : List RxRef) (v : CvCheck) (w : CellWord) (s : State), s.wf → live s = true →
    accepts c.toNat s = true → (chan c.toNat s).rx.queue = q :: rest →
    inflightFull c.toNat true s = false → (ring (chan c.toNat s).ctx.cring s).full = false →
    let ch := chan c.toNat s
    let len := deliveredLen ch.ctx q.bytes
    let waits := fget CEL_WAIT_LIMIT.limit_us s ≠ 0
    let fences := fun (n reason : Nat) =>
      Completes (.receiveAssign c {} v) s (mayChange (.receiveAssign c {} v)) (fun t =>
        (chan c.toNat t).state = .fenced ∧ (chan c.toNat t).rx.taken = ch.rx.taken + BitVec.ofNat 32 n
        ∧ (ch.fence = none → (chan c.toNat t).fence = some ⟨true, reason, 0x40⟩))
    let need := logCount c.toNat (rxLogNeed ch q.bytes) s
    let room := ch.log.free ch.ctx.logLog2
    let twice := ch.ctx.conf.rxEn = true ∧ s.cvTest.rxAlone = false ∧ ∃ b, v = .mismatchTwice b
    (∀ n, coverDescs len 0 ch.rx.descs = .covered n → 4 < q.bytes.length → ¬twice → need ≤ room →
      Completes (.receiveAssign c {} v) s (mayChange (.receiveAssign c {} v)) (fun t =>
        (chan c.toNat t).rx.taken = ch.rx.taken + BitVec.ofNat 32 n
        ∧ (chan c.toNat t).rx.descs = ch.rx.descs.drop n ∧ (waits → (chan c.toNat t).rx.queue = rest)
        ∧ ∃ a ∈ (chan c.toNat t).rx.assigned, a.frame = q.frame ∧ a.first = ch.rx.taken ∧ a.n = n ∧ a.done = false))
    ∧ (∀ n, coverDescs len 0 ch.rx.descs = .covered n → twice →
        Completes (.receiveAssign c {} v) s [.regs, .cvTest, .errors] (fun t => t.chans = s.chans))
    ∧ (∀ n, coverDescs len 0 ch.rx.descs = .covered n → v = .agree → room < need →
        Completes (.receiveAssign c {} v) s [.regs, .chans, .fabric] (fun t =>
          (chan c.toNat t).rx = { ch.rx with logWait := some q.frame } ∧ chansLeft c.toNat s t
          ∧ fget CVU_STAT.log_wait_cnt t
              = (if ch.rx.logWait = some q.frame then fget CVU_STAT.log_wait_cnt s
                 else min (fget CVU_STAT.log_wait_cnt s + 1) 65535)))
    ∧ (∀ n reason, coverDescs len 0 ch.rx.descs = .malformed n reason → fences n reason)
    ∧ (coverDescs len 0 ch.rx.descs = .tooMany → fences 32 6)
    ∧ (coverDescs len 0 ch.rx.descs = .short →
      Completes (.receiveAssign c {} v) s (mayChange (.receiveAssign c {} v)) (fun t =>
        (chan c.toNat t).rx.taken = ch.rx.taken ∧ chansLeft c.toNat s t
        ∧ (waits → (chan c.toNat t).rx.queue = q :: rest ∧ ChangesOnly [.chans, .fabric] s t)))
    ∧ (coverDescs len 0 ch.rx.descs ≠ .short →
      Completes (.receiveAssign c { bad := some w } v) s (mayChange (.receiveAssign c { bad := some w } v)) (fun t =>
        (chan c.toNat t).rx.taken = ch.rx.taken ∧ (waits → (chan c.toNat t).rx.queue = rest)))

/-- RX_WAIT_LIMIT (R191 to R193). A frame in drop mode leaves the queue unassigned at its limit; one in pause mode
stays, and places one receive hold for its port and priority. A frame that has placed its hold waits on, and with a
limit of 0 there is no frame whose wait could reach it. A write of CEL_WAIT_LIMIT sets limit_us, and no other
register; with 0, a drop-mode frame that the posted descriptors do not cover leaves the queue at once. -/
def Obligations.WaitLimitDropsOrHolds : Prop :=
  ∀ (c : BitVec 13) (id : Nat) (q : RxRef) (s : State), s.wf → live s = true →
    (chan c.toNat s).rx.queue.find? (fun r => r.frame == id) = some q →
    (fget CEL_WAIT_LIMIT.limit_us s ≠ 0 →
      (waitsPaused q s = false → Completes (.rxWaitLimit c id) s [.chans, .cellar, .fabric, .pmu] (fun t =>
        chansLeft c.toNat s t ∧ (chan c.toNat t).rx.queue = (chan c.toNat s).rx.queue.erase q))
      ∧ (∀ (f : Frame) (g : Nat), frame q.frame s = some f → f.port = some g → waitsPaused q s = true → q.held = false →
        Completes (.rxWaitLimit c id) s [.chans, .cellar, .fabric] (fun t =>
          chansLeft c.toNat s t ∧ (charge g f.prio t).holds = (charge g f.prio s).holds + 1
          ∧ (chan c.toNat t).rx.queue =
              (chan c.toNat s).rx.queue.map fun x => if x = q then { x with held := true } else x))
      ∧ (waitsPaused q s = true → q.held = true → Completes (.rxWaitLimit c id) s [.chans, .fabric] (fun t =>
        (chan c.toNat t).rx.queue = (chan c.toNat s).rx.queue)))
    ∧ (fget CEL_WAIT_LIMIT.limit_us s = 0 → exec (.rxWaitLimit c id) s = .next s)
    ∧ (∀ data : Word, regLive (portTurn s) = true →
      let e := portTurn s
      let rx := (chan c.toNat e).rx
      Completes (.registerWrite (BitVec.ofNat 22 CEL_WAIT_LIMIT.reg.off) 15 data 0) s
        [.regs, .chans, .cellar, .fabric, .pmu] (fun t =>
          fget CEL_WAIT_LIMIT.limit_us t = data.toNat % 2 ^ 14 ∧ regsLeft [CEL_WAIT_LIMIT.reg.off] e t
          ∧ (data.toNat % 2 ^ 14 = 0 → accepts c.toNat e = true → rx.queue = [q] → waitsPaused q e = false →
              coverDescs (deliveredLen (chan c.toNat e).ctx q.bytes) 0 rx.descs = .short → rx.descOut = false →
              rx.fetch = rx.prod → (chan c.toNat e).ctx.inflight = 0 → (chan c.toNat t).rx.queue = [])))

/-- FABRIC_WRITE_ACK of a completion entry (R44, R47, R367), in either direction. With the acknowledgement the done
index of the entry's direction advances over it, when no earlier entry waits, and else stays; an error response sets
err_resp_seen of the port, fences the channel with reason 10, and keeps the done index where it stands, which a later
acknowledgement does not bring past the failed entry. -/
def Obligations.EntryAcknowledged : Prop :=
  ∀ (req n p : Nat) (e : CEntry) (u i : Word) (r : Req) (s : State), s.wf → Awaits req r s → r.write = true →
    r.purpose = .entry n e u i → r.port = some p → p < 16 → (chan e.chan s).state = .running →
    let marks := fun (t : State) => if e.rx then (chan e.chan t).rx.marks else (chan e.chan t).tx.marks
    let done := fun (t : State) => if e.rx then (chan e.chan t).rx.done else (chan e.chan t).tx.done
    (∀ rest, marks s = ⟨u, false, false⟩ :: rest → (∀ m ∈ rest, m.written = false) →
      Completes (.fabricWriteAck req false) s [.chans, .rings, .fabric, .pmu] (fun t =>
        Answered req t ∧ chansLeft e.chan s t ∧ done t = u ∧ marks t = rest
        ∧ (ring n t).unacked = (ring n s).unacked.erase i))
    ∧ (∀ m rest, marks s = m :: rest → m.written = false → (m.upTo ≠ u ∨ m.failed = true) →
      Completes (.fabricWriteAck req false) s [.chans, .rings, .fabric, .pmu] (fun t =>
        Answered req t ∧ chansLeft e.chan s t ∧ done t = done s))
    ∧ Completes (.fabricWriteAck req true) s [.regs, .chans, .rings, .cellar, .fabric, .errors, .pmu] (fun t =>
        Answered req t ∧ (chan e.chan t).state = .fenced ∧ fbit (FAB_PORT_STAT.err_resp_seen p) t = true
        ∧ done t = done s ∧ (∀ rest, marks s = ⟨u, false, false⟩ :: rest → marks t = ⟨u, false, true⟩ :: rest)
        ∧ ((chan e.chan s).fence = none → (chan e.chan t).fence = some ⟨e.rx, 10, 0⟩))

/-- STALL_REREAD_TIMER, STALL_ALERT_TIMER, MODERATION_TIMER and CONS_INDEX_READ_COMPLETE (R72 to R78). A stalled ring
reads cons_index again; once its stall has lasted stall_time, one alert is posted for each channel with a backlog on
it, and not again; and a moderated ring raises its event, which covers every entry written. On a ring that is not in
such a state the timers do nothing (the model's own choice, log entry 8). A cons_index no further behind prod_index
than the ring is long is taken; another fences the ring's channels, reason 11. -/
def Obligations.CompletionRingsAdvance : Prop :=
  ∀ (n : BitVec 12) (s : State), s.wf →
    let r := ring n.toNat s
    (live s = true →
    (r.stalled = true → r.consOut = false → Completes (.stallRereadTimer n) s [.rings, .fabric] (fun t =>
      ring n.toNat t = { r with consOut := true }
      ∧ Submits false (ownerFunc s) (cctxAddr n.toNat s + 0x20) 4 (.consIndex n.toNat) s t))
    ∧ (r.stalled = true → r.alerted = false → r.stallTime ≠ 0 →
      Completes (.stallAlertTimer n) s [.regs, .rings, .errors] (fun t =>
        ring n.toNat t = { r with alerted := true }
        ∧ t.errors.count = min 64 (s.errors.count + (backlogChans n.toNat s).length)))
    ∧ (r.timer = true → r.eventEn = true → r.since ≠ 0 → Completes (.moderationTimer n) s [.rings] (fun t =>
      ring n.toNat t = { r with since := 0, timer := false, cover := some r.prod }
      ∧ ∃ e ∈ t.events.waiting, e.src = .ring n.toNat))
    ∧ (r.alerted = true ∨ r.stallTime = 0 → exec (.stallAlertTimer n) s = .next s)
    ∧ (r.stalled = false → exec (.stallRereadTimer n) s = .next s ∧ exec (.stallAlertTimer n) s = .next s)
    ∧ (r.timer = false → exec (.moderationTimer n) s = .next s))
    ∧ (∀ (req c : Nat) (q : Req) (bs : Bytes), Awaits req q s → q.write = false → q.purpose = .consIndex n.toNat →
        bs.length = q.len →
        let v := BitVec.ofNat 32 (leNat bs)
        (used (ring n.toNat s).prod v ≤ 2 ^ (ring n.toNat s).sizeLog2 →
          Completes (.consIndexReadComplete req (.data bs)) s (mayChange (.consIndexReadComplete req (.data bs))) (fun t =>
            Answered req t ∧ (ring n.toNat t).cons = v))
        ∧ (2 ^ (ring n.toNat s).sizeLog2 < used (ring n.toNat s).prod v → (chan c s).state = .running → (chan c s).ctx.cring = n.toNat →
          (chan c s).fence = none →
          Completes (.consIndexReadComplete req (.data bs)) s [.regs, .chans, .rings, .cellar, .fabric, .errors, .pmu]
            (fun t => (chan c t).state = .fenced ∧ (chan c t).fence = some ⟨true, 11, 0⟩ ∧ (ring n.toNat t).cons = (ring n.toNat s).cons)))

/-! ### Rows, ports and presses (spec/04, spec/05, spec/06, spec/09) -/

/-- FRAME_RECEIVE (R105, R136, R142, R144, R175 to R177), on a port that is no member of a twin pair for a frame that
passes. Of a frame that fails a check of R136 the flag of the first check sets, and nothing of it is kept; during a
drain, and on a port that takes no frames, nothing is kept either. A frame that passes the checks, the address filter
and VLAN acceptance arrives with its port, its stamp and its priority and VID by R144, and the end of its DCLK cycle
decides its admission: a frame taken is held in the cellar with its cells, charged to its port and priority, and its
header copy waits at the press that owns the row; one that admission drops is not held. That a step on an empty queue
is the end of the cycle is the model's own choice (log entry 1), and so is that every arrival of a cycle is decided
there (log entry 75). -/
def Obligations.FramesAreCheckedAndAdmitted : Prop :=
  (∀ (g : BitVec 8) (x : RxArrival) (s : State), s.wf → live s = true → fbit (PRT_MAC_CFG.loopback g.toNat) s = false →
      (takesFrames g.toNat s = true → s.power.drain = none →
        (∀ code flag, rxCheck (fbit (PRT_MAC_CFG.rx_en g.toNat) s) (maxFrame g.toNat s) g.toNat x s = some (code, flag) →
          Completes (.frameReceive g x) s [.regs, .cellar, .fabric, .pmu] (fun t =>
            t.cellar = { s.cellar with nextFrame := s.cellar.nextFrame + 1 } ∧ (∀ b, flag = some b → fbit b t = true)
            ∧ (code = 0x12 → fbit (ROW_STAT.staging_ovr (g.toNat / 8)) t = true)))
        ∧ (rxCheck (fbit (PRT_MAC_CFG.rx_en g.toNat) s) (maxFrame g.toNat s) g.toNat x s = none → beAt 12 2 x.bytes ≠ 0x8808 → addrPass g.toNat x.bytes s = true →
            (vlanOf g.toNat x.bytes s).2.2 = true →
          Completes (.frameReceive g x) s [.cellar] (fun t => ∃ f,
            t.cellar = { s.cellar with nextFrame := s.cellar.nextFrame + 1,
                                       arrivals := s.cellar.arrivals ++ [(s.cellar.nextFrame, f)] }
            ∧ f.bytes = x.bytes ∧ f.port = some g.toNat ∧ f.prio = (vlanOf g.toNat x.bytes s).2.1
            ∧ f.vid = (vlanOf g.toNat x.bytes s).1 ∧ f.stamp = rxStamp g.toNat s ∧ f.refs = 1)))
      ∧ (takesFrames g.toNat s = true → s.power.drain ≠ none →
          Completes (.frameReceive g x) s [.regs, .cellar, .fabric, .pmu] (fun t =>
            t.cellar = { s.cellar with nextFrame := s.cellar.nextFrame + 1 }))
      ∧ (takesFrames g.toNat s = false → s.power.dorm = 0 → exec (.frameReceive g x) s = .next s))
  ∧ (∀ (g id : Nat) (f : Frame) (s : State), s.wf → s.pending = [] → live s = true → s.time.due = [] →
        s.cellar.arrivals = [(id, f)] → f.port = some g → g < 256 → pairOfPort g s = none →
        (∀ k < 5, (press k s).window = []) →
        let need := cellsFor f.bytes.length
        let k := ownerPress (g / 8) s
        (∀ p, admitDecision g f.prio need s = .take p → ∃ t, step s = .next t ∧ t.cellar.arrivals = []
            ∧ (∃ h, frame id t = some h ∧ h.bytes = f.bytes ∧ h.port = f.port ∧ h.prio = f.prio ∧ h.vid = f.vid
                ∧ h.pool = p ∧ h.cells = need ∧ h.refs = f.refs)
            ∧ ({ charge g f.prio t with xoff := false } : Charge) = { (charge g f.prio s).add p need with xoff := false }
            ∧ (∀ i, i ≠ id → frame i t = frame i s)
            ∧ (press k t).waiting.length = (press k s).waiting.length + 1)
        ∧ (∀ code, admitDecision g f.prio need s = .drop code → ∃ t, step s = .next t
            ∧ t.cellar.arrivals = [] ∧ t.cellar.frames = s.cellar.frames
            ∧ ∀ h q, ({ charge h q t with xoff := false } : Charge) = { charge h q s with xoff := false }))

/-- PAUSE_TIMER_EXPIRY, PAUSE_REFRESH_TIMER, PAUSE_FRAME_TRANSMIT, a PFC frame in FRAME_RECEIVE, and the xoff states
at the end of a DCLK cycle (R139, R177, R178, R181 to R189). A timer that runs out is zero and pauses no more; a
refresh makes a frame due for a priority, or a port, that is in xoff; and a frame that is due goes out at a frame
boundary of a port that may send, as R182 and R183 spell it, and is then due no more. A PFC frame that is received is
consumed, and loads the timer of each priority of its class-enable vector, with effect from the end of its DCLK cycle.
Each xoff state is evaluated once in a cycle, and in mode 1 its change makes a frame due for its priority. That a step
on an empty queue is the end of the cycle is the model's own choice (log entry 1), as is that the states are evaluated
there and not at each change (log entry 75). -/
def Obligations.PauseTimersAndFrames : Prop :=
  ∀ (g : BitVec 8) (q : BitVec 3) (x : RxArrival) (s : State), s.wf → live s = true →
    Completes (.pauseTimerExpiry g (.priority q)) s [.ports] (fun t =>
      nth 0 q.toNat (port g.toNat t).pause = 0 ∧ ∀ h, h ≠ g.toNat → port h t = port h s)
    ∧ Completes (.pauseTimerExpiry g .link) s [.ports] (fun t =>
      port g.toNat t = { port g.toNat s with linkPause := 0 } ∧ ∀ h, h ≠ g.toNat → port h t = port h s)
    ∧ (fget (PRT_PFC_CFG.tx_mode g.toNat) s = 1 → (charge g.toNat q.toNat s).xoff = true →
        (fget (PRT_PFC_CFG.pfc_tx_en g.toNat) s).testBit q.toNat = true →
        Completes (.pauseRefreshTimer g q) s [.ports] (fun t => (port g.toNat t).due.getLsbD q.toNat = true))
    ∧ (fget (PRT_PFC_CFG.tx_mode g.toNat) s = 2 → anyXoff g.toNat s = true →
        Completes (.pauseRefreshTimer g q) s [.ports] (fun t => (port g.toNat t).duePause = true))
    ∧ (rowTakes (g.toNat / 8) s = true → ctlReady g.toNat s = true → atBoundary g.toNat s = true →
        (port g.toNat s).txLpi = 0 → fbit (PRT_MAC_CFG.loopback g.toNat) s = false →
        Completes (.pauseFrameTransmit g) s [.ports] (fun t =>
          (port g.toNat t).lastWire = pauseBytes g.toNat s
          ∧ (port g.toNat t).due = 0 ∧ (port g.toNat t).duePause = false))
    ∧ (fbit (PRT_MAC_CFG.loopback g.toNat) s = false → s.power.drain = none →
        takesFrames g.toNat s = true →
        rxCheck (fbit (PRT_MAC_CFG.rx_en g.toNat) s) (maxFrame g.toNat s) g.toNat x s = none → beAt 12 2 x.bytes = 0x8808 →
        beAt 14 2 x.bytes = 0x0101 → x.bytes.take 6 = pauseDa → fbit (PRT_PFC_CFG.rx_pfc_en g.toNat) s = true →
        Completes (.frameReceive g x) s [.cellar, .ports, .fabric, .pmu] (fun t =>
          t.cellar = { s.cellar with nextFrame := s.cellar.nextFrame + 1 }
          ∧ port g.toNat t = { port g.toNat s with loads := (port g.toNat s).loads ++ pfcTimes x.bytes }))
    ∧ (s.pending = [] → (port g.toNat s).loads = pfcTimes x.bytes → ∃ t, step s = .next t ∧ (port g.toNat t).loads = []
        ∧ ∀ i < 8, nth 0 i (port g.toNat t).pause =
            if bit (beAt 16 2 x.bytes) i then beAt (18 + 2 * i) 2 x.bytes else nth 0 i (port g.toNat s).pause)
    ∧ (∀ v, s.pending = [] → (port g.toNat s).loads = [(.link, v)] → ∃ t, step s = .next t ∧ (port g.toNat t).loads = []
        ∧ (port g.toNat t).linkPause = v)
    ∧ (s.pending = [] → s.cellar.arrivals = [] → ∃ t, step s = .next t
        ∧ (charge g.toNat q.toNat t).xoff = nextXoff g.toNat q.toNat s
        ∧ (fget (PRT_PFC_CFG.tx_mode g.toNat) s = 1 →
            (charge g.toNat q.toNat t).xoff ≠ (charge g.toNat q.toNat s).xoff →
            (port g.toNat t).due.getLsbD q.toNat = true))

/-- SCHEDULER_DECISION (R299 to R302) on a port that is no member of a twin pair. Classes are taken from the highest
down, the committed stage before the excess one; a stage that selects no member, as that of a paused class does,
passes its turns and is passed over. The selected member's head frame, which is eligible, is taken by the row; a chain
launches with its first copy. Where no stage selects a member, the row takes nothing. -/
def Obligations.SchedulerTakesSelectedFrame : Prop :=
  ∀ (g : BitVec 8) (s : State), s.wf → live s = true → mayStart g.toNat s = true → pairOfPort g.toNat s = none →
    (∀ (before after : List (Nat × Nat)) (tc stage : Nat) (m : Member) (r : Round) (h : Head),
      classOrder = before ++ (tc, stage) :: after →
      (∀ e ∈ before, (selectIn g.toNat e.1 e.2 s).1 = none) →
      selectIn g.toNat tc stage s = (some m, r) → headOf g.toNat tc m s = some h →
      h.eligible g.toNat tc stage s = true ∧ paused g.toNat tc s = false
      ∧ Completes (.schedulerDecision g) s (mayChange (.schedulerDecision g)) (fun t =>
          (∀ f, h = .fwd f → ∃ cur, (port g.toNat t).cur = some cur ∧ cur.src = .fwd f ∧ cur.tc = tc
            ∧ cur.bytes = f.bytes ∧ cur.onMii = false)
          ∧ (∀ c k x, h = .chain c k x → chainOf c k.first s = some k →
              (∃ cur, (port g.toNat t).cur = some cur ∧ cur.src = .chain c k.first ∧ cur.tc = tc ∧ cur.bytes = x.bytes)
              ∧ (k.stage ≠ .launched → (points c t).launched = k.stop))))
    ∧ ((∀ e ∈ classOrder, (selectIn g.toNat e.1 e.2 s).1 = none) →
        Completes (.schedulerDecision g) s [.regs, .chans, .rings, .ports, .fabric] (fun t =>
          (port g.toNat t).cur = none ∧ t.cellar = s.cellar ∧ t.book = s.book))

/-- TX_STAGED (R146, R147, R150, R152, R171, R184, R347): the frame that a row has taken, read clean from the cellar,
starts on the MII with its transmit stamp, padded and with its FCS. A stored frame that no stage changed and whose CRC
does not match is discarded, and its error is posted; a port-to-port copy of which a cell cannot be corrected is
discarded as well. While tx_en is 0, while a pause or PFC frame is due, and while its class is paused, the frame does
not start; that it stays on the row meanwhile is the model's own choice (log entry 56). The row keeps rx_en and
max_frame of this moment for a frame in loopback, whose /S/ arrives now (R141, R153). -/
def Obligations.StagedFrameGoesOut : Prop :=
  ∀ (g : BitVec 8) (x : TxCur) (w : CellWord) (s : State), s.wf → live s = true → (port g.toNat s).cur = some x →
    x.onMii = false → curWhole x s = true →
    (fbit (PRT_MAC_CFG.tx_en g.toNat) s = true → ctlReady g.toNat s = false → paused g.toNat x.tc s = false →
      (internalFcsBad x = false → Completes (.txStaged g {}) s [.chans, .ports] (fun t =>
        (port g.toNat t).cur = some { x with
          onMii := true, stamp := txStamp g.toNat s, crossing := crossing s, crossed := s.time.dclk,
          rxEn := fbit (PRT_MAC_CFG.rx_en g.toNat) s, rxMax := maxFrame g.toNat s,
          bytes := x.wire (fbit (ROW_TS_CFG.v6_trailer (g.toNat / 8)) s) (txStamp g.toNat s) }))
      ∧ (internalFcsBad x = true → Completes (.txStaged g {}) s [.regs, .cellar, .ports, .fabric, .errors, .pmu]
          (fun t => (port g.toNat t).cur = none ∧ fbit (ROW_STAT.internal_fcs (g.toNat / 8)) t = true
            ∧ (s.errors.count < 64 → t.errors.count = s.errors.count + 1)))
      ∧ (∀ f, x.src = .fwd f → Completes (.txStaged g { bad := some w }) s (mayChange (.txStaged g { bad := some w }))
          (fun t => (port g.toNat t).cur = none
            ∧ ∀ id e, f.frame = some id → frame id s = some e → e.refs ≤ 1 → frame id t = none)))
    ∧ (fbit (PRT_MAC_CFG.tx_en g.toNat) s = false ∨ ctlReady g.toNat s = true ∨ paused g.toNat x.tc s = true →
        exec (.txStaged g { bad := some w }) s = .next s ∧ exec (.txStaged g {}) s = .next s)

/-- FRAME_TRANSMIT_END (R19, R22, R92, R154): the frame on the MII of a port leaves it and stands on the wire, or, in
loopback (as that stands at the end of the frame: the model's own choice, log entry 53), arrives at the port again; a
port-to-port frame gives up its hold on the cellar; and when the last copy of a chain has left, the chain is sent: it
leaves the channel and the sent point passes it. -/
def Obligations.FrameEndFreesAndSends : Prop :=
  ∀ (g : BitVec 8) (x : TxCur) (s : State), s.wf → live s = true → (port g.toNat s).cur = some x → x.onMii = true →
    (fbit (PRT_MAC_CFG.loopback g.toNat) s = false →
      (∀ f, x.src = .fwd f → Completes (.frameTransmitEnd g false) s [.regs, .cellar, .ports, .fabric, .pmu] (fun t =>
        (port g.toNat t).cur = none ∧ (port g.toNat t).lastWire = x.bytes
        ∧ ∀ id e, f.frame = some id → frame id s = some e → e.refs ≤ 1 → frame id t = none))
      ∧ (∀ c k, x.src = .chain c k.first → (chan c s).tx.chains = [k] →
          (k.copies.all fun y => y.port == g.toNat && y.phase == .started) = true → (chan c s).state = .running →
          Completes (.frameTransmitEnd g false) s (mayChange (.frameTransmitEnd g false)) (fun t =>
            (port g.toNat t).lastWire = x.bytes ∧ (chan c t).tx.chains = [] ∧ (points c t).sent = k.stop)))
    ∧ (fbit (PRT_MAC_CFG.loopback g.toNat) s = true →
        Completes (.frameTransmitEnd g false) s (mayChange (.frameTransmitEnd g false)) (fun t =>
          (port g.toNat t).cur = none ∧ (port g.toNat t).lastWire = (port g.toNat s).lastWire
          ∧ (takesFrames g.toNat s = true → s.cellar.nextFrame < t.cellar.nextFrame)))

/-- LINK_FAULT_CHANGE, LINK_HOLD_TIMER, RECEIVE_LPI, LPI_IDLE_TIMER and LPI_WAKE_END (R155 to R159). A fault takes the
link of a port down at once; without a hold the link comes up with the fault gone, and with one when the hold has
passed. Words of LPI that arrive set and clear the receive state. An idle port of an enabled LPI speed enters LPI at
the end of the DCLK cycle in which its idle time expires, which is counted, unless a frame has become ready in that
cycle; and it leaves LPI when its wake time has passed. That a step on an empty queue is the end of the cycle is the
model's own choice (log entry 1). -/
def Obligations.LinkAndLowPowerIdle : Prop :=
  ∀ (g : BitVec 8) (f : LinkFault) (on : Bool) (s : State), s.wf → live s = true → evaluates g.toNat s = true →
    fbit (PRT_MAC_CFG.loopback g.toNat) s = false →
    (f ≠ .ok → Completes (.linkFaultChange g f) s [.regs, .ports] (fun t =>
      (port g.toNat t).linkUp = false ∧ (port g.toNat t).holding = false ∧ (port g.toNat t).fault = f
      ∧ ((port g.toNat s).linkUp = true → fbit (PRT_MAC_STAT.link_chg g.toNat) t = true)
      ∧ regsLeft [(PRT_MAC_STAT.reg g.toNat).off] s t))
    ∧ (fget (PRT_MAC_CFG.link_hold g.toNat) s = 0 → (port g.toNat s).holding = false →
        Completes (.linkFaultChange g .ok) s [.regs, .ports] (fun t => (port g.toNat t).linkUp = true))
    ∧ (fget (PRT_MAC_CFG.link_hold g.toNat) s ≠ 0 → (port g.toNat s).linkUp = false →
        Completes (.linkFaultChange g .ok) s [.ports] (fun t =>
          (port g.toNat t).linkUp = false ∧ (port g.toNat t).holding = true))
    ∧ ((port g.toNat s).holding = true → (port g.toNat s).fault = .ok →
        Completes (.linkHoldTimer g) s [.regs, .ports] (fun t => (port g.toNat t).linkUp = true))
    ∧ Completes (.receiveLpi g on) s [.ports] (fun t => port g.toNat t = { port g.toNat s with rxLpi := on })
    ∧ ((fget (ROW_LPI_CFG.lpi_en (g.toNat / 8)) s).testBit (g.toNat % 8) = true → lpiCapable g.toNat s = true →
        (port g.toNat s).cur = none → (port g.toNat s).txLpi = 0 → txQueued g.toNat s = 0 → ctlReady g.toNat s = false →
        Completes (.lpiIdleTimer g) s [.ports] (fun t => port g.toNat t = { port g.toNat s with lpiDue := true }
          ∧ ∀ h, h ≠ g.toNat → port h t = port h s))
    ∧ (s.pending = [] → s.cellar.arrivals = [] → s.cellar.charges = [] → s.time.due = [] → (∀ k < 5, (press k s).window = []) →
        (port g.toNat s).lpiDue = true → (port g.toNat s).txLpi = 0 →
        (mayRest g.toNat s = true → ∃ t, step s = .next t ∧ (port g.toNat t).txLpi = 2 ∧ (port g.toNat t).lpiDue = false
          ∧ fget (PRT_LPI_STAT.lpi_entries g.toNat) t = min (fget (PRT_LPI_STAT.lpi_entries g.toNat) s + 1) 65535)
        ∧ (txQueued g.toNat s ≠ 0 → ∃ t, step s = .next t ∧ (port g.toNat t).txLpi = 0 ∧ (port g.toNat t).lpiDue = false
          ∧ fget (PRT_LPI_STAT.lpi_entries g.toNat) t = fget (PRT_LPI_STAT.lpi_entries g.toNat) s))
    ∧ ((port g.toNat s).txLpi = 1 → Completes (.lpiWakeEnd g) s [] (fun t => (port g.toNat t).txLpi = 0))

/-- ROW_ENABLE_REQUEST, ROW_DISABLE_REQUEST, ROW_ENABLED and ROW_DISABLED (R160 to R163). A request that no reason of
the table refuses begins the change: its bit of GLB_ROW_EN follows, and the row stands in enabling or disabling until
it is done, with its links down in the latter; a refused one sets en_refused with the reason and leaves the row, and
one that asks for what the bit already says does nothing. -/
def Obligations.RowsAreEnabledAndDisabled : Prop :=
  ∀ (r : BitVec 5) (s : State), s.wf →
    let n := r.toNat
    let on := (fget GLB_ROW_EN.row_en s).testBit n
    (auxPort s = true →
    (on = false → enableRefusal n s = none → Completes (.rowEnableRequest r) s [.regs, .rows, .presses, .engine] (fun t =>
      (row n t).state = 1 ∧ (fget GLB_ROW_EN.row_en t).testBit n = true ∧ ∀ m, m ≠ n → row m t = row m s))
    ∧ (on = true → disableRefusal n s = none → Completes (.rowDisableRequest r) s [.regs, .rows, .ports] (fun t =>
      (row n t).state = 3 ∧ (fget GLB_ROW_EN.row_en t).testBit n = false
      ∧ (∀ p < 8, (port (8 * n + p) t).linkUp = false) ∧ ∀ m, m ≠ n → row m t = row m s))
    ∧ (∀ reason, on = false → enableRefusal n s = some reason → Completes (.rowEnableRequest r) s [.regs] (fun t =>
      fbit (ROW_STAT.en_refused n) t = true ∧ fget (ROW_STAT.refuse_reason n) t = reason
      ∧ regsLeft [(ROW_STAT.reg n).off] s t))
    ∧ (∀ reason, on = true → disableRefusal n s = some reason → Completes (.rowDisableRequest r) s [.regs] (fun t =>
      fbit (ROW_STAT.en_refused n) t = true ∧ fget (ROW_STAT.refuse_reason n) t = reason
      ∧ regsLeft [(ROW_STAT.reg n).off] s t))
    ∧ (on = true → Completes (.rowEnableRequest r) s [] (fun t => t.rows = s.rows))
    ∧ (on = false → Completes (.rowDisableRequest r) s [] (fun t => t.rows = s.rows)))
    ∧ (live s = true →
    ((row n s).state = 1 → Completes (.rowEnabled r) s [.regs, .rows, .ports] (fun t =>
      (row n t).state = 2 ∧ (row n t).roundAt = s.time.dclk ∧ ∀ m, m ≠ n → row m t = row m s))
    ∧ ((row n s).state = 3 → Completes (.rowDisabled r) s [.rows] (fun t =>
      row n t = { row n s with state := 0 } ∧ ∀ m, m ≠ n → row m t = row m s)))

/-- ROW_CFG_WRITE and CALENDAR_MANUAL_CLEAR (R134, R161): on a disabled row the speeds are taken and the calendar is
generated from them, unless manual keeps the calendar that software wrote; clearing manual generates it too. On a row
that is not disabled neither has any effect. -/
def Obligations.CalendarFollowsRowCfg : Prop :=
  ∀ (r : BitVec 5) (data : Word) (s : State), s.wf → regLive s = true →
    let n := r.toNat
    ((row n s).state = 0 →
      Completes (.rowCfgWrite r data) s [.regs] (fun t =>
        regW (ROW_CFG.reg n) t = data &&& 0xFFFFFF
        ∧ (fbit (ROW_CAL_CFG.manual n) s = false → calendar n t = generated (data &&& 0xFFFFFF).toNat)
        ∧ (fbit (ROW_CAL_CFG.manual n) s = true → regsLeft [(ROW_CFG.reg n).off] s t))
      ∧ Completes (.calendarManualClear r) s [.regs] (fun t =>
        fbit (ROW_CAL_CFG.manual n) t = false
        ∧ (fbit (ROW_CAL_CFG.manual n) s = true → calendar n t = generated (regW (ROW_CFG.reg n) s).toNat)))
    ∧ ((row n s).state ≠ 0 → exec (.rowCfgWrite r data) s = .next s ∧ exec (.calendarManualClear r) s = .next s)

/-- MII_WORD_ERROR, TWIN_RECOVERY_RESET, SPARE_COPY_COMPLETE (R126, R131, R154, R168, R422): a stray word and an
undefined control character are counted and flagged, the latter not at a port in loopback; a pair that was idle for
reset_ms takes any next sequence number; and a copied bank is replaced by its spare, which raises source 5, with the
words that could not be read marked in the spare. -/
def Obligations.RowErrorsRecoveryAndSparing : Prop :=
  ∀ (r : BitVec 5) (p : BitVec 3) (corr bad : List CellWord) (s : State), s.wf → live s = true →
    let n := r.toNat
    (rowTakes n s = true → (calendar n s).any (· < 8) = true → Completes (.miiWordError r none) s [.regs] (fun t =>
      fbit (ROW_IF_ERR.stray_word n) t = true
      ∧ fget (ROW_IF_ERR.err_words n) t = min (fget (ROW_IF_ERR.err_words n) s + 1) 65535
      ∧ regsLeft [(ROW_IF_ERR.reg n).off] s t))
    ∧ (rowTakes n s = true → (calendar n s).contains (8 + p.toNat) = true →
        (fbit (PRT_MAC_CFG.loopback (8 * n + p.toNat)) s = false →
          Completes (.miiWordError r (some p)) s [.regs] (fun t =>
            (fget (ROW_IF_ERR.ctl_err_mask n) t).testBit p.toNat = true
            ∧ fget (ROW_IF_ERR.err_words n) t = min (fget (ROW_IF_ERR.err_words n) s + 1) 65535
            ∧ regsLeft [(ROW_IF_ERR.reg n).off] s t))
        ∧ (fbit (PRT_MAC_CFG.loopback (8 * n + p.toNat)) s = true → exec (.miiWordError r (some p)) s = .next s))
    ∧ ((pairOfRow n s).map (·.anchor) = some n → fget (ROW_TWIN_CFG.reset_ms n) s ≠ 0 →
        Completes (.twinRecoveryReset r) s [.regs, .rows] (fun t =>
          row n t = { row n s with takeAny := true } ∧ fbit (ROW_TWIN_STAT.rcvy_reset n) t = true))
    ∧ (∀ b, s.cellar.copyBank = some b →
        Completes (.spareCopyComplete corr bad) s [.regs, .cellar, .errors] (fun t =>
          t.cellar.frames = s.cellar.frames
          ∧ (∀ w ∈ bad, wordBank w = b → isPoisoned w t = true)
          ∧ (fget EVT_STAT.src_pending t).testBit 5 = true
          ∧ (corr = [] → bad = [] → s.cellar.wanting = [] → t.cellar = { s.cellar with
              copyBank := none,
              spare0 := if s.cellar.copySpare = 0 then some b else s.cellar.spare0,
              spare1 := if s.cellar.copySpare = 0 then s.cellar.spare1 else some b })))

/-- DEAL_HEADER_COPIES (R195, R196, R198): at an edge of the press's clock the oldest waiting copy goes to the next
lane in service, with the next sequence number and the registers in force, those that it had when the DCLK cycle began
(R220); a press whose window is full, was full when the cycle began, or that is stopped deals nothing; between edges
nothing is dealt. -/
def Obligations.CopiesAreDealtInOrder : Prop :=
  ∀ (k : Fin 5) (s : State), s.wf → live s = true →
    let p := press k.val s
    let l := nextLane k.val p.lastLane s
    (∀ w rest, pressEdge k.val s = true → p.waiting = w :: rest → p.stopped = false → p.full = false → p.window.length < 256 →
      p.taken.contains l = false → laneIn k.val l s = true →
      Completes (.dealHeaderCopies k) s [.regs, .chans, .presses] (fun t =>
        p.nextSeq < (press k.val t).nextSeq ∧ (press k.val t).waiting.length < p.waiting.length
        ∧ ∃ c ∈ (press k.val t).window, c.seq = p.nextSeq ∧ c.item = w.item ∧ c.row = w.row ∧ c.lane = l
            ∧ c.cfg = cfgInForce k.val s ∧ c.ready = none))
    ∧ (p.waiting = [] ∨ p.stopped = true ∨ p.full = true ∨ 256 ≤ p.window.length → pressEdge k.val s = true →
        Completes (.dealHeaderCopies k) s [] (fun t => press k.val t = p))
    ∧ (pressEdge k.val s = false → exec (.dealHeaderCopies k) s = .next s)

/-- LANE_RESULT of the only copy of a received frame in a press's window, with no result of the same cycle before it
(R19, R197): the copy retires while the press may retire one in this cycle. A frame that is sent nowhere and held by
no one else is freed; one for a RUNNING channel, where frames may wait, stands at the end of that channel's queue. A
result for a copy that is no longer in the window changes no frame and no channel; one beyond the limit of 8 in a
cycle waits. -/
def Obligations.LaneResultRetiresCopy : Prop :=
  ∀ (k : Fin 5) (lane : BitVec 3) (lat : BitVec 16) (c : Copy) (id : Nat) (f : Frame) (s : State), s.wf → live s = true →
    (press k.val s).window = [c] → c.lane = lane.toNat → c.ready = none → c.item = .frame id → frame id s = some f →
    let d := (decideCopy k.val c .clean {} (noteLatency k.val lat.toNat s)).1
    (earlierResults k.val c.seq s = [] → (press k.val s).retired < 8 →
      (d.ports = [] → d.slow = none → d.chans = [] → f.refs ≤ 1 →
        Completes (.laneResult k c.seq lane lat .clean {}) s (mayChange (.laneResult k c.seq lane lat .clean {})) (fun t =>
          (press k.val t).window = [] ∧ frame id t = none ∧ t.chans = s.chans))
      ∧ (∀ x, d.ports = [] → d.slow = none → d.chans = [x] → (chan x.chan s).state = .running →
          fget CEL_WAIT_LIMIT.limit_us s ≠ 0 →
        Completes (.laneResult k c.seq lane lat .clean {}) s (mayChange (.laneResult k c.seq lane lat .clean {})) (fun t =>
          (press k.val t).window = []
          ∧ (chan x.chan t).rx.queue = (chan x.chan s).rx.queue ++
              [{ frame := id, kind := x.kind, bytes := x.bytes, tc := x.tc, l3err := d.l3err, l4err := d.l4err,
                 held := false }])))
    ∧ (earlierResults k.val c.seq s = [] → 8 ≤ (press k.val s).retired →
        Completes (.laneResult k c.seq lane lat .clean {}) s (mayChange (.laneResult k c.seq lane lat .clean {})) (fun t =>
          (press k.val t).window = [{ c with ready := some d }]))
    ∧ (∀ q, q ≠ c.seq → earlierResults k.val q s = [] →
        Completes (.laneResult k q lane lat .clean {}) s [.presses, .pmu] (fun t =>
          (press k.val t).window = [c]))

/-- REORDER_TIMEOUT and LANE_ERR_CLEAR (R199 to R201): a lane that keeps a copy too long is flagged, the flag of the
timeout sets and an error is posted; with auto_lane_dis 0 the copy goes on waiting, and with it 1 the copy is dealt
again to the next lane in service, which the model counts from the lane that timed out (its own choice, log entry 73).
Clearing its flag returns a lane that lane_dis does not hold out. -/
def Obligations.LaneTimeoutAndClear : Prop :=
  ∀ (k : Fin 5) (c : Copy) (lanes : Byte) (s : State), s.wf →
    (live s = true → c ∈ (press k.val s).window → c.ready = none → c.lane < 8 →
      (∀ d ∈ (press k.val s).window, d.seq = c.seq → d = c) →
      (fbit (PRS_REORDER_CFG.auto_lane_dis k.val) s = false →
        Completes (.reorderTimeout k c.seq) s [.regs, .presses, .errors] (fun t =>
          (fget (PRS_LANE_STAT.lane_err k.val) t).testBit c.lane = true
          ∧ fbit (PRS_REORDER_STAT.timeout_seen k.val) t = true
          ∧ (s.errors.count < 64 → t.errors.count = s.errors.count + 1)
          ∧ (press k.val t).window = (press k.val s).window))
      ∧ (fbit (PRS_REORDER_CFG.auto_lane_dis k.val) s = true →
          fget (PRS_CFG.lane_dis k.val) s = 0 → fget (PRS_LANE_STAT.lane_err k.val) s = 0 →
        Completes (.reorderTimeout k c.seq) s [.regs, .presses, .errors] (fun t =>
          (fget (PRS_LANE_STAT.lane_err k.val) t).testBit c.lane = true
          ∧ fbit (PRS_REORDER_STAT.timeout_seen k.val) t = true
          ∧ ∃ d ∈ (press k.val t).window, d.seq = c.seq ∧ d.item = c.item ∧ d.lane = (c.lane + 1) % 8)))
    ∧ (regLive s = true → Completes (.laneErrClear k lanes) s [.regs, .presses] (fun t =>
        fget (PRS_LANE_STAT.lane_err k.val) t = fget (PRS_LANE_STAT.lane_err k.val) s &&& (0xFF ^^^ lanes.toNat)
        ∧ regsLeft [(PRS_LANE_STAT.reg k.val).off] s t
        ∧ (fget (PRS_CFG.lane_dis k.val) s ||| fget (PRS_LANE_STAT.lane_err k.val) t ≠ 0xFF →
            (press k.val t).lanesOut = fget (PRS_CFG.lane_dis k.val) s ||| fget (PRS_LANE_STAT.lane_err k.val) t)))

/-- POLICER_SELECT and POLICER_COMMIT (R293): a selection discards the held values; a commit gives the selected
policer the held rates and sizes beside its own fields, fills both buckets and sets last to the time of the commit;
what frames metered in its cycle use is as before. -/
def Obligations.PolicerIsCommitted : Prop :=
  ∀ (k : Fin 5) (data : Word) (s : State), s.wf → regLive s = true →
    Completes (.policerSelect k data) s [.regs, .presses] (fun t =>
      polSel k.val t = data.toNat % 2 ^ 14 ∧ press k.val t = { press k.val s with polHeld := none }
      ∧ regsLeft [(PRS_POL_SEL.reg k.val).off] s t)
    ∧ Completes (.policerCommit k data) s [.presses] (fun t =>
      (press k.val t).polHeld = none
      ∧ (let h := polHeld k.val s
         ∃ p, (press k.val t).policers = mputD {} (polSel k.val s) p (press k.val s).policers
         ∧ p.cir = h.1.toNat ∧ p.pir = h.2.1.toNat ∧ p.cbs = h.2.2.1.toNat ∧ p.pbs = h.2.2.2.toNat
         ∧ p.ctl = data &&& 0xFFFFC000 ∧ p.tc = p.cbsOn * 2 ^ 20 ∧ p.tp = p.pbsOn * 2 ^ 20 ∧ p.last = s.time.dclk)
      ∧ (∀ n, policerNow k.val n t = policerNow k.val n s)
      ∧ (press k.val t).window = (press k.val s).window ∧ (press k.val t).waiting = (press k.val s).waiting)

/-! ### Gates, check-value units (spec/09, spec/10) -/

/-- GATE_LIST_LOAD and GATE_LOAD_COMPLETE (R308, R309). A load of 1 to 1024 entries for a port with no pending list
reads the image of the row and makes the loader busy; a count outside that range (reason 2) and a port whose committed
list waits (reason 3) are refused, and the port then has no admin list; a go while the loader is busy, and a write
without one, only set the fields and clear fault where it is written 1. When the image is legal it becomes the admin
list of its port; an image that is not (reason 2) and an error response to one of its reads (reason 1), which sets
err_resp_seen of the port that answered and of no other, leave the port without one. -/
def Obligations.GateListIsLoaded : Prop :=
  ∀ (r : BitVec 5) (data : Word) (s : State), s.wf →
    let n := r.toNat
    let g := 8 * n + bits data.toNat 26 24
    let k := bits data.toNat 10 0
    (regLive s = true → (row n s).gateBusy = true ∨ data.toNat.testBit 31 = false →
      Completes (.gateListLoad r data) s [.regs] (fun t =>
        fget (ROW_GATE_LOAD.port n) t = bits data.toNat 26 24 ∧ fget (ROW_GATE_LOAD.entries n) t = k
        ∧ fbit (ROW_GATE_LOAD.fault n) t = (fbit (ROW_GATE_LOAD.fault n) s && !data.toNat.testBit 29)
        ∧ regsLeft [(ROW_GATE_LOAD.reg n).off] s t))
    ∧ (regLive s = true → (row n s).gateBusy = false → data.toNat.testBit 31 = true →
        (1 ≤ k → k ≤ 1024 → (port g s).pendingGate = none →
          Completes (.gateListLoad r data) s [.regs, .rows, .fabric] (fun t =>
            row n t = { row n s with gateBusy := true, gatePort := g, gateEntries := k }
            ∧ t.fabric.nextId = s.fabric.nextId + (pieces (imageAddr n s) (8 * k)).length
            ∧ ∀ q ∈ t.fabric.reqs, s.fabric.nextId ≤ q.id →
                q.write = false ∧ q.func = ownerFunc s ∧ q.purpose = .gateImage n))
        ∧ (k = 0 ∨ 1024 < k → Completes (.gateListLoad r data) s [.regs, .ports] (fun t =>
            fbit (ROW_GATE_LOAD.fault n) t = true ∧ fget (ROW_GATE_LOAD.reason n) t = 2 ∧ (port g t).admin = none))
        ∧ (1 ≤ k → k ≤ 1024 → (port g s).pendingGate ≠ none →
          Completes (.gateListLoad r data) s [.regs, .ports] (fun t =>
            fbit (ROW_GATE_LOAD.fault n) t = true ∧ fget (ROW_GATE_LOAD.reason n) t = 3 ∧ (port g t).admin = none)))
    ∧ (∀ (q : Req) (bs : Bytes), auxPort s = true → s.fabric.reqs = [q] → q.purpose = .gateImage n → q.port ≠ none →
        q.discard = false → (func q.func s).qState = 0 →
        (∀ es, bs.length = 8 * (row n s).gateEntries → parseGates (row n s).gateEntries bs = some es →
          Completes (.gateLoadComplete r (.data bs)) s [.rows, .ports, .fabric] (fun t =>
            Answered q.id t ∧ (row n t).gateBusy = false ∧ (port (row n s).gatePort t).admin = some es
            ∧ (port (row n s).gatePort t).oper = (port (row n s).gatePort s).oper))
        ∧ (bs.length = 8 * (row n s).gateEntries → parseGates (row n s).gateEntries bs = none →
          Completes (.gateLoadComplete r (.data bs)) s [.regs, .rows, .ports, .fabric] (fun t =>
            Answered q.id t ∧ (row n t).gateBusy = false ∧ (port (row n s).gatePort t).admin = none
            ∧ fbit (ROW_GATE_LOAD.fault n) t = true ∧ fget (ROW_GATE_LOAD.reason n) t = 2)))
    ∧ (∀ (req p : Nat) (q : Req), Awaits req q s → q.write = false → q.purpose = .gateImage n → q.port = some p → p < 16 →
        Completes (.gateLoadComplete r (.error req)) s [.regs, .rows, .ports, .fabric, .pmu] (fun t =>
            Answered req t ∧ (row n t).gateBusy = false ∧ (port (row n s).gatePort t).admin = none
            ∧ fbit (ROW_GATE_LOAD.fault n) t = true ∧ fget (ROW_GATE_LOAD.reason n) t = 1
            ∧ fbit (FAB_PORT_STAT.err_resp_seen p) t = true
            ∧ ∀ i < 16, i ≠ p → fbit (FAB_PORT_STAT.err_resp_seen i) t = fbit (FAB_PORT_STAT.err_resp_seen i) s))

/-- GATE_COMMIT, GATE_CANCEL, GATE_LIST_SWITCH and GATE_ENTRY_CHANGE (R310 to R313). A commit makes the admin list
pending with a start at least 2 us away, a whole number of cycles after the base time; the reasons of R310 refuse it.
A cancel drops the pending list. At its start, and not before, the pending list becomes the oper list and nothing is
pending. The order of the three reasons is the model's own choice (log entry 57), and so are that a timer does nothing
outside its state (log entry 8) and that the commit finds the state after the changes of PTP time that the port has
taken (log entry 78). -/
def Obligations.GateListsAreCommittedAndSwitched : Prop :=
  ∀ (p : BitVec 8) (s : State), s.wf →
    let g := p.toNat
    let e := portTurn s
    (regLive e = true →
      ((port g e).admin = none → Completes (.gateCommit p) s [.regs] (fun t =>
        fbit (PRT_GATE_STAT.commit_err g) t = true ∧ fget (PRT_GATE_STAT.err_reason g) t = 1
        ∧ regsLeft [(PRT_GATE_STAT.reg g).off] e t))
      ∧ (∀ es, (port g e).admin = some es → 999999999 < fget (PRT_GATE_BASE_NS.ns g) e →
          Completes (.gateCommit p) s [.regs] (fun t =>
            fbit (PRT_GATE_STAT.commit_err g) t = true ∧ fget (PRT_GATE_STAT.err_reason g) t = 2))
      ∧ (∀ es, (port g e).admin = some es → fget (PRT_GATE_BASE_NS.ns g) e ≤ 999999999 →
          ((row (g / 8) e).gateBusy = true → (row (g / 8) e).gatePort = g → Completes (.gateCommit p) s [.regs] (fun t =>
            fbit (PRT_GATE_STAT.commit_err g) t = true ∧ fget (PRT_GATE_STAT.err_reason g) t = 3))
          ∧ ((row (g / 8) e).gateBusy = false ∨ (row (g / 8) e).gatePort ≠ g →
            Completes (.gateCommit p) s [.ports] (fun t =>
              (∃ l, (port g t).pendingGate = some l ∧ l.entries = es ∧ l.cycle = cycleOf g e
                ∧ ptpNow e + 2000 * 2 ^ 28 ≤ l.start
                ∧ ∃ n, l.start = baseOf g e + n * (l.cycle * tick28)
                  ∧ (n ≠ 0 → l.start < ptpNow e + 2000 * 2 ^ 28 + l.cycle * tick28))
              ∧ ∀ h, h ≠ g → port h t = port h e))))
    ∧ (regLive s = true →
      Completes (.gateCancel p) s [.ports] (fun t =>
          port g t = { port g s with pendingGate := none } ∧ ∀ h, h ≠ g → port h t = port h s))
    ∧ (live s = true →
      (∀ l, (port g s).pendingGate = some l →
        (l.start ≤ ptpNow s → Completes (.gateListSwitch p) s (mayChange (.gateListSwitch p)) (fun t =>
          (port g t).oper = some l ∧ (port g t).pendingGate = none ∧ (port g t).admin = none))
        ∧ (ptpNow s < l.start → exec (.gateListSwitch p) s = .next s))
      ∧ ((port g s).pendingGate = none → exec (.gateListSwitch p) s = .next s)
      ∧ Completes (.gateEntryChange p) s [.regs, .ports] (fun t =>
          (port g t).oper = (port g s).oper ∧ (port g t).pendingGate = (port g s).pendingGate
          ∧ (port g t).queues = (port g s).queues))

/-- CVU_TEST_START, CVU_TEST_DATA, CVLOG_PROD_TIMER, LOG_SLOT_REREAD and CVLOG_CONS_READ_COMPLETE (R334, R335, R340).
A start begins a block of the chosen code with the held tag folded in; data runs the code over the bytes that nbytes
says, and is ignored while no block is active. The log ring's prod is written up to the first record that is not
acknowledged; its cons is read again while an item waits, and taken when it is in range, else the channel is fenced
with reason 11. That this fence is recorded with direction transmit is the model's own choice (log entries 29 and 76).
-/
def Obligations.CheckValueTestAndLogRing : Prop :=
  ∀ (data : Word) (c : BitVec 13) (s : State), s.wf →
    (regLive s = true →
      Completes (.cvuTestStart data) s [.regs, .cvTest] (fun t =>
        let n := bits data.toNat 29 28
        t.cvTest.active = true ∧ t.cvTest.poly = n
        ∧ t.cvTest.reg = BitVec.ofNat 64 ((cvCode n).init
            ^^^ foldTag (cvCode n).width (pairVal CVU_TEST_TAG_LO.reg CVU_TEST_TAG_HI.reg s))
        ∧ regsLeft [CVU_TEST_CTL.reg.off] s t)
      ∧ (s.cvTest.active = true → Completes (.cvuTestData data) s [.cvTest] (fun t =>
        t.cvTest = { s.cvTest with
          reg := BitVec.ofNat 64 (crcRun (cvCode s.cvTest.poly) s.cvTest.reg.toNat
            (leBytes (cvuTestBytes s) data.toNat)) }))
      ∧ (s.cvTest.active = false → exec (.cvuTestData data) s = .next s))
    ∧ (live s = true →
      let ch := chan c.toNat s
      (ch.log.prodDue false = true → Completes (.cvlogProdTimer c) s [.chans, .fabric] (fun t =>
        Submits true ch.ctx.func (ch.ctx.logBase + 4) 4 (.logProd c.toNat) s t
        ∧ (chan c.toNat t).log.prodOut = true ∧ chansLeft c.toNat s t))
      ∧ (ch.log.prodDue false = false → Completes (.cvlogProdTimer c) s [] (fun t => t.chans = s.chans))
      ∧ (ch.logWaits = true → ch.log.consOut = false → Completes (.logSlotReread c) s [.chans, .fabric] (fun t =>
        Submits false ch.ctx.func ch.ctx.logBase 4 (.logCons c.toNat) s t
        ∧ (chan c.toNat t).log = { ch.log with consOut := true } ∧ chansLeft c.toNat s t))
      ∧ (ch.logWaits = false → exec (.logSlotReread c) s = .next s))
    ∧ (∀ (req : Nat) (r : Req) (bs : Bytes), Awaits req r s → r.write = false → r.purpose = .logCons c.toNat →
        bs.length = r.len → (chan c.toNat s).state = .running →
        let v := BitVec.ofNat 32 (leNat bs)
        ((chan c.toNat s).log.consBad (chan c.toNat s).ctx.logLog2 v = false →
          Completes (.cvlogConsReadComplete req (.data bs)) s (mayChange (.cvlogConsReadComplete req (.data bs)))
            (fun t => Answered req t ∧ (chan c.toNat t).log.cons = v ∧ (chan c.toNat t).state = .running))
        ∧ ((chan c.toNat s).log.consBad (chan c.toNat s).ctx.logLog2 v = true →
          Completes (.cvlogConsReadComplete req (.data bs)) s (mayChange (.cvlogConsReadComplete req (.data bs)))
            (fun t => Answered req t ∧ (chan c.toNat t).state = .fenced
              ∧ (chan c.toNat t).fence = some ((chan c.toNat s).fence.getD { rx := false, reason := 11, status := 0 })
              ∧ (chan c.toNat t).log.cons = (chan c.toNat s).log.cons)))

/-! ### The table engine (spec/07, spec/08) -/

/-- READ and DUMP (R252 to R258). A READ of an indexed table, 2 to 8, returns the image at the index of its replica,
that of the VID table its word; a READ of an LPM key, or of an exact-match key, returns the image of the entry that
holds it, and 0x03 where none does. With use_lock a READ of an exact-match key of the lock's bucket sees the staged
changes carried out as far as they can be; another bucket is answered 0x07, and a lock that is not held by the ticket
with the code of R258. A DUMP returns the slots of consecutive buckets, or of the overflow store. Each result carries
the replica's vintage, and none of them changes a table. That use_lock on a table without locks is answered 0x07 is
the model's own choice (log entry 60). -/
def Obligations.TablesAreRead : Prop :=
  ∀ (c : TblCmd) (s : State), s.wf →
    let f := c.fields
    let r := replica f.replica s
    let v := nth 0 f.replica s.engine.vintages
    let answers := fun (code : Nat) (data : Bytes) =>
      Completes (.tblRead none) s [.engine, .fabric] (fun t => Results c { code := code, vintage := v, data := data } s t)
    let lookFor := fun (key : EmKey) (t : State) =>
      (∀ n e, findKey (keyBucket key s) key (replica f.replica t) = some (n, e) → answers 0 e.image)
      ∧ (findKey (keyBucket key s) key (replica f.replica t) = none → answers 3 [])
    (Serves 3 c s → f.replica < 5 → f.addr % 16 = 0 →
      (2 ≤ f.table → f.table ≤ 8 → f.index < tableSize f.table → f.useLock = false →
        answers 0 (getImage f.table f.index r)
        ∧ (f.table = 3 → answers 0 (leBytes 4 (mgetD 0 f.index r.vids).toNat)))
      ∧ (∀ x, f.table = 1 → f.useLock = false → lpmKey f.image = some x →
        (∀ n e, findLpm x.vrf x.v6 x.length x.addr r = some (n, e) → answers 0 (e.bytes n))
        ∧ (findLpm x.vrf x.v6 x.length x.addr r = none → answers 3 []))
      ∧ (f.useLock = true → (f.table = 1 ∧ lpmKey f.image ≠ none)
          ∨ (2 ≤ f.table ∧ f.table ≤ 8 ∧ f.index < tableSize f.table) → answers 7 [])
      ∧ (∀ key, f.table = 0 → parseKey f.image = some key →
        (f.useLock = false → lookFor key s)
        ∧ (f.useLock = true →
          let l := lockOf f.slot s
          (∀ code, lockError f s = some code → answers code [])
          ∧ (lockError f s = none → keyBucket key s ≠ l.bucket → answers 7 [])
          ∧ (lockError f s = none → keyBucket key s = l.bucket → lookFor key (stagedView l (takeCmd c s))))))
    ∧ (Serves 9 c s → f.table = 0 → f.replica < 5 → f.addr % 16 = 0 →
        let n := leAt 0 4 f.image
        let i := f.index % 2 ^ 31
        let dumps := fun (first : Nat) => Completes (.dump none) s [.engine, .fabric] (fun t =>
          Results c { code := 0, vintage := v, data := (List.range (4 * n)).flatMap fun j => slotImage (first + j) r } s t)
        1 ≤ n → n ≤ 4096 →
        (bit f.index 31 = false → i + n ≤ 262144 → dumps (4 * i))
        ∧ (bit f.index 31 = true → i % 4 = 0 → i + 4 * n ≤ 16384 → dumps (1048576 + i)))

/-- WRITE and DELETE (R231, R232, R248, R257, R261, R262, R264), in one replica or with fanout 1 in all, which takes
the next vintage. A WRITE to an indexed table, 2 to 8, puts the image into each replica named and those that shadow
it. A WRITE of an exact-match key that is held replaces it in place (0x02); a new key takes the first free place of
its bucket, else the lowest of the overflow store (0x00); where both are full it evicts an entry that is not static,
by the policy (0x01), or is answered 0x04 with nothing changed. A WRITE to the LPM table replaces the prefix in its
row, takes a free row of its zone, or is answered 0x04. A DELETE removes the entry from each replica named that holds
it, and is answered 0x03 where none does; with cond_age it is answered 0x0E where a press in use holds a younger
entry. The model's own choices (log entry 61): of the free places of a bucket the lowest is taken, and an entry that a
WRITE with fanout 0 adds has vintage 0, and one it replaces keeps its own; that a place is decided on the first
replica (log entry 61), and which errors come first (log entry 60). -/
def Obligations.TablesAreWritten : Prop :=
  ∀ (c : TblCmd) (s : State), s.wf →
    let f := c.fields
    let first := if f.fanout then 0 else f.replica
    let r := replica first s
    let v : Word := if f.fanout then s.engine.vintage + 1 else 0
    let vintages := fun (t : State) => if f.fanout
      then t.engine.vintage = v ∧ t.engine.vintages = List.replicate 5 v
      else t.engine.vintage = s.engine.vintage ∧ t.engine.vintages = s.engine.vintages
    let others := fun (t : State) => ∀ k, k ∉ f.targets → replica k t = replica k s
    let may := c.fault = false ∧ f.useLock = false ∧ (f.fanout = false → f.replica < 5 ∧ coordinated s = false)
    let alone := f.fanout = false → s.engine.shadows = []
    let writes := fun (code : Nat) (ps : List Part) (Q : State → Prop) => Completes (.tblWrite none) s ps (fun t =>
      vintages t ∧ others t ∧ Q t ∧ Results c { code := code, vintage := v } s t)
    let refuses := fun (code : Nat) => Completes (.tblWrite none) s [.engine, .fabric] (fun t =>
      t.engine.vintage = s.engine.vintage ∧ Results c { code := code } s t)
    (Serves 4 c s → 2 ≤ f.table → f.table ≤ 8 → f.index < tableSize f.table → (dataSize f.table ≠ 0 → f.addr % 16 = 0) →
      (f.table = 2 → ∀ k ∈ f.targets, fbit (PRS_LPM_CFG.v4_en k) s = false ∧ fbit (PRS_LPM_CFG.v6_en k) s = false) →
      may → imageOk f.table f.image = true →
      (f.fanout = false → s.engine.shadows.Nodup ∧ (f.replica, f.replica) ∉ s.engine.shadows) →
      Completes (.tblWrite none) s [.engine, .replicas, .fabric] (fun t =>
        vintages t ∧ Results c { code := 0, vintage := v } s t
        ∧ ∀ k, replica k t =
            if k ∈ f.targets ∨ (f.fanout = false ∧ (f.replica, k) ∈ s.engine.shadows)
            then putImage f.table f.index f.image (replica k s) else replica k s))
    ∧ (∀ e, Serves 4 c s → f.table = 0 → may → alone → parseEm f.image = some e →
        let b := keyBucket e.key s
        let w := e.key.width
        let full := fun (x : Replica) => (bucketPlaces b w).all fun n => !placeFree n w x
        let holds := fun (n : Nat) (x : EmEntry) (k : Nat) (t : State) =>
          mget n (replica k t).em = some x
          ∧ ∀ m, m + 1 < n ∨ n + w ≤ m → mget m (replica k t).em = mget m (replica k s).em
        let stamped : EmEntry := { e with vintage := BitVec.ofNat 16 v.toNat }
        (f.targets.all fun k => !bucketLocked k b s) = true →
        (∀ n, (∀ k ∈ f.targets, (∃ old, findKey b e.key (replica k s) = some (n, old))
            ∧ ∀ o ∈ occupants n w (replica k s), o.2.key = e.key) →
          writes 2 [.regs, .engine, .replicas, .presses, .fabric] (fun t => ∀ k ∈ f.targets, ∀ old,
            findKey b e.key (replica k s) = some (n, old) →
            holds n { e with vintage := if f.fanout then BitVec.ofNat 16 v.toNat else old.vintage } k t))
        ∧ ((∀ k ∈ f.targets, ∀ x ∈ (replica k s).em, x.2.key ≠ e.key) →
          (∀ n, (∀ k ∈ f.targets, placeFree n w (replica k s) = true) →
            ((bucketPlaces b w).find? fun n => placeFree n w r) = some n ∨ (full r = true ∧ freeOverflow w r = some n) →
            writes 0 [.engine, .replicas, .presses, .fabric] (fun t => ∀ k ∈ f.targets, holds n stamped k t))
          ∧ (∀ k ∈ f.targets, full (replica k s) = true → freeOverflow w (replica k s) = none → evictOn s = false →
            refuses 4)
          ∧ (f.fanout = false → full r = true → freeOverflow w r = none → evictOn s = true →
            (evictable b w r = [] → refuses 4)
            ∧ (evictable b w r ≠ [] → Completes (.tblWrite none) s
                [.regs, .engine, .replicas, .presses, .fabric, .freeCount] (fun t => ∃ n ∈ evictable b w r,
                  (evictPolicy s ≠ 0 → oldestPlace ownAge w r (evictable b w r) = some n)
                  ∧ holds n stamped f.replica t ∧ others t ∧ regsLeft [TBL_EVICT_CFG.reg.off] s t
                  ∧ fget TBL_EVICT_CFG.evict_cnt t = min (fget TBL_EVICT_CFG.evict_cnt s + 1) 65535
                  ∧ ∃ o ∈ occupants n w r, Results c { code := 1, key := o.2.key.head } s t)))))
    ∧ (∀ x, Serves 4 c s → f.table = 1 → may → alone → parseLpm f.image = some x →
        let at_ := fun (k : Nat) => findLpm x.vrf x.v6 x.length x.addr (replica k s)
        let z := fun (k : Nat) => zoneOf (lpmZone x.v6 x.length) (replica k s)
        let rows := fun (k : Nat) => freePlaces x.rows (z k).1 ((z k).1 + (z k).2) (replica k s)
        ((∀ k ∈ f.targets, (at_ k).isSome = true) →
          writes 2 [.engine, .replicas, .fabric, .freeCount] (fun t => ∀ k ∈ f.targets, ∀ n old, at_ k = some (n, old) →
            replica k t = { replica k s with lpm := mput n x (replica k s).lpm }))
        ∧ ((∀ k ∈ f.targets, at_ k = none ∧ rows k ≠ []) →
          writes 0 [.engine, .replicas, .fabric, .freeCount] (fun t => ∀ k ∈ f.targets, ∃ n ∈ rows k,
            replica k t = { replica k s with lpm := mput n x (replica k s).lpm }))
        ∧ (∀ k ∈ f.targets, at_ k = none → rows k = [] → refuses 4))
    ∧ (∀ key, Serves 5 c s → f.table = 0 → may → alone → parseKey f.image = some key →
        let b := keyBucket key s
        let hs := usedHolders key s
        let answers := fun (code : Nat) =>
          Completes (.tblDelete none) s [.engine, .fabric] (fun t => Results c { code := code } s t)
        ((f.condAge = true → hs ≠ [] ∧ ∀ h ∈ hs, maxAge s ≤ h.2.2.age) →
          (f.targets.all fun k => !bucketLocked k b s) = true → (∃ k ∈ f.targets, findKey b key (replica k s) ≠ none) →
          Completes (.tblDelete none) s [.engine, .replicas, .presses, .fabric] (fun t =>
            vintages t ∧ others t ∧ Results c { code := 0, vintage := v } s t
            ∧ ∀ k ∈ f.targets, (replica k t).em = match findKey b key (replica k s) with
                | some e => merase e.1 (replica k s).em
                | none => (replica k s).em))
        ∧ (f.condAge = false → (∀ k ∈ f.targets, findKey b key (replica k s) = none) → answers 3)
        ∧ (f.condAge = true → hs = [] → answers 3)
        ∧ (f.condAge = true → (∃ h ∈ hs, h.2.2.age < maxAge s) → answers 0x0E))
    ∧ (∀ x, Serves 5 c s → f.table = 1 → f.condAge = false → may → alone → lpmKey f.image = some x →
        let at_ := fun (k : Nat) => findLpm x.vrf x.v6 x.length x.addr (replica k s)
        ((∃ k ∈ f.targets, (at_ k).isSome = true) →
          Completes (.tblDelete none) s [.engine, .replicas, .fabric] (fun t =>
            vintages t ∧ others t ∧ Results c { code := 0, vintage := v } s t
            ∧ ∀ k ∈ f.targets, (replica k t).lpm = match at_ k with
                | some e => merase e.1 (replica k s).lpm
                | none => (replica k s).lpm))
        ∧ ((∀ k ∈ f.targets, at_ k = none) →
          Completes (.tblDelete none) s [.engine, .fabric] (fun t => Results c { code := 3 } s t)))

/-- LOCK, UNLOCK and LOCK_TIMEOUT (R258 to R260). A LOCK of a bucket that no lock holds, in no replica that a copy
fills, takes a slot that is not held, with the next ticket; one of a bucket that is held, or of such a replica, is
answered 0x05. An UNLOCK with the ticket of its slot frees the slot, and carries out the staged changes unless index
says to discard them. A lock that is held too long is broken. The answer 0x05 for a replica that a copy fills, and
that staged changes are applied to the replicas of the lock, are the model's own choices (log entry 60). -/
def Obligations.BucketsAreLocked : Prop :=
  ∀ (c : TblCmd) (slot : BitVec 4) (s : State), s.wf →
    let f := c.fields
    (Serves 1 c s → f.table = 0 → f.index < 262144 → (f.fanout = false → f.replica < 5 ∧ coordinated s = false) →
      (copyInto f s = false → (f.targets.any fun k => bucketLocked k f.index s) = false → (∃ j < 16, (lockOf j s).held = false) →
        Completes (.lock none) s [.engine, .fabric, .freeCount] (fun t => ∃ i < 16, (lockOf i s).held = false
          ∧ t.engine.locks = setNth i
              { ticket := (lockOf i s).ticket + 1, held := true, all := f.fanout, replica := f.replica, bucket := f.index,
                staged := [], broken := (lockOf i s).broken.filter fun x => x != (lockOf i s).ticket + 1 } s.engine.locks
          ∧ Results c { code := 0, slot := i, ticket := ((lockOf i s).ticket + 1).toNat } s t))
      ∧ (copyInto f s = true ∨ (f.targets.any fun k => bucketLocked k f.index s) = true → Completes (.lock none) s [.engine, .fabric] (fun t =>
        t.engine.locks = s.engine.locks ∧ Results c { code := 5 } s t)))
    ∧ (Serves 2 c s → f.table = 0 → (lockOf f.slot s).ticket.toNat = f.ticket → (lockOf f.slot s).held = true →
        let l := lockOf f.slot s
        let free := setNth f.slot (l.release false) s.engine.locks
        (f.index % 2 = 1 ∨ l.staged = [] → Completes (.unlock none) s [.engine, .fabric] (fun t =>
          t.engine.locks = free ∧ Results c { code := 0 } s t))
        ∧ (∀ u, f.index % 2 = 0 → l.staged ≠ [] →
            (l.all = true ∨ changeLocked l.replica l.bucket (setLock f.slot (l.release false) (takeCmd c s)) = false) →
            runAllStaged l 0 l.staged (takeVintage l.all (setLock f.slot (l.release false) (takeCmd c s))) = .ok u →
            Completes (.unlock none) s (mayChange (.unlock none)) (fun t =>
              t.replicas = u.replicas ∧ t.engine.locks = free
              ∧ Results c { code := 0, vintage := gotVintage l.all u } s t)))
    ∧ (live s = true → (lockOf slot.toNat s).held = true → s.errors.count < 64 →
        Completes (.lockTimeout slot) s [.regs, .engine, .errors] (fun t =>
          t.engine.locks = setNth slot.toNat ((lockOf slot.toNat s).release true) s.engine.locks
          ∧ fbit TBL_STAT.lock_broken t = true ∧ t.errors.count = s.errors.count + 1
          ∧ (fget EVT_STAT.src_pending t).testBit 7 = true))
    ∧ (live s = true → (lockOf slot.toNat s).held = false → exec (.lockTimeout slot) s = .next s)

/-- ZONE_MOVE, REPLICA_COPY, AGE_SWEEP, their ends, and AGE_TICK (R245 to R249, R264 to R266). A move that no zone is
short for starts and, done, moves the boundary of its zones in every replica that it names; a copy shadows its source
whose target no lock holds, and, done, gives the target the source's contents and vintage; a sweep starts and, done,
ages what is not static by one, to at most 15, or sets a newly placed replica's ages to zero. A tick makes a sweep
due, or is counted. That a move takes its vintage at its end, and that ages change when the sweep is done, are the
model's own choices (log entry 61). -/
def Obligations.TableJobsRun : Prop :=
  ∀ (c : TblCmd) (j : TblJob) (s : State), s.wf →
    let f := c.fields
    (Serves 6 c s → f.table = 2 → f.index ≤ 160 → c.fault = false → f.fanout = true → f.useLock = false →
      moveCount f ≠ 0 → (moveCount f).natAbs ≤ 4096 → (f.index ≤ 128 → (moveCount f).natAbs % 2 = 0) →
      (∀ k < 5, moveShort f.index (moveCount f) (replica k s) = 0) →
      Completes (.zoneMove none) s [.engine] (fun t =>
        t.engine.move = some ⟨c, f.replica, [0, 1, 2, 3, 4], f.index, moveCount f⟩))
    ∧ (live s = true → s.engine.move = some j → j.cmd.fields.fanout = true → j.targets = [0, 1, 2, 3, 4] →
        Completes .zoneMoveDone s [.replicas, .engine, .fabric, .freeCount] (fun t =>
          t.engine.move = none ∧ t.engine.vintage = s.engine.vintage + 1
          ∧ (∀ k < 5, replica k t = moveZone j.zone j.delta s.freeCount (replica k s))
          ∧ Results j.cmd { code := 0, vintage := s.engine.vintage + 1 } s t))
    ∧ (Serves 7 c s → f.replica < 5 → f.index < 5 → f.index ≠ f.replica → coordinated s = true →
        s.engine.sweep = none → s.engine.copy = none →
        (∀ l ∈ s.engine.locks, l.held = true → l.all = false ∧ l.replica ≠ f.index) →
        Completes (.replicaCopy none) s [.engine] (fun t =>
          t.engine.copy = some ⟨c, f.replica, [f.index], 0, 0⟩ ∧ (f.replica, f.index) ∈ t.engine.shadows
          ∧ (f.replica, f.index) ∉ t.engine.copied
          ∧ (s.engine.shadows.Nodup → t.engine.shadows.Nodup)
          ∧ ((∀ p ∈ s.engine.shadows, p.1 ≠ p.2) → ∀ p ∈ t.engine.shadows, p.1 ≠ p.2)))
    ∧ (∀ k, live s = true → s.engine.copy = some j → j.targets = [k] → j.cmd.fields.index = k → k < 5 →
        Completes .replicaCopyDone s [.replicas, .engine, .fabric] (fun t =>
          t.engine.copy = none ∧ replica k t = replica j.source s
          ∧ (∀ i, i ≠ k → replica i t = replica i s)
          ∧ t.engine.vintages = setNth k (nth 0 j.source s.engine.vintages) s.engine.vintages ∧ Results j.cmd { code := 0 } s t))
    ∧ (Serves 8 c s → f.table = 0 → s.engine.sweep = none → s.engine.copy = none →
        Completes (.ageSweep none) s [.engine] (fun t =>
          t.engine.sweep = some ⟨c, 0, s.engine.zeroAges, 0, 0⟩ ∧ t.engine.zeroAges = [] ∧ t.engine.agePending = false))
    ∧ (live s = true → s.engine.sweep = some j → coordinated s = true →
        Completes .ageSweepDone s (mayChange .ageSweepDone) (fun t =>
          t.engine.sweep = none ∧ t.engine.zeroAges = s.engine.zeroAges
          ∧ (∀ k < 5, (replica k t).em = (sweepAges (j.targets.contains k) (replica k s)).em)
          ∧ Results j.cmd { code := 0 } s t))
    ∧ (live s = true → fbit TBL_AGE_CFG.age_en s = true →
        (s.engine.agePending = false → Completes .ageTick s [.engine] (fun t =>
          t.engine = { s.engine with agePending := true }
          ∧ (fbit TBL_AGE_CFG.host_sweep s = true → (fget EVT_STAT.src_pending t).testBit 1 = true)))
        ∧ (s.engine.agePending = true → Completes .ageTick s [.regs] (fun t =>
          fget TBL_STAT.age_stretched t = min (fget TBL_STAT.age_stretched s + 1) 65535
          ∧ regsLeft [TBL_STAT.reg.off] s t)))

/-- TABLE_COMMAND_DOORBELL, TABLE_CMD_READ_COMPLETE, LEARN_FILTER_HOLDOFF, LEARN_PROD_TIMER, LEARN_CONS_READ_COMPLETE
and SET_LEARN_MODE (R237, R240, R242 to R244, R250, R251). A doorbell reads prod of the command ring, and a prod in
range is followed by the read of the next command, which enters the ring's queue when it is whole; a prod out of range
stops the ring. A key whose holdoff is over leaves the filter; the learn ring's prod is written; a cons in range is
taken and one out of range stops the ring. A change to independent mode with 3 or more presses in use is refused; a
mode that may be set is set, shadowing ends, and the tables count as diverged or the filters empty. -/
def Obligations.TableAndLearnRings : Prop :=
  ∀ (k : Fin 5) (fd : BitVec 14) (mac : BitVec 48) (mode : Byte) (s : State), s.wf →
    (regLive s = true → ringServed s = true → s.engine.headOut = false →
      Completes .tableCommandDoorbell s [.engine, .fabric] (fun t =>
        Submits false (ownerFunc s) (cmdBase s) 4 .cmdHeader s t ∧ t.engine = { s.engine with headOut := true }))
    ∧ (∀ (req : Nat) (r : Req) (bs : Bytes), Awaits req r s → r.write = false → bs.length = r.len → ringServed s = true →
        (r.purpose = .cmdHeader → s.engine.headAgain = false → s.engine.cmdOut = false → s.engine.dataOut = false →
          s.engine.fetched = none →
          let v := BitVec.ofNat 32 (leNat bs)
          (used v s.engine.done ≤ 2 ^ cmdLog2 s → used s.engine.prod s.engine.done ≤ used v s.engine.done →
            s.engine.fetch ≠ v →
            Completes (.tableCmdReadComplete req (.data bs)) s [.engine, .fabric] (fun t =>
              Answered req t ∧ t.engine = { s.engine with headOut := false, prod := v, cmdOut := true }
              ∧ Submits false (ownerFunc s) (cmdAddr s.engine.fetch s) 64 .cmdRead s t))
          ∧ (2 ^ cmdLog2 s < used v s.engine.done →
            Completes (.tableCmdReadComplete req (.data bs)) s [.regs, .engine, .fabric] (fun t =>
              Answered req t ∧ t.engine.ringOff = true ∧ t.engine.prod = s.engine.prod
              ∧ fbit TBL_STAT.ring_fault t = true)))
        ∧ (r.purpose = .cmdRead → s.engine.dataOut = false → s.engine.fetched = none →
          s.engine.prod = s.engine.fetch + 1 →
          ({ fromRing := true, index := s.engine.fetch, bytes := bs, data := [], fault := false } : TblCmd).wants = 0 →
          Completes (.tableCmdReadComplete req (.data bs)) s [.engine, .fabric] (fun t =>
            Answered req t ∧ t.engine = { s.engine with
              cmdOut := false, fetch := s.engine.fetch + 1,
              ringQ := s.engine.ringQ ++
                [{ fromRing := true, index := s.engine.fetch, bytes := bs, data := [], fault := false }] })))
    ∧ (live s = true → Completes (.learnFilterHoldoff k fd mac) s [.presses] (fun t =>
        press k.val t = { press k.val s with filter := (press k.val s).filter.erase ⟨fd.toNat, mac⟩ }))
    ∧ (live s = true → s.engine.learn.prodDue false = true → Completes .learnProdTimer s [.engine, .fabric] (fun t =>
        Submits true (ownerFunc s) (learnBase s + 4) 4 .learnProd s t ∧ t.engine.learn = s.engine.learn.prodSent))
    ∧ (live s = true → s.engine.learn.prodDue false = false →
        Completes .learnProdTimer s [] (fun t => t.engine = s.engine))
    ∧ (∀ (req : Nat) (r : Req) (bs : Bytes), Awaits req r s → r.write = false → r.purpose = .learnCons →
        bs.length = r.len →
        let v := BitVec.ofNat 32 (leNat bs)
        (s.engine.learn.consBad (learnLog2 s) v = false →
          Completes (.learnConsReadComplete req (.data bs)) s [.engine, .fabric] (fun t =>
            Answered req t ∧ t.engine = { s.engine with learn := { s.engine.learn with consOut := false, cons := v } }))
        ∧ (s.engine.learn.consBad (learnLog2 s) v = true →
          Completes (.learnConsReadComplete req (.data bs)) s [.regs, .engine, .fabric] (fun t =>
            Answered req t ∧ t.engine.learnOff = true ∧ fbit TBL_STAT.learn_fault t = true
            ∧ t.engine.learn.cons = s.engine.learn.cons)))
    ∧ (live s = true → mode = 0 → 3 ≤ pressesInUse s → coordinated s = true →
        Completes (.setLearnMode mode) s [.regs] (fun t =>
          fbit TBL_LEARN_STAT.mode_refused t = true ∧ coordinated t = true ∧ regsLeft [TBL_LEARN_STAT.reg.off] s t))
    ∧ (live s = true → mode.toNat < 2 → s.racking.state = 0 →
        (¬(mode = 0 ∧ 3 ≤ pressesInUse s ∧ coordinated s = true) → coordinated s ≠ (mode == 1) →
            Completes (.setLearnMode mode) s [.regs, .presses, .engine] (fun t =>
              coordinated t = (mode == 1) ∧ t.engine = { s.engine with shadows := [], copied := [] }
              ∧ (mode = 1 → fbit TBL_LEARN_STAT.diverged t = true)
              ∧ (mode = 0 → ∀ i, (press i t).filter = []))))

/-! ### Fabric, functions and events (spec/12) -/

/-- READ_TIMEOUT, WRITE_TIMEOUT, LATE_COMPLETION, QUARANTINE_EXPIRY, WRITE_HOLD_EXPIRY, FABRIC_PORT_IERR and
FABRIC_PORT_RESTORE (R363 to R366), with fault_thresh 0. The tag of a request that times out is quarantined; a request
that may be reissued is issued once more, on another port; one that may not leaves the fabric. A late answer is
counted and frees its tag, and so does the end of its quarantine or hold; an answer to no request is discarded, which
is the model's choice (log entry 8). A rise of fp_ierr takes an idle port out of service, and restore brings it back
while fp_ierr is low. -/
def Obligations.RequestsTimeOut : Prop :=
  ∀ (req : Nat) (r : Req) (p : Nat) (i : BitVec 4) (s : State), s.wf →
    let mark : Quarantine := ⟨req, p, r.write, r.addr, r.func, r.purpose⟩
    (∀ c, Awaits req r s → r.port = some p → fget FAB_CTL.fault_thresh s = 0 →
      c = (if r.write then Instr.writeTimeout req else Instr.readTimeout req) →
      (canReissue r p s = true → s.power.drain = none → (∀ x, r.purpose.chan = some x → (chan x s).state = .running) →
        Completes c s [.fabric] (fun t =>
          mark ∈ t.fabric.quarantine
          ∧ ∃ q ∈ t.fabric.reqs, q.id = req ∧ q.reissued = true ∧ q.left = some p ∧ q.port ≠ some p))
      ∧ (canReissue r p s = false → r.purpose = (if r.write then .learnProd else .learnCons) →
        Completes c s [.regs, .engine, .fabric] (fun t =>
          Answered req t ∧ mark ∈ t.fabric.quarantine ∧ fbit TBL_STAT.ring_fault t = true)))
    ∧ (∀ q, auxPort s = true → quarantined req s = some q → (func q.func s).qState = 0 →
        Completes (.lateCompletion req) s [.regs, .fabric] (fun t =>
          t.fabric.quarantine = s.fabric.quarantine.erase q
          ∧ (q.port < 16 →
              fget (FAB_LATE_CNT.late q.port) t = min (fget (FAB_LATE_CNT.late q.port) s + 1) (2 ^ 32 - 1))))
    ∧ (auxPort s = true → quarantined req s = none → exec (.lateCompletion req) s = .next s)
    ∧ (∀ q, auxPort s = true → quarantined req s = some q → (func q.func s).qState = 0 →
        (∀ x ∈ s.fabric.quarantine, x.req = req → x = q) →
        (q.write = false → Completes (.quarantineExpiry req) s [.fabric] (fun t =>
          t.fabric.quarantine = s.fabric.quarantine.erase q))
        ∧ (q.write = true → Completes (.writeHoldExpiry req) s [.fabric] (fun t =>
          t.fabric.quarantine = s.fabric.quarantine.erase q)))
    ∧ (auxPort s = true → i.toNat ∉ s.fabric.ierr → i.toNat ∉ s.fabric.faulted → portReqs i.toNat s = [] →
        s.errors.count < 64 → Completes (.fabricPortIerr i true) s [.regs, .fabric, .errors] (fun t =>
          i.toNat ∈ t.fabric.ierr ∧ i.toNat ∈ t.fabric.faulted ∧ inService i.toNat t = false
          ∧ t.errors.count = s.errors.count + 1 ∧ (fget EVT_STAT.src_pending t).testBit 6 = true))
    ∧ Completes (.fabricPortIerr i false) s [.fabric] (fun t =>
        t.fabric = { s.fabric with ierr := s.fabric.ierr.erase i.toNat })
    ∧ (regLive s = true → i.toNat ∉ s.fabric.ierr → Completes (.fabricPortRestore i) s [.fabric] (fun t =>
        t.fabric.faulted = s.fabric.faulted.erase i.toNat ∧ t.fabric.ierr = s.fabric.ierr))
    ∧ (regLive s = true → i.toNat ∈ s.fabric.ierr →
        Completes (.fabricPortRestore i) s [] (fun t => t.fabric.faulted = s.fabric.faulted))

/-- FUNCTION_STATE_UPDATE, HOST_LINK_CHANGE, QUIESCE_DRAIN_TIMEOUT, FUNCTION_ABANDON and RESET_DRAIN_TIMEOUT (R82,
R368, R372 to R379). A function takes the state that the endpoint presents; when bme clears it is quiesced, and its
RUNNING, STOPPING and FENCED channels enter QUIESCED. A loss of the host link quiesces every function that is
presented and whose memory lies in the host, and acts before an update of the same cycle, for which the model takes
one that waits in the queue (log entry 69). A drain that ends by time sets its flag and leaves nothing of the function
outstanding. An abandon ends every item of a function whose link was lost. A RESETTING channel whose drain ends by
time enters STOPPED whatever reads are outstanding, after the write-back of its block-written fields, which is how the
model orders the two (log entry 16). -/
def Obligations.FunctionsAreQuiesced : Prop :=
  ∀ (f : BitVec 12) (st : BitVec 5) (c : BitVec 13) (req : Nat) (r : Req) (s : State), s.wf →
    let n := f.toNat
    let x := func n s
    let d := c.toNat
    let ch := chan d s
    (auxPort s = true → linkChange s = none → x.qState = 0 →
      (bit st.toNat 1 = true → x.flr = true) → (bit st.toNat 2 = false → x.bme = false) →
      (bit st.toNat 0 = true → x.msgEn = false → x.intx = false) →
      Completes (.functionStateUpdate f st) s [.funcs] (fun t =>
        func n t = { x with present := bit st.toNat 4, vf := bit st.toNat 3, bme := bit st.toNat 2,
                            flr := bit st.toNat 1, msgEn := bit st.toNat 0 }
        ∧ ∀ m, m ≠ n → func m t = func m s))
    ∧ (auxPort s = true → linkChange s = some false → s.fabric.hostUp = true → x.present = true → x.adapterMem = false →
        Completes (.functionStateUpdate f st) s (mayChange (.functionStateUpdate f st)) (fun t =>
          t.fabric.hostUp = false ∧ (func n t).qState ≠ 0 ∧ (func n t).linkLost = true ∧ (func n t).cause = .link
          ∧ fbit FAB_HOST_LINK.loss_seen t = true))
    ∧ (auxPort s = true → linkChange s = none → x.qState = 0 → x.bme = true → x.flr = false → bit st.toNat 2 = false → bit st.toNat 1 = false →
        Completes (.functionStateUpdate f st) s (mayChange (.functionStateUpdate f st)) (fun t =>
          (func n t).qState ≠ 0 ∧ (func n t).cause = .bme ∧ mayIssue n t = false
          ∧ ∀ d, (chan d s).ctx.func = n → (chan d s).writable = true →
              (chan d t).state = .quiesced ∧ (chan d t).left = (chan d s).state ∧ (chan d t).rx.queue = []))
    ∧ (auxPort s = true → s.fabric.hostUp = true →
        Completes (.hostLinkChange true) s [] (fun t => t.fabric.hostUp = true)
        ∧ Completes (.hostLinkChange false) s (mayChange (.hostLinkChange false)) (fun t =>
            t.fabric.hostUp = false ∧ fbit FAB_HOST_LINK.loss_seen t = true
            ∧ (fget EVT_STAT.src_pending t).testBit 6 = true
            ∧ ∀ m, (func m s).present = true → (func m s).adapterMem = false →
                (func m t).qState ≠ 0 ∧ (func m t).linkLost = true ∧ (func m t).cause = .link))
    ∧ (auxPort s = true → s.fabric.hostUp = false → (∀ m, (func m s).qState ≠ 2) →
        Completes (.hostLinkChange true) s [.regs, .fabric] (fun t =>
          t.fabric.hostUp = true ∧ fbit FAB_HOST_LINK.return_seen t = true
          ∧ (fget EVT_STAT.src_pending t).testBit 6 = true))
    ∧ (auxPort s = true → x.qState = 1 → quiesceOver n s = false →
        Completes (.quiesceDrainTimeout f) s (mayChange (.quiesceDrainTimeout f)) (fun t =>
          (func n t).qState = 2 ∧ (func n t).qTimeout = true
          ∧ (∀ r ∈ t.fabric.reqs, r.func = n → r.port = none)
          ∧ (fget EVT_STAT.src_pending t).testBit 6 = true))
    ∧ (x.qState ≠ 1 → exec (.quiesceDrainTimeout f) s = .next s)
    ∧ (regLive s = true → fget FAB_FUNC_SEL.function s = n →
        (x.linkLost = true → Completes .functionAbandon s (mayChange .functionAbandon) (fun t =>
          (func n t).linkLost = false
          ∧ ∀ d ∈ funcChans n s, (chan d t).tx.chains = [] ∧ (chan d t).rx.assigned = [] ∧ points d t = {}
              ∧ ((chan d s).state = .quiesced → (chan d t).state = .stopped)))
        ∧ (x.linkLost = false → Completes .functionAbandon s [] (fun t => t.funcs = s.funcs)))
    ∧ (live s = true → ch.state = .resetting →
        (ch.writeBack = false → mayIssue ch.ctx.func s = true →
          Completes (.resetDrainTimeout c) s [.chans, .fabric] (fun t =>
            chan d t = { ch with expired := true, writeBack := true, keptCv := none } ∧ chansLeft d s t
            ∧ Sends true (ownerFunc s) (ctxAddr d s + 0x50) (cvBytes ch.tx.cv ch.rx.cv) (.writeBack d) s t))
        ∧ (ch.writeBack = true → (func ch.ctx.func s).qState ≠ 1 →
          Completes (.resetDrainTimeout c) s [.chans, .fabric] (fun t =>
            chan d t = { ch with expired := true } ∧ chansLeft d s t))
        ∧ ((func ch.ctx.func s).qState = 1 → exec (.resetDrainTimeout c) s = .next s))
    ∧ (Awaits req r s → r.write = true → r.purpose = .writeBack d → ch.state = .resetting → ch.writeBack = true →
        ch.expired = true → (func ch.ctx.func s).qState = 0 →
        Completes (.fabricWriteAck req false) s (mayChange (.fabricWriteAck req false)) (fun t =>
          (chan d t).state = .stopped ∧ (chan d t).writeBack = false ∧ chansLeft d s t))
    ∧ (ch.state ≠ .resetting → exec (.resetDrainTimeout c) s = .next s)

/-- EVENT_EMIT, INTX_ACK, EVENT_FORCE and BLOCK_EVENT_GAP (R380 to R385). With the interface enabled the first event
that can leave is put on the wires when the endpoint is ready, as a message, or as an INTx assert while none is
pending; it no longer waits, and evt_cnt counts it. When the endpoint is not ready it stays and stall reads 1. An
acknowledge clears a pending INTx and queues its deassert, and with none pending emits nothing; with an event that
folds in the same cycle the interrupt stays pending and nothing is emitted. A forced event waits; the gap of a source
ends. No event leaves before the writes that it announces are acknowledged, the records of the sample ring among them
(R361). -/
def Obligations.EventsAreEmitted : Prop :=
  ∀ (e : Event) (f : BitVec 12) (v : BitVec 11) (b : BitVec 3) (s : State), s.wf →
    let pmuLeft := fun (x : Event) (t : State) =>
      t.pmu = if x.src = .block 4 then { s.pmu with ring := { s.pmu.ring with cover := none } } else s.pmu
    (auxPort s = true → fbit EVT_CTL.en s = true →
      (nextEvent s = some e →
        exec (.eventEmit false) s = .next { s with events := { s.events with stall := true } }
        ∧ ((func e.func s).present = true → (func e.func s).flr = false → e.src ≠ .deassert → (func e.func s).msgEn = true →
            Completes (.eventEmit true) s [.regs, .rings, .events, .pmu] (fun t => pmuLeft e t ∧
              t.events.out = some (.message, e.func, e.vector) ∧ t.events.stall = false
              ∧ (∃ l, t.events.waiting = s.events.waiting.erase e ++ l)
              ∧ fget EVT_STAT.evt_cnt t = min (fget EVT_STAT.evt_cnt s + 1) 65535))
        ∧ ((func e.func s).present = true → (func e.func s).flr = false → e.src ≠ .deassert → (func e.func s).msgEn = false →
            (func e.func s).intx = false →
            Completes (.eventEmit true) s [.regs, .rings, .funcs, .events, .pmu] (fun t => pmuLeft e t ∧
              t.events.out = some (.intxAssert, e.func, 0) ∧ func e.func t = { func e.func s with intx := true }))
        ∧ ((func e.func s).present = true → (func e.func s).flr = false → e.src ≠ .deassert → (func e.func s).msgEn = false →
            (func e.func s).intx = true →
            Completes (.eventEmit true) s [.rings, .events, .pmu] (fun t => pmuLeft e t ∧
              t.events.out = s.events.out ∧ t.events.waiting = s.events.waiting.erase e))
        ∧ ((func e.func s).present = true → (func e.func s).flr = false → e.src = .deassert →
            Completes (.eventEmit true) s [.regs, .events] (fun t =>
              t.events.out = some (.intxDeassert, e.func, 0)))
        ∧ ((func e.func s).flr = true ∨ (func e.func s).present = false →
            Completes (.eventEmit true) s [.rings, .events, .pmu] (fun t => pmuLeft e t ∧
              t.events.out = s.events.out ∧ t.events.waiting = s.events.waiting.erase e)))
      ∧ (nextEvent s = none → ∀ r, exec (.eventEmit r) s = .next { s with events := { s.events with stall := false } }))
    ∧ ((∀ m, e.src = .ring m → doneWaits m s = true
          ∨ ∃ u, (ring m s).cover = some u ∧ ∃ i ∈ (ring m s).unacked, 2 ^ 31 ≤ (i - u).toNat) →
        (e.src = .block 4 → ∃ u, s.pmu.ring.cover = some u ∧ ∃ i ∈ s.pmu.ring.unacked, 2 ^ 31 ≤ (i - u).toNat) →
        ((∃ m, e.src = .ring m) ∨ e.src = .block 4) → e ∈ s.events.waiting → nextEvent s ≠ some e)
    ∧ (regLive s = true →
        (∀ fold : Bool, fold = false ∨ foldingEvent f.toNat s = none →
          ((func f.toNat s).intx = true → Completes (.intxAck f fold) s [.regs, .funcs] (fun t =>
            func f.toNat t = { func f.toNat s with intx := false } ∧ (⟨.deassert, f.toNat, 0⟩ : Event) ∈ t.events.waiting
            ∧ fget EVT_INTX_CFG.func t = f.toNat))
          ∧ ((func f.toNat s).intx = false → Completes (.intxAck f fold) s [.regs] (fun t => t.events = s.events)))
        ∧ (∀ d, foldingEvent f.toNat s = some d → (func f.toNat s).intx = true →
            Completes (.intxAck f true) s [.regs, .rings, .events, .pmu] (fun t => pmuLeft d t ∧
              func f.toNat t = func f.toNat s ∧ t.events.out = s.events.out
              ∧ t.events.waiting = s.events.waiting.erase d))
        ∧ Completes (.eventForce f v) s [.regs] (fun t =>
          (⟨.force, f.toNat, v.toNat⟩ : Event) ∈ t.events.waiting ∧ regsLeft [EVT_FORCE.reg.off] s t))
    ∧ (auxPort s = true → Completes (.blockEventGap b) s [.events] (fun t =>
        t.events = { s.events with gaps := s.events.gaps.filter (· != b.toNat) } ∧ b.toNat ∉ t.events.gaps))

/-! ### Power, reset, dormancy and cages (spec/13) -/

/-- POWER_ON_RESET, POWER_ON_RESET_ASSERT, SUPPLY_LOSS, VAUX_LOSS and VAUX_RESTORE (R107 to R111, R386 to R393, R480).
The release of power-on reset clears the core, selects the source of the cellar book and takes the points from it; the
key port closes; of a retention book that reads with an error, the error is counted, or its mirror taken. An
assertion, and VDD or VDDS out of range, hold the block in power-on reset with the points while VDDS keeps them;
outside a halt a loss makes the aux image invalid. While power-on reset is held, RCLK comes and goes as the command
says. VAUX lost makes the image invalid; restored, the island starts cold. -/
def Obligations.PowerOnResetAndSupplies : Prop :=
  ∀ (b : BookRead) (rclk : Bool) (s : State), s.wf →
    let src := if s.power.vddsKept then 0 else if s.aux.imageValid then 1 else 2
    let z := rclkReturns s
    (s.power.por = true → Completes (.powerOnReset b) s (mayChange (.powerOnReset b)) (fun t =>
      t.power = { por := false, ready := true, initBusy := false, vddsKept := true, source := src,
                  lossy := src == 0 && !s.power.clean }
      ∧ live t = true ∧ t.chans = [] ∧ t.cellar = {} ∧ t.aux.rclk = true
      ∧ (∀ c, points c t = if src = 0 then points c s else if src = 1 then mgetD {} c s.aux.image.points else {})
      ∧ t.aux.source = src ∧ t.aux.imageValid = false ∧ t.aux.cages = z.aux.cages
      ∧ t.aux.portOpen = false ∧ (∀ x ∈ t.aux.keys, x.words = [])
      ∧ (src ≠ 0 ∨ b = .clean → t.errors = {} ∧ ∀ a, mget a t.regs = if isAux a then mget a z.regs else none)
      ∧ (src = 0 → b = .corrected → fget GLB_ERR_CTL.corr_cnt t = 1)
      ∧ (src = 0 → b = .mirrorError →
          fbit AUX_BOOK_STAT.mirror_fault t = true ∧ t.book.oneMirror = true ∧ t.errors.count = 1)))
    ∧ (s.power.por = false →
      exec (.powerOnReset b) s = .next s
      ∧ Completes .powerOnResetAssert s (mayChange .powerOnResetAssert) (fun t =>
          t.power.por = true ∧ t.power.ready = false ∧ t.power.vddsKept = s.power.vddsKept ∧ t.chans = []
          ∧ (∀ a, mget a t.regs = if isAux a then mget a s.regs else none)
          ∧ (s.power.vddsKept = true → ∀ c, points c t = points c s)
          ∧ t.aux = { s.aux with drainBusy := false, dormRet := false }))
    ∧ (∀ x l, Completes (.supplyLoss x l rclk) s (mayChange (.supplyLoss x l rclk)) (fun t =>
        t.aux.rclk = if t.power.por then rclk else s.aux.rclk))
    ∧ (∀ l, l ≠ .operating → Completes (.supplyLoss .vdd l rclk) s (mayChange (.supplyLoss .vdd l rclk)) (fun t =>
        t.power.por = true ∧ t.aux.vdd = false ∧ t.power.vddsKept = s.power.vddsKept
        ∧ (s.power.vddsKept = true → ∀ c, points c t = points c s)
        ∧ (s.power.halted = false → t.aux.imageValid = false)
        ∧ (s.power.halted = true → t.aux.imageValid = s.aux.imageValid)
        ∧ (s.aux.vaux = true → s.aux.vdd = true → fbit AUX_SUPPLY_STAT.vdd_lost t = true)))
    ∧ Completes (.supplyLoss .vdds .out rclk) s (mayChange (.supplyLoss .vdds .out rclk)) (fun t =>
        t.power.por = true ∧ t.aux.vdds = .out ∧ t.power.vddsKept = false)
    ∧ (s.power.por = false ∨ rclk = s.aux.rclk →
        exec (.supplyLoss .vdds .retention rclk) s = .next { s with aux := { s.aux with vdds := .retention } })
    ∧ (s.aux.vaux = true → Completes .vauxLoss s [.regs, .aux, .errors] (fun t =>
        t.aux = { s.aux with vaux := false, imageValid := false, dormRet := false }
        ∧ (auxPort s = true → s.errors.count < 64 → t.errors.count = s.errors.count + 1)))
    ∧ (s.aux.vaux = false → Completes .vauxRestore s [.regs, .aux] (fun t =>
        t.aux = { vdd := s.aux.vdd, vdds := s.aux.vdds, rclk := s.aux.rclk, drainBusy := s.aux.drainBusy }
        ∧ ∀ a, mget a t.regs = if isAux a then none else mget a s.regs))

/-- SOFT_RESET, POWER_FAIL_WARNING and DRAIN_COMPLETE (R105, R106, R394 to R397, R409, R471 to R473, R481). A key that
is not 0xA5 and a reset while one runs or the block is dormant are refused; else the reset starts with a drain, or
waits for the end of a racking's cutover. A power fail starts a drain, also in the states of an entry or a wake, which
end; it takes over a drain that runs, and halts a block that sleeps. No drain is over while a launched chain, an
assigned frame or a write of the drain is outstanding, by the model's reading (log entry 34); then the book goes to
the aux store; a drain for a power fail halts the block, and one for a soft reset leaves the registers and points that
a reset keeps. Without VAUX the drain cannot end, which is posted. A write of the reset comes after the accesses
before it have taken effect, and so does the end of the reset: changes of PTP time that wait pass through their clock
edges first, which is the model's choice (log entry 78); e and w are the states that they leave. -/
def Obligations.DrainsEndInHaltOrReset : Prop :=
  ∀ (key : Byte) (s : State), s.wf →
    let e := portTurn s
    let w := portTurn (writeImage s)
    (auxPort e = true →
      (key ≠ 0xA5 → Completes (.softReset key) s [.regs] (fun t =>
        fbit GLB_STATUS.key_err t = true ∧ regsLeft [GLB_STATUS.reg.off] e t))
      ∧ (key = 0xA5 → e.power.resetBusy = true ∨ e.power.dorm ≠ 0 → Completes (.softReset key) s [.regs] (fun t =>
        fbit GLB_STATUS.reset_refused t = true ∧ regsLeft [GLB_STATUS.reg.off] e t))
      ∧ (key = 0xA5 → e.power.resetBusy = false → e.power.dorm = 0 →
        (e.racking.state = 0 → e.power.drain = none →
          Completes (.softReset key) s [.chans, .rings, .cellar, .fabric, .aux, .power, .pmu] (fun t =>
            t.power = { e.power with resetBusy := true, drain := some (.softReset false) }
            ∧ t.aux = { e.aux with drainBusy := true } ∧ regLive t = false))
        ∧ (e.racking.state = 2 → Completes (.softReset key) s [.power] (fun t =>
            t.power = { e.power with resetAfterRack := some (e.power.resetAfterRack.getD false) }))))
    ∧ (auxPort s = true →
      (s.power.dorm ≠ 3 → s.power.drain = none →
        Completes .powerFailWarning s [.regs, .chans, .rings, .cellar, .fabric, .aux, .power, .pmu] (fun t =>
          t.power.drain = some .powerFail ∧ t.power.halted = false ∧ t.aux.drainBusy = true
          ∧ t.power.dorm = 0 ∧ t.power.dormWaits = false
          ∧ fbit AUX_BOOK_STAT.pfail_seen t = true ∧ ∀ c, (chan c t).tx.chains = (chan c s).tx.chains))
      ∧ (s.power.dorm ≠ 3 → s.power.drain ≠ none → Completes .powerFailWarning s [.regs, .power] (fun t =>
          t.power = { s.power with drain := some .powerFail } ∧ fbit AUX_BOOK_STAT.pfail_seen t = true))
      ∧ (s.power.dorm = 3 → Completes .powerFailWarning s [.regs, .power] (fun t =>
          t.power = { s.power with halted := true })))
    ∧ ((∃ c, ∃ k ∈ (chan c s).tx.chains, k.stage = .launched)
        ∨ (∃ c, (chan c s).rx.assigned ≠ [] ∧ (chan c s).state ≠ .quiesced)
        ∨ (∃ r ∈ s.fabric.reqs, r.purpose.ofDrain = true ∧ r.discard = false ∧ r.port ≠ none) →
        drained s = false)
    ∧ (∀ cause, s.power.drain = some cause →
        (drained s = false → exec .drainComplete s = .next s)
        ∧ (drained s = true → s.aux.vaux = true →
          (cause = .powerFail → Completes .drainComplete s [.aux, .power] (fun t =>
            t.power = { s.power with halted := true, drain := none, clean := true }
            ∧ t.aux = { s.aux with
                image := { points := s.book.points,
                           prods := trim 0 ((unwriteAll s).rings.map fun e => (e.1, e.2.prod)),
                           pending := (unwriteAll s).book.pool },
                imageValid := true, drainBusy := false }))
          ∧ (cause = .softReset false → Completes .drainComplete s (mayChange .drainComplete) (fun t =>
            t.power.resetBusy = false ∧ t.power.drain = none ∧ t.power.cause = 1
            ∧ t.power.softCnt = min 0xFFFF (w.power.softCnt + 1) ∧ t.aux.imageValid = true
            ∧ (∀ c, (chan c t).state = .disabled ∧ points c t = points c w)
            ∧ (∀ a, softKept a = true → mget a t.regs = mget a w.regs)
            ∧ (∀ a, softKept a = false → a ≠ TBL_LEARN_CFG.reg.off → a ≠ TBL_LEARN_STAT.reg.off → mget a t.regs = none)
            ∧ coordinated t = coordinated w
            ∧ (t.time.sec, t.time.ns, t.time.frac, t.time.sub) = (w.time.sec, w.time.ns, w.time.frac, w.time.sub)
            ∧ (s.time.due = [] → s.time.next = [] → coordinated t = coordinated s
                ∧ (∀ c, points c t = points c s) ∧ ∀ a, softKept a = true → mget a t.regs = mget a s.regs))))
        ∧ (drained s = true → s.aux.vaux = false → s.errors.count < 64 →
          Completes .drainComplete s [.regs, .errors] (fun t => t.errors.count = s.errors.count + 1)))

/-- DORMANCY_ENTER, DORMANCY_QUIESCE_END, HOST_WAKE, WAKE_TIMER, WAKE_VDDS_RETURN, SENTINEL_FRAME and PATTERN_MATCH
(R401 to R409, R154). An entry that no reason refuses makes the block enter; when it is quiet what it holds is
discarded and counted, the book is copied and it sleeps. A wake source that is enabled ends the entry, or wakes the
block at once where VDDS is in its operating range and else when it returns; a further source of the same DCLK cycle
is recorded, the timer among them, and a wake event at another time does nothing: R406 says simultaneous sources, and
that they are those of one DCLK cycle, and that the entry passes to sleep in one step, is the model's choice (log
entry 35). A frame on a sentinel port is captured, four at most, the next one being counted; a looped port takes none.
A capture that matches a slot sets its hit and wakes the block. -/
def Obligations.DormancyAndWake : Prop :=
  ∀ (data : Word) (g : BitVec 8) (x : RxArrival) (i : BitVec 3) (s : State), s.wf →
    let woken := ∃ w, s.aux.woke = some w ∧ w.at_ = s.time.dclk
    (auxPort s = true →
      (dormRefusal (dormFields data s) = none → Completes (.dormancyEnter data) s [.regs, .power] (fun t =>
        t.power = { s.power with dorm := 1, dormWaits := false }
        ∧ fget GLB_DORM_CTL.timer_ms t = bits data.toNat 15 0 ∧ fget GLB_DORM_CTL.drain_us t = bits data.toNat 23 16
        ∧ regsLeft [GLB_DORM_CTL.reg.off] s t))
      ∧ (∀ r, dormRefusal (dormFields data s) = some r → Completes (.dormancyEnter data) s [.regs] (fun t =>
        fbit GLB_DORM_STAT.refused t = true ∧ fget GLB_DORM_STAT.refuse_reason t = r)))
    ∧ (live s = true → s.power.dorm = 1 → s.aux.vaux = true →
        Completes .dormancyQuiesceEnd s (mayChange .dormancyQuiesceEnd) (fun t =>
          t.power.dorm = 3 ∧ live t = false ∧ t.cellar.frames = [] ∧ t.cellar.arrivals = [] ∧ t.cm.slowQ = []
          ∧ t.aux.imageValid = true ∧ t.aux.dormRet = true ∧ t.aux.image.points = s.book.points
          ∧ fget GLB_DORM_STAT.dorm_discard t
              = min (fget GLB_DORM_STAT.dorm_discard s + heldFrames (admitArrivals s)) 65535))
    ∧ (fbit AUX_WAKE_CFG.host_en s = true →
        (canWake s = true →
          (s.power.dorm = 1 → Completes .hostWake s [.regs, .aux, .power] (fun t =>
            t.power.dorm = 0 ∧ fbit GLB_WAKE_SRC.host t = true ∧ (fget EVT_STAT.src_pending t).testBit 3 = true))
          ∧ (s.power.dorm = 3 → s.aux.vdds = .operating → Completes .hostWake s (mayChange .hostWake) (fun t =>
            t.power.dorm = 0 ∧ live t = true ∧ fbit GLB_WAKE_SRC.host t = true
            ∧ (fget EVT_STAT.src_pending t).testBit 3 = true))
          ∧ (s.power.dorm = 3 → s.aux.vdds ≠ .operating → Completes .hostWake s [.regs, .aux, .power] (fun t =>
            t.power = { s.power with dorm := 4, dormWaits := true } ∧ fbit GLB_WAKE_SRC.host t = true)))
        ∧ (canWake s = false → auxPort s = true → s.aux.vaux = true → woken → Completes .hostWake s [.regs, .aux] (fun t =>
            fbit GLB_WAKE_SRC.host t = true ∧ t.power = s.power)))
    ∧ (fbit AUX_WAKE_CFG.host_en s = false ∨ (canWake s = false ∧ ¬ woken) →
        Completes .hostWake s [] (fun t => t.power = s.power))
    ∧ (canWake s = true → s.power.dorm = 3 → s.aux.rclk = true → fbit AUX_WAKE_CFG.timer_en s = true →
        fget GLB_DORM_CTL.timer_ms s ≠ 0 → s.aux.vdds = .operating →
        Completes .wakeTimer s (mayChange .wakeTimer) (fun t =>
          t.power.dorm = 0 ∧ fbit GLB_WAKE_SRC.timer t = true))
    ∧ ((∃ w, s.aux.woke = some w ∧ w.at_ = s.time.dclk ∧ w.asleep = true) → canWake s = false → auxPort s = true →
        s.aux.vaux = true → s.aux.rclk = true → fbit AUX_WAKE_CFG.timer_en s = true → fget GLB_DORM_CTL.timer_ms s ≠ 0 →
        Completes .wakeTimer s [.regs, .aux] (fun t => fbit GLB_WAKE_SRC.timer t = true ∧ t.power = s.power))
    ∧ (auxPort s = true → s.power.dorm = 4 →
        Completes .wakeVddsReturn s (mayChange .wakeVddsReturn) (fun t =>
          t.power.dorm = 0 ∧ t.aux.vdds = .operating ∧ fbit GLB_DORM_STAT.wake_late t = true
          ∧ (fget EVT_STAT.src_pending t).testBit 3 = true)
        ∧ Completes (.supplyLoss .vdds .operating true) s (mayChange .wakeVddsReturn) (fun t =>
          t.power.dorm = 0 ∧ t.aux.vdds = .operating ∧ (fget EVT_STAT.src_pending t).testBit 3 = true))
    ∧ (∀ n, auxPort s = true → s.aux.vaux = true → sentinelOf g.toNat s = some n →
        (s.power.dorm = 3 → evaluates g.toNat s = true → fbit (PRT_MAC_CFG.loopback g.toNat) s = false →
          ((nth {} n s.aux.sentinels).captures.length < 4 →
            (sentinelPass g.toNat x s = true → Completes (.sentinelFrame g x) s [.aux] (fun t =>
              t.aux.sentinels = setNth n { nth {} n s.aux.sentinels with
                captures := (nth {} n s.aux.sentinels).captures ++
                  [if 128 ≤ x.bytes.length then x.bytes.take 128 else stripFcs x.bytes] } s.aux.sentinels))
            ∧ (sentinelPass g.toNat x s = false → exec (.sentinelFrame g x) s = .next s))
          ∧ (4 ≤ (nth {} n s.aux.sentinels).captures.length → Completes (.sentinelFrame g x) s [.regs] (fun t =>
            fget AUX_WAKE_CFG.sentinel_miss t = min (fget AUX_WAKE_CFG.sentinel_miss s + 1) 65535)))
        ∧ (s.power.dorm = 3 → fbit (PRT_MAC_CFG.loopback g.toNat) s = true → exec (.sentinelFrame g x) s = .next s)
        ∧ (s.power.dorm = 4 → Completes (.sentinelFrame g x) s [.regs] (fun t =>
            fget AUX_WAKE_CFG.sentinel_miss t = min (fget AUX_WAKE_CFG.sentinel_miss s + 1) 65535)))
    ∧ (∀ c rest, s.aux.vaux = true → s.aux.rclk = true → (nth {} i.toNat s.aux.sentinels).captures = c :: rest →
        (matchSlot i.toNat c s = none → Completes (.patternMatch i) s [.aux] (fun t =>
          t.aux.sentinels = setNth i.toNat { nth {} i.toNat s.aux.sentinels with captures := rest } s.aux.sentinels))
        ∧ (∀ n, matchSlot i.toNat c s = some n → canWake s = true → s.power.dorm = 3 → s.aux.vdds = .operating →
            fbit AUX_WAKE_CFG.pattern_en s = true →
            Completes (.patternMatch i) s (mayChange (.patternMatch i)) (fun t =>
              t.power.dorm = 0 ∧ fbit (AUX_WAKE_PAT_CTL.hit n) t = true ∧ fbit GLB_WAKE_SRC.pattern t = true
              ∧ fget GLB_WAKE_SRC.sentinel t = i.toNat ∧ fget GLB_WAKE_SRC.slot t = n)))

/-- THROTTLE_WINDOW_END, PRESS_CLOCK_SWITCH and SLOW_WINDOW_END (R398 to R400, R430). A window's use is shown; one of
up_pct or more triggers a step up, and after down_win low windows in a row the press of a throttling clock with no
step up under way steps down once; a triggered step up goes to the full clock and is counted. A slow window restarts
its counts and shows whether the press was slow. -/
def Obligations.PressWindowsEnd : Prop :=
  ∀ (k : Fin 5) (s : State), s.wf → live s = true →
    let p := press k.val s
    let up := clamp 1 100 (fget GLB_THROTTLE_CFG.up_pct s)
    (throttles k.val s = true → windowLow k.val s = true → p.div < 2 → p.stepUp = false →
      max 1 (fget GLB_THROTTLE_CFG.down_win s) ≤ p.downRun + 1 → p.winDealt * 100 < up * windowSlots k.val s →
      Completes (.throttleWindowEnd k) s [.regs, .presses] (fun t =>
        (press k.val t).div = p.div + 1 ∧ (press k.val t).winDealt = 0 ∧ (press k.val t).downRun = 0
        ∧ fget (PRS_CLK_STAT.use_pct k.val) t = min (usePct p.winDealt (windowSlots k.val s)) 100
        ∧ (press k.val t).waiting = p.waiting ∧ (press k.val t).window = p.window))
    ∧ (throttles k.val s = true → up * windowSlots k.val s ≤ p.winDealt * 100 → p.div ≠ 0 →
      Completes (.throttleWindowEnd k) s [.regs, .presses] (fun t =>
        (press k.val t).div = p.div ∧ (press k.val t).stepUp = true ∧ (press k.val t).winDealt = 0
        ∧ fget (PRS_CLK_STAT.use_pct k.val) t = min (usePct p.winDealt (windowSlots k.val s)) 100))
    ∧ (throttles k.val s = false → Completes (.throttleWindowEnd k) s [.regs, .presses] (fun t =>
        press k.val t = { p with winDealt := 0, downRun := if windowLow k.val s then p.downRun + 1 else 0 }
        ∧ fget (PRS_CLK_STAT.use_pct k.val) t = min (usePct p.winDealt (windowSlots k.val s)) 100
        ∧ regsLeft [(PRS_CLK_STAT.reg k.val).off] s t))
    ∧ (p.stepUp = true → p.div ≠ 0 → Completes (.pressClockSwitch k) s [.regs, .presses] (fun t =>
        (press k.val t).div = 0 ∧ (press k.val t).stepUp = false
        ∧ fget GLB_THROTTLE_STAT.up_cnt t = min (fget GLB_THROTTLE_STAT.up_cnt s + 1) 65535
        ∧ fget (PRS_CLK_STAT.steps k.val) t = min (fget (PRS_CLK_STAT.steps k.val) s + 1) 65535))
    ∧ (p.stepUp = false → exec (.pressClockSwitch k) s = .next s)
    ∧ (inRacking k.val s = false →
        fbit GLB_SLOW_CFG.en s = false ∨ windowSlow k.val s = false ∨ p.slowRun + 1 < fget GLB_SLOW_CFG.slow_win s →
        Completes (.slowWindowEnd k) s [.regs, .presses] (fun t =>
          press k.val t = { p with winCycles := 0, winWaiting := 0, winDelivered := 0, winLost := 0,
                                   slowRun := if windowSlow k.val s then p.slowRun + 1 else 0 }
          ∧ (fget GLB_SLOW_STAT.slow t).testBit k.val = windowSlow k.val s
          ∧ regsLeft [GLB_SLOW_STAT.reg.off] s t))
    ∧ (inRacking k.val s = true → exec (.slowWindowEnd k) s = .next s)

/-- The cage rows (R390, R406, R410, R411, R413, R414, R490). While the aux island is supplied and clocked, a presence
change, power requests, power good and its loss, the time limit, the fault input and the button move a cage between
EMPTY (0), OFF (1), POWERING (2), ON (3) and FAULT (4), with its power output on in POWERING and ON; each event sets
its bit of AUX_CAGE_EVT, and no other cage changes. While RCLK is absent inputs are latched, and only a power fault
turns the output off; when it returns, a latched fault and a latched presence take effect, a presence by the last
level that came while RCLK was absent, which is the model's choice (log entry 36). Without VAUX a cage's inputs do
nothing. -/
def Obligations.CagesFollowTheirSignals : Prop :=
  ∀ (n : BitVec 5) (on : Bool) (s : State), s.wf →
    let c := n.toNat
    let x := cage c s
    let goes := fun (x : Cage) (t : State) => t.aux = { s.aux with cages := setNth c x s.aux.cages }
    let woken := ∃ w, s.aux.woke = some w ∧ w.at_ = s.time.dclk
    (s.aux.vaux = true → s.aux.rclk = true →
      (x.present = false → x.state = 0 → Completes (.cagePresenceChange n true) s [.regs, .aux] (fun t =>
        goes { x with present := true, state := 1, pwrOut := false } t ∧ fbit (AUX_CAGE_EVT.pres_chg c) t = true))
      ∧ (x.present = true → Completes (.cagePresenceChange n false) s [.regs, .aux] (fun t =>
        goes { x with present := false, state := 0, pwrOut := false } t ∧ fbit (AUX_CAGE_EVT.pres_chg c) t = true
        ∧ fbit (AUX_CAGE_CTL.pwr_en c) t = false))
      ∧ (x.state = 2 →
        Completes (.cagePowerGood n) s [.regs, .aux] (fun t =>
          goes { x with pg := true, state := 3, pwrOut := true } t ∧ fbit (AUX_CAGE_EVT.on_reached c) t = true)
        ∧ Completes (.cagePgTimeout n) s [.regs, .aux] (fun t =>
          goes { x with state := 4, pwrOut := false, cause := 2 } t ∧ fbit (AUX_CAGE_EVT.fault c) t = true
          ∧ fget (AUX_CAGE_CTL.pwr_en c) t = fget (AUX_CAGE_CTL.pwr_en c) s))
      ∧ ((x.state = 2 ∨ x.state = 3) →
        Completes (.cagePowerFault n true) s [.regs, .aux] (fun t =>
          goes { x with faultIn := true, state := 4, pwrOut := false, cause := 1 } t
          ∧ fbit (AUX_CAGE_EVT.fault c) t = true
          ∧ fget (AUX_CAGE_CTL.pwr_en c) t = fget (AUX_CAGE_CTL.pwr_en c) s))
      ∧ Completes (.cagePowerFault n false) s [.aux] (fun t => goes { x with faultIn := false } t)
      ∧ (x.state = 3 → Completes (.cagePowerGoodLost n) s [.regs, .aux] (fun t =>
          goes { x with pg := false, state := 4, pwrOut := false, cause := 3 } t ∧ fbit (AUX_CAGE_EVT.fault c) t = true
          ∧ fget (AUX_CAGE_CTL.pwr_en c) t = fget (AUX_CAGE_CTL.pwr_en c) s))
      ∧ (fbit (AUX_CAGE_EVT.button c) s = false → Completes (.cageButton n) s (mayChange (.cageButton n)) (fun t =>
          fbit (AUX_CAGE_EVT.button c) t = true ∧ t.aux.cages = s.aux.cages))
      ∧ (fbit (AUX_CAGE_EVT.button c) s = false → canWake s = false → ¬ woken →
          Completes (.cageButton n) s [.regs] (fun t =>
            fbit (AUX_CAGE_EVT.button c) t = true ∧ regsLeft [(AUX_CAGE_EVT.reg c).off] s t))
      ∧ (fbit (AUX_CAGE_EVT.button c) s = true → Completes (.cageButton n) s [] (fun t => t.power = s.power)))
    ∧ (s.aux.vaux = true → glbPort s = true →
      (x.state = 1 → Completes (.cagePowerEnable n) s [.regs, .aux] (fun t =>
        goes { x with state := 2, pwrOut := true } t ∧ fbit (AUX_CAGE_CTL.pwr_en c) t = true
        ∧ regsLeft [(AUX_CAGE_CTL.reg c).off] s t))
      ∧ (x.state ≠ 1 → exec (.cagePowerEnable n) s = .next s)
      ∧ (2 ≤ x.state → Completes (.cagePowerDisable n) s [.regs, .aux] (fun t =>
        goes { x with state := 1, pwrOut := false, cause := 0 } t ∧ fbit (AUX_CAGE_CTL.pwr_en c) t = false
        ∧ regsLeft [(AUX_CAGE_CTL.reg c).off] s t)))
    ∧ (x.state ≠ 2 ∨ s.aux.rclk = false → exec (.cagePgTimeout n) s = .next s)
    ∧ (s.aux.vaux = true → s.aux.rclk = false →
      Completes (.cagePresenceChange n on) s [.aux] (goes { x with latePres := some on })
      ∧ Completes (.cagePowerGood n) s [.aux] (goes { x with pg := true })
      ∧ Completes (.cagePowerGoodLost n) s [.aux] (goes { x with pg := false })
      ∧ Completes (.cagePowerFault n true) s [.aux] (goes { x with faultIn := true, lateFault := true, pwrOut := false })
      ∧ Completes (.cagePowerFault n false) s [.aux] (goes { x with faultIn := false })
      ∧ Completes (.cageButton n) s [.aux] (goes { x with lateButton := true })
      ∧ (s.power.por = true →
        Completes (.supplyLoss .vdds .retention true) s (mayChange (.supplyLoss .vdds .retention true)) (fun t =>
          (x.lateFault = true → x.latePres = none → x.state = 2 ∨ x.state = 3 →
            (cage c t).state = 4 ∧ (cage c t).cause = 1 ∧ (cage c t).pwrOut = false
            ∧ fbit (AUX_CAGE_EVT.fault c) t = true)
          ∧ (∀ p, x.latePres = some p → (cage c t).present = p ∧ fbit (AUX_CAGE_EVT.pres_chg c) t = true))))
    ∧ (s.aux.vaux = false →
        exec (.cagePresenceChange n on) s = .next s ∧ exec (.cagePowerFault n on) s = .next s
        ∧ exec (.cageButton n) s = .next s)

/-! ### Faults, racking, management and monitoring (spec/14, spec/15) -/

/-- The racking rows RACK, RACK_PREPARE_TEST, RACK_PREPARE_TIMEOUT, RACK_HANDOVER, RACK_CUTOVER_END and ABORT_RACK
(R424 to R429). A request that no reason refuses begins PREPARE towards the reserve; in PREPARE a reserve that is
current begins the cutover, the limit and an abort end it, and the limit of a racking that a fault caused is posted;
in the cutover the source's window is handed over in order, and at its end the target owns the source's rows, copies
and policer levels, the source is the reserve, isolated where the racking asks for it, and a soft reset that waited
starts. With the end of a racking the chains whose lookups a word of the source's tables has stopped are looked up
again (R224); that they wait for it, and join the copies behind those that wait, is the model's reading (log entry
39). -/
def Obligations.RowsAreRacked : Prop :=
  ∀ (b : Byte) (cause : RackCause) (tenths : BitVec 10) (s : State), s.wf → live s = true →
    let k := b.toNat
    let src := s.racking.source
    let dst := s.racking.target
    let again := fun (t : State) => ∀ c, ∀ x ∈ (chan c s).tx.chains, x.stage = .unitWait src →
      ∃ y ∈ (chan c t).tx.chains, y.first = x.first ∧ y.stage = .staged
    let handedOver := (press src s).window.filterMap fun c => handed c s
    let cut := fun (t : State) =>
      t.racking = { s.racking with state := 0, result := 1, abort := 0, lastCutover := tenths.toNat, isolateAfter := false,
                                   isolated := t.racking.isolated }
      ∧ t.engine.hold = false ∧ t.engine.shadows = [] ∧ reservePress t = src
      ∧ (∀ i, t.racking.isolated.toNat.testBit i
          = (s.racking.isolated.toNat.testBit i || (s.racking.isolateAfter && i == src)))
      ∧ fget GLB_PRESS_MAP.group0 t = (if fget GLB_PRESS_MAP.group0 s = src then dst else fget GLB_PRESS_MAP.group0 s)
      ∧ fget GLB_PRESS_MAP.group1 t = (if fget GLB_PRESS_MAP.group1 s = src then dst else fget GLB_PRESS_MAP.group1 s)
      ∧ fget GLB_PRESS_MAP.group2 t = (if fget GLB_PRESS_MAP.group2 s = src then dst else fget GLB_PRESS_MAP.group2 s)
      ∧ fget GLB_PRESS_MAP.group3 t = (if fget GLB_PRESS_MAP.group3 s = src then dst else fget GLB_PRESS_MAP.group3 s)
      ∧ isActive src t = false ∧ (fget EVT_STAT.src_pending t).testBit 5 = true
    (k < 5 → rackRefusal k s = none → Completes (.rack b cause) s [.regs, .presses, .racking] (fun t =>
      t.racking = { s.racking with state := 1, source := k, target := reservePress s, cause := rackCode cause,
                                   isolateAfter := rackCode cause != 0, code := 0x0F }
      ∧ (fget EVT_STAT.src_pending t).testBit 5 = true))
    ∧ (∀ r, k < 5 → rackRefusal k s = some r → Completes (.rack b cause) s [.racking] (fun t =>
        t.racking = { s.racking with result := 2, abort := r }))
    ∧ (5 ≤ k → Completes (.rack b cause) s [] (fun t => t.racking = s.racking))
    ∧ (s.racking.state = 1 →
        (reserveCurrent src s = true → Completes .rackPrepareTest s [.presses, .engine, .racking] (fun t =>
          t.racking = { s.racking with state := 2 } ∧ t.engine = { s.engine with hold := true }
          ∧ press src t = { press src s with stopped := true } ∧ (fget EVT_STAT.src_pending t).testBit 5 = true))
        ∧ (reserveCurrent src s = false → exec .rackPrepareTest s = .next s)
        ∧ (s.racking.cause ≠ 2 → Completes .rackPrepareTimeout s [.regs, .chans, .presses, .racking] (fun t =>
          t.racking = { s.racking with state := 0, result := 2, abort := 4 } ∧ again t))
        ∧ (s.racking.cause = 2 → s.errors.count < 64 →
          Completes .rackPrepareTimeout s (mayChange .rackPrepareTimeout) (fun t =>
            t.racking = { s.racking with state := 0, result := 2, abort := 4 } ∧ t.errors.count = s.errors.count + 1))
        ∧ Completes .abortRack s [.regs, .chans, .presses, .racking] (fun t =>
          t.racking = { s.racking with state := 0, result := 2, abort := 5 } ∧ again t))
    ∧ (s.racking.state ≠ 1 → exec .rackPrepareTest s = .next s ∧ exec .rackPrepareTimeout s = .next s
        ∧ exec .abortRack s = .next s)
    ∧ (s.racking.state = 2 → src < 5 → Completes .rackHandover s [.presses, .pmu] (fun t =>
        (press src t).window = [] ∧ (press src t).waiting = handedOver ++ (press src s).waiting
        ∧ (press src t).stopped = (press src s).stopped ∧ ∀ i, i ≠ src → press i t = press i s))
    ∧ (s.racking.state = 2 → src < 5 → dst < 5 → src ≠ dst →
        (s.power.resetAfterRack = none →
          Completes (.rackCutoverEnd tenths) s (mayChange (.rackCutoverEnd tenths)) (fun t =>
            cut t ∧ again t ∧ (press src t).waiting = [] ∧ (press src t).window = [] ∧ (press src t).stopped = false
            ∧ (∃ more, (press dst t).waiting = handedOver ++ (press src s).waiting ++ (press dst s).waiting ++ more
                ∧ ((∀ c, ∀ x ∈ (chan c s).tx.chains, x.stage ≠ .unitWait src) → more = []))
            ∧ ∀ n, (policer dst n t).tc = (policer src n s).tc ∧ (policer dst n t).tp = (policer src n s).tp
                ∧ (policer dst n t).last = (policer src n s).last))
        ∧ (∀ e, s.power.resetAfterRack = some e →
          Completes (.rackCutoverEnd tenths) s (mayChange (.rackCutoverEnd tenths)) (fun t =>
            cut t ∧ t.power.resetBusy = true ∧ t.power.resetAfterRack = none)))

/-- ERROR_POP, SPARE_BANK, RETENTION_SPARE_DONE, RESTORE_PRESS, PRESS_SELF_TEST_DONE, PRESS_LOGIC_FAULT and
COUNTER_RESET (R418, R420, R431, R432, R448, R453, R458). A pop frees the oldest records. A bank that is spared is
copied to a free spare; a retention macro's copy done, both mirrors are in use again. A press that is restored tests
its lanes: a pass takes its isolation off, a failure is posted. A press fault is posted, and racks the press where
rack_on_fault is 1; in a racking a fault of the target isolates it and ends the preparation, and one of the source
stops it, to be isolated after: R422 speaks of a second error in a unit in recovery, and that any racking counts is
the model's choice (log entry 39), as it is that a press is tested whatever it does (log entry 42). A reset of the
counters sets each to 0, and a programmable one to the events of its cycle. -/
def Obligations.FaultsSparingAndSelfTest : Prop :=
  ∀ (n : BitVec 7) (b : Byte) (k : Fin 5) (e : SameCycleEvent) (s : State), s.wf →
    (glbPort s = true → Completes (.errorPop n) s [.errors] (fun t =>
      t.errors.count = s.errors.count - min n.toNat s.errors.count ∧ t.errors.posted = s.errors.posted))
    ∧ (live s = true →
      (∀ i, b.toNat < 64 → s.cellar.copyBank = none → freeSpare s = some i →
        Completes (.spareBank b) s [.cellar] (fun t =>
          t.cellar.copyBank = some b.toNat ∧ t.cellar.copySpare = i ∧ t.cellar.frames = s.cellar.frames))
      ∧ (64 ≤ b.toNat ∨ s.cellar.copyBank ≠ none ∨ freeSpare s = none → exec (.spareBank b) s = .next s)
      ∧ (s.book.copying = true → Completes .retentionSpareDone s [.book] (fun t =>
        t.book = { s.book with copying := false, spareUsed := true, oneMirror := false }))
      ∧ (s.book.copying = false → exec .retentionSpareDone s = .next s)
      ∧ (b.toNat < 5 → Completes (.restorePress b) s [.presses] (fun t =>
        press b.toNat t = { press b.toNat s with selfTest := true }))
      ∧ (5 ≤ b.toNat → exec (.restorePress b) s = .next s)
      ∧ ((press k.val s).selfTest = true →
        Completes (.pressSelfTestDone k true) s [.presses, .racking] (fun t =>
          (press k.val t).selfTest = false ∧ t.racking.isolated.toNat.testBit k.val = false
          ∧ (∀ j, j ≠ k.val → t.racking.isolated.toNat.testBit j = s.racking.isolated.toNat.testBit j)
          ∧ (fget EVT_STAT.src_pending t).testBit 5 = true)
        ∧ (s.errors.count < 64 → Completes (.pressSelfTestDone k false) s [.regs, .presses, .errors] (fun t =>
          (press k.val t).selfTest = false ∧ t.errors.count = s.errors.count + 1)))
      ∧ ((press k.val s).selfTest = false → exec (.pressSelfTestDone k true) s = .next s)
      ∧ (s.racking.state = 0 → s.errors.count < 64 →
        (fbit GLB_ESCALATE_CFG.rack_on_fault s = false → Completes (.pressLogicFault k) s [.regs, .errors] (fun t =>
          t.errors.count = s.errors.count + 1))
        ∧ (fbit GLB_ESCALATE_CFG.rack_on_fault s = true → rackRefusal k.val s = none →
          Completes (.pressLogicFault k) s [.regs, .presses, .errors, .racking] (fun t =>
            t.racking.state = 1 ∧ t.racking.source = k.val ∧ t.racking.cause = 2
            ∧ t.errors.count = s.errors.count + 1)))
      ∧ (s.errors.count < 64 →
        (s.racking.state ≠ 0 → s.racking.target = k.val →
          Completes (.pressLogicFault k) s [.regs, .chans, .presses, .errors, .racking] (fun t =>
            t.racking.isolated.toNat.testBit k.val = true ∧ t.errors.count = s.errors.count + 1
            ∧ (s.racking.state = 1 → t.racking.state = 0 ∧ t.racking.result = 2 ∧ t.racking.abort = 6)
            ∧ (s.racking.state = 2 → t.racking.state = 2)))
        ∧ (s.racking.state ≠ 0 → s.racking.target ≠ k.val → s.racking.source = k.val →
          Completes (.pressLogicFault k) s [.regs, .presses, .errors, .racking] (fun t =>
            t.racking = { s.racking with isolateAfter := true } ∧ (press k.val t).stopped = true
            ∧ t.errors.count = s.errors.count + 1)))
      ∧ Completes (.counterReset []) s [.pmu] (fun t => (∀ i, (counter i t).value = 0 ∧ (counter i t).config =
          (counter i s).config) ∧ t.pmu.resetAt = s.time.dclk)
      ∧ (e.counter.toNat < 736 → fixedCounter e.counter.toNat = false → Completes (.counterReset [e]) s [.pmu] (fun t =>
          (counter e.counter.toNat t).value = BitVec.ofNat 48 e.inc.toNat
          ∧ ∀ i, i ≠ e.counter.toNat → (counter i t).value = 0)))

/-- ACTIVATE_FW, FW_VERIFY_DONE, FW_LOAD_DONE, WATCHDOG_EXPIRY, LOCAL_SRAM_UNCORRECTABLE, CM_RESTART, CM_HALT and
CM_SLOW_PATH_END (R369, R434, R436, R438 to R440). An activation reads the image, while no other is in progress; an
image that passes goes on to its loading, and then its threads start at its entries; one that fails is reported, and
when loading fails the cellarmaster halts. A watchdog expiry restarts the threads or halts them; a halt with failover
set hands the slow path to the host. A read of the image that is answered with an error fails the pass and marks the
port that answered, and no other. A slow-path frame is discarded, or goes to a channel or a port, and one that cannot
be read is counted and discarded; a frame that the firmware builds is staged where there is room. That the length and
address are those of ACTIVATE_FW and that a halt drops the commands that wait is the model's choice (log entry 43), as
it is that a built frame without room is not sent (log entry 44). -/
def Obligations.FirmwareLifeCycle : Prop :=
  ∀ (sid : BitVec 2) (digest bs : Bytes) (thread : BitVec 2) (inCode : Bool) (c : BitVec 13) (g : BitVec 8)
      (n : BitVec 12) (a : BitVec 20) (e : SlowEntry) (cell : CellarRead) (req : Nat) (r : Req) (image : ImageResp)
      (s : State), s.wf → live s = true →
    let len := fget MGT_LOAD_LEN.len s
    let addr := pairVal MGT_LOAD_ADDR_LO.reg MGT_LOAD_ADDR_HI.reg s
    let read := (∃ q ∈ s.fabric.reqs, q.purpose = .fwImage)
      ∧ ∀ q ∈ s.fabric.reqs, q.purpose = .fwImage → q.port ≠ none ∧ q.discard = false ∧ (func q.func s).qState = 0
    let good := lenOk s.cm.loadLen = true ∧ bs.length = s.cm.loadLen ∧ headerOk bs s = true ∧ imageMatches bs s = true
    let bad := lenOk s.cm.loadLen = true ∧ bs.length = s.cm.loadLen ∧ (headerOk bs s = false ∨ imageMatches bs s = false)
    let failed := Awaits req r s ∧ r.write = false ∧ r.purpose = .fwImage ∧ lenOk s.cm.loadLen = true ∧ s.errors.count < 64
    let answered := fun (t : State) => Answered req t ∧ t.errors.count = s.errors.count + 1
      ∧ ∀ p < 16, fbit (FAB_PORT_STAT.err_resp_seen p) t = (fbit (FAB_PORT_STAT.err_resp_seen p) s || r.port == some p)
    let noReads := fun (t : State) => ∀ r ∈ t.fabric.reqs, r.purpose = .fwImage → r.discard = true
    ((session sid.toNat s).state = .open → digest.length = 16 →
      (s.cm.state = 0 ∨ s.cm.state = 3 ∨ s.cm.state = 5 → Completes (.activateFw sid digest) s [.cm, .fabric] (fun t =>
        t.cm = { s.cm with state := 1, previous := s.cm.state, digest := digest, key := (session sid.toNat s).ks,
                           loadLen := len, loadAddr := addr }
        ∧ (lenOk len = true → t.fabric.nextId = s.fabric.nextId + (pieces addr len).length)
        ∧ (lenOk len = false → t.fabric.nextId = s.fabric.nextId)
        ∧ ∀ r ∈ t.fabric.reqs, s.fabric.nextId ≤ r.id →
            r.write = false ∧ r.func = ownerFunc s ∧ r.purpose = .fwImage))
      ∧ (s.cm.state = 1 ∨ s.cm.state = 2 ∨ s.cm.state = 4 →
        Completes (.activateFw sid digest) s [] (fun t => t.cm = s.cm)))
    ∧ (s.cm.state = 1 → read →
      (good → Completes (.fwVerifyDone (.data bs)) s [.cm, .fabric] (fun t =>
        t.cm = { s.cm with state := 4 } ∧ noReads t))
      ∧ (bad → s.errors.count < 64 → Completes (.fwVerifyDone (.data bs)) s [.regs, .errors, .cm, .fabric] (fun t =>
          t.cm = { s.cm with state := s.cm.previous } ∧ fbit MGT_CORE_STAT.act_fail t = true ∧ noReads t
          ∧ t.errors.count = s.errors.count + 1)))
    ∧ (s.cm.state = 2 → read →
      (good → Completes (.fwLoadDone (.data bs)) s [.cm, .fabric] (fun t =>
          t.cm.state = 3 ∧ t.cm.version = nth 0 8 bs ∧ t.cm.image = bs ∧ t.cm.starts = min 0xFFFF (s.cm.starts + 1)
          ∧ t.cm.entries = [BitVec.ofNat 32 (leAt 16 4 bs), BitVec.ofNat 32 (leAt 20 4 bs), BitVec.ofNat 32 (leAt 24 4 bs),
                            BitVec.ofNat 32 (leAt 28 4 bs)]
          ∧ (fget EVT_STAT.src_pending t).testBit 5 = true ∧ noReads t))
      ∧ (bad → fbit MGT_CORE_CTL.failover s = false → s.errors.count < 64 →
        Completes (.fwLoadDone (.data bs)) s [.regs, .engine, .errors, .cm, .fabric] (fun t =>
          t.cm.state = 5 ∧ t.errors.count = s.errors.count + 1 ∧ noReads t)))
    ∧ (s.cm.state = 1 →
      (lenOk s.cm.loadLen = false → s.errors.count < 64 → Completes (.fwVerifyDone image) s [.regs, .errors, .cm] (fun t =>
        t.cm = { s.cm with state := s.cm.previous } ∧ fbit MGT_CORE_STAT.act_fail t = true
        ∧ t.errors.count = s.errors.count + 1))
      ∧ (failed → Completes (.fwVerifyDone (.error req)) s [.regs, .errors, .cm, .fabric, .pmu] (fun t =>
        answered t ∧ noReads t ∧ t.cm = { s.cm with state := s.cm.previous } ∧ fbit MGT_CORE_STAT.act_fail t = true)))
    ∧ (s.cm.state = 2 → fbit MGT_CORE_CTL.failover s = false →
      (lenOk s.cm.loadLen = false → s.errors.count < 64 →
        Completes (.fwLoadDone image) s [.regs, .engine, .errors, .cm, .fabric] (fun t =>
          t.cm.state = 5 ∧ t.errors.count = s.errors.count + 1))
      ∧ (failed → Completes (.fwLoadDone (.error req)) s [.regs, .engine, .errors, .cm, .fabric, .pmu] (fun t =>
        answered t ∧ noReads t ∧ t.cm.state = 5)))
    ∧ (cmRuns s = true → fbit MGT_WDOG_CFG.en s = true → s.errors.count < 64 →
      (fbit GLB_ESCALATE_CFG.cm_restart s = true → s.cm.codeBad = false → (recentRestarts s).length < 2 →
        s.cm.restarting = false → Completes (.watchdogExpiry thread) s [.regs, .engine, .errors, .cm] (fun t =>
          t.cm = { s.cm with starts := min 0xFFFF (s.cm.starts + 1), restarting := true,
                             restarts := s.time.dclk :: recentRestarts s }
          ∧ fbit MGT_CORE_STAT.wdog_fired t = true ∧ t.errors.count = s.errors.count + 1))
      ∧ (fbit GLB_ESCALATE_CFG.cm_restart s = false ∨ s.cm.codeBad = true ∨ 2 ≤ (recentRestarts s).length →
        fbit MGT_CORE_CTL.failover s = false →
        Completes (.watchdogExpiry thread) s [.regs, .engine, .errors, .cm, .fabric] (fun t =>
          t.cm.state = 5 ∧ fbit MGT_CORE_STAT.wdog_fired t = true ∧ t.errors.count = s.errors.count + 1)))
    ∧ (s.cm.state = 5 → s.errors.count < 64 → Completes (.localSramUncorrectable inCode) s [.regs, .errors, .cm] (fun t =>
        t.cm = { s.cm with codeBad := s.cm.codeBad || inCode } ∧ t.errors.count = s.errors.count + 1))
    ∧ (cmRuns s = true → s.errors.count < 64 → fbit MGT_CORE_CTL.failover s = false →
        Completes (.localSramUncorrectable true) s [.regs, .engine, .errors, .cm, .fabric] (fun t =>
          t.cm.state = 5 ∧ t.cm.codeBad = true ∧ t.errors.count = s.errors.count + 1))
    ∧ (s.cm.state = 0 → exec (.localSramUncorrectable inCode) s = .next s)
    ∧ (regLive s = true →
      (s.cm.state = 3 ∨ s.cm.state = 5 → Completes .cmRestart s [.engine, .cm] (fun t =>
        t.cm = { s.cm with starts := min 0xFFFF (s.cm.starts + 1), state := 3, restarting := true }
        ∧ (fget EVT_STAT.src_pending t).testBit 5 = true))
      ∧ (s.cm.state ≠ 3 → s.cm.state ≠ 5 → exec .cmRestart s = .next s)
      ∧ (fbit MGT_CORE_CTL.failover s = false → Completes .cmHalt s [.engine, .cm, .fabric] (fun t =>
        t.cm = { s.cm with state := 5, restarting := false } ∧ t.engine.cmWait = [] ∧ noReads t))
      ∧ (fbit MGT_CORE_CTL.failover s = true → Completes .cmHalt s (mayChange .cmHalt) (fun t =>
        t.cm.state = 5 ∧ t.cm.slowQ = [] ∧ (∀ k < 5, fbit (PRS_CFG.slow_host k) t = true)
        ∧ fbit TBL_AGE_CFG.host_sweep t = true ∧ fbit MGT_CORE_CTL.sync_cm t = false
        ∧ fbit MGT_CORE_CTL.rack_copy_cm t = false ∧ (fget EVT_STAT.src_pending t).testBit 5 = true
        ∧ (s.cm.slowQ = [e] → fget CEL_WAIT_LIMIT.limit_us s ≠ 0 → (chan (fget (PRS_CFG.exc_channel e.press) s) s).state = .running →
            (chan (fget (PRS_CFG.exc_channel e.press) s) t).rx.queue
              = (chan (fget (PRS_CFG.exc_channel e.press) s) s).rx.queue ++
                  [{ frame := e.frame, kind := .slow e.reason, bytes := e.bytes, tc := ((frame e.frame s).map (·.prio)).getD 0,
                     l3err := e.l3err, l4err := e.l4err, held := false }]))))
    ∧ (cmRuns s = true → s.cm.slowQ[n.toNat]? = some e →
      let gone := fun (t : State) => t.cm = { s.cm with slowQ := s.cm.slowQ.eraseIdx n.toNat }
      let tc := ((frame e.frame s).map (·.prio)).getD 0
      (∀ f, frame e.frame s = some f → f.refs ≤ 1 →
        ((readCells cell s).2 = true → Completes (.cmSlowPathEnd (.discard n) cell) s (mayChange (.cmSlowPathEnd (.discard n) cell))
          (fun t => gone t ∧ frame e.frame t = none))
        ∧ ((readCells cell s).2 = false → ∀ how ∈ [SlowEnd.discard n, .send n (.chan c), .send n (.port g)],
          Completes (.cmSlowPathEnd how cell) s (mayChange (.cmSlowPathEnd how cell)) (fun t =>
            gone t ∧ frame e.frame t = none ∧ t.chans = s.chans)))
      ∧ ((chan c.toNat s).state = .running → fget CEL_WAIT_LIMIT.limit_us s ≠ 0 → cell = {} →
        Completes (.cmSlowPathEnd (.send n (.chan c)) cell) s [.chans, .cm, .fabric] (fun t =>
          gone t ∧ chansLeft c.toNat s t ∧ (chan c.toNat t).rx.queue = (chan c.toNat s).rx.queue ++
              [{ frame := e.frame, kind := .normal, bytes := e.bytes, tc := tc, l3err := e.l3err, l4err := e.l4err,
                 held := false }]))
      ∧ (∀ d, expandPorts [{ port := g.toNat, tc := tc, bytes := e.bytes, unmodified := true, oneStep := .off }] s = [d] →
        e.bytes.length ≤ maxFrame d.port s → fwdQueue d.port tc s ≠ [] → cell = {} →
        Completes (.cmSlowPathEnd (.send n (.port g)) cell) s [.cellar, .ports, .fabric, .cm, .serial] (fun t =>
          gone t ∧ fwdQueue d.port tc t = fwdQueue d.port tc s ++
            [{ frame := some e.frame, bytes := e.bytes, unmodified := true, oneStep := .off, ingress := e.stamp,
               item := s.serial, cm := true }])))
    ∧ (cmRuns s = true → s.cm.slowQ[n.toNat]? = none → Completes (.cmSlowPathEnd (.discard n) cell) s [] (fun t => t.cm = s.cm))
    ∧ (cmRuns s = true →
      let built := fun (t : State) => ∀ i < bs.length, bs.length ≤ 2 ^ 20 →
        mgetD 0 ((a.toNat + i) % 2 ^ 20) t.cm.sram = nth 0 i bs
      ((s.cellar.txWaiting ≠ [] ∨ txFree s < cellsFor (padded bs).length) →
        Completes (.cmSlowPathEnd (.build a bs (.chan c)) cell) s [.cm] built)
      ∧ (s.cellar.txWaiting = [] → cellsFor (padded bs).length ≤ txFree s → (chan c.toNat s).state = .running →
        fget CEL_WAIT_LIMIT.limit_us s ≠ 0 →
        Completes (.cmSlowPathEnd (.build a bs (.chan c)) cell) s [.chans, .cellar, .fabric, .cm] (fun t =>
          built t ∧ t.cellar.txUsed = s.cellar.txUsed + cellsFor (padded bs).length
          ∧ (frame s.cellar.nextFrame t).map (·.bytes) = some (padded bs)
          ∧ (chan c.toNat t).rx.queue = (chan c.toNat s).rx.queue ++
              [{ frame := s.cellar.nextFrame, kind := .normal, bytes := padded bs, tc := 0, l3err := false, l4err := false,
                 held := false }])))
    ∧ (cmRuns s = false → exec (.cmSlowPathEnd (.discard n) cell) s = .next s)

/-- OPEN_REQ, PROOF, COMMAND and CLOSE, by the mailbox or in a frame (R443 to R448). A message that is malformed is
answered with ERROR 6. An OPEN_REQ for a loaded slot takes the lowest free session, bound to its way, and is answered
with a challenge; a right proof opens the session and a wrong one frees it with ERROR 3; a COMMAND with a valid mac
and the next counter is executed and answered, the last one repeated is answered the same again, and one with a wrong
mac closes the session with ERROR 4; a CLOSE frees the session without an answer. A reply goes to the mailbox, or in a
frame to the port the message came by; a frame is received where its row takes management frames and the firmware
runs. The order of the codes 6, 1 and 2 and the sid and slot of an ERROR are the model's reading (log entry 45), and
that a reply in a frame takes the queue of class 0 is its choice (log entry 46). -/
def Obligations.SessionsAreOpenedAndUsed : Prop :=
  ∀ (path : MsgPath) (msg : Bytes) (s : State), s.wf → live s = true →
    (∀ p sa m, path = .inband p sa m → cmRuns s = false ∨ (fget MGT_INBAND_CFG.row_en s).testBit (p.toNat / 8) = false →
      exec (.openReq path) s = .next s ∧ exec (.proof path) s = .next s ∧ exec (.command path) s = .next s
      ∧ exec (.close path) s = .next s)
    ∧ (incoming path s = some msg →
    let slot := (nth 0 2 msg).toNat
    let i := (nth 0 1 msg).toNat
    let x := session i s
    let op := nth 0 8 msg
    let mac := slice (msg.length - 16) 16 msg
    let parts := withReply path
    let answers := fun (r : Bytes) (t : State) => Replies path r s t
    (wellFormed msg = false → ∀ c, c ∈ [Instr.openReq path, .proof path, .command path, .close path] →
      Completes c s (parts [.mgmt]) (fun t => answers (errorMsg msg 6) t ∧ t.mgmt.sessions = s.mgmt.sessions))
    ∧ (wellFormed msg = true → (nth 0 0 msg).toNat = 1 →
        (∀ n, freeSession s = some n → (keySlot slot s).state = 1 → (keySlot slot s).lockout = false →
          Completes (.openReq path) s (parts [.mgmt, .freeCount]) (fun t =>
            let nb := leBytes 16 (Sys2Proof.Config.nonce s.freeCount).toNat
            answers (plainMsg 2 n slot nb) t
            ∧ t.mgmt.sessions = setNth n { state := .challenged, slot := slot, inband := bindOf path, ns := slice 8 16 msg,
                                           nb := nb } s.mgmt.sessions))
        ∧ (∀ n, freeSession s = some n → (keySlot slot s).state ≠ 1 ∨ (keySlot slot s).lockout = true →
          Completes (.openReq path) s (parts [.mgmt]) (fun t =>
            answers (errorMsg msg 2) t ∧ t.mgmt.sessions = s.mgmt.sessions))
        ∧ (freeSession s = none → Completes (.openReq path) s (parts [.mgmt]) (fun t =>
            answers (errorMsg msg 1) t ∧ t.mgmt.sessions = s.mgmt.sessions)))
    ∧ (wellFormed msg = true → (nth 0 0 msg).toNat = 3 → x.state = .challenged → x.inband = bindOf path →
        (slice 8 16 msg = (sessMac x i 1 s).take 16 → Completes (.proof path) s (parts [.aux, .mgmt]) (fun t =>
          answers (plainMsg 4 i x.slot ((sessMac x i 2 s).take 16)) t
          ∧ t.mgmt.sessions = setNth i { x with state := .open, ks := sessMac x i 3 s, counter := 0 } s.mgmt.sessions))
        ∧ (slice 8 16 msg ≠ (sessMac x i 1 s).take 16 → Completes (.proof path) s (parts [.aux, .mgmt]) (fun t =>
          answers (errorMsg msg 3) t ∧ t.mgmt.sessions = setNth i {} s.mgmt.sessions
          ∧ ((keySlot x.slot s).wrong < 3 → t.aux.keys = setNth x.slot
              { keySlot x.slot s with wrong := (keySlot x.slot s).wrong + 1 } s.aux.keys)
          ∧ (3 ≤ (keySlot x.slot s).wrong → t.aux.keys = setNth x.slot
              { keySlot x.slot s with wrong := 0, lockout := true } s.aux.keys))))
    ∧ (wellFormed msg = true → (nth 0 0 msg).toNat = 5 → x.state = .open → x.inband = bindOf path →
        (macOk x msg = true → leAt 4 4 msg = x.counter.toNat + 1 → op.toNat ≠ 6 →
          Completes (.command path) s (mayChange (.command path)) (fun t =>
            let rsp := responseMsg i x.slot (BitVec.ofNat 32 (leAt 4 4 msg)) op
              (steward op.toNat (slice 12 (msg.length - 28) msg) x.ks s).2 (Sys2Proof.Config.response s.freeCount) x.ks
            (path = .mailbox → answers rsp t)
            ∧ t.mgmt.sessions = setNth i { x with counter := BitVec.ofNat 32 (leAt 4 4 msg), lastMac := mac, lastResp := rsp }
                s.mgmt.sessions))
        ∧ (macOk x msg = true → leAt 4 4 msg = x.counter.toNat → mac = x.lastMac →
          Completes (.command path) s (parts [.mgmt]) (fun t =>
            answers x.lastResp t ∧ t.mgmt.sessions = s.mgmt.sessions))
        ∧ (macOk x msg = false → Completes (.command path) s (parts [.mgmt]) (fun t =>
            answers (errorMsg msg 4) t ∧ t.mgmt.sessions = setNth i {} s.mgmt.sessions)))
    ∧ (wellFormed msg = true → (nth 0 0 msg).toNat = 7 → x.state = .open → x.inband = bindOf path → macOk x msg = true →
        Completes (.close path) s [.mgmt] (fun t =>
          t.mgmt.sessions = setNth i {} s.mgmt.sessions ∧ t.mgmt.mboxRsp = s.mgmt.mboxRsp
          ∧ (path = .mailbox → t.mgmt.mboxBusy = none))))

/-- MBOX_STORE_PART, MBOX_SEND, MBOX_FETCH_PART, KEY_WORD, KEY_COMMIT, KEY_LOCK, RETIRE_KEY, KEY_LOCKOUT_END,
CHALLENGE_TIMEOUT and SESSION_IDLE_TIMEOUT (R441, R446, R448, R489). A part of the mailbox takes the 16 bytes of
MGT_MBOX_ARG, a message is handed over while none is handled, and a part of the response returns. While the key port
is open words are kept, and an empty slot with eight words is loaded; a lock closes the port; a retired slot is erased
and its sessions close; a lockout ends. A time limit frees a session. The order of the bytes of a key, keyOf, is the
model's choice (log entry 47), and so is that a retired slot closes the sessions that wait for their proof (log entry
45). -/
def Obligations.MailboxAndKeys : Prop :=
  ∀ (part slot word : BitVec 3) (len n : Byte) (data : Word) (s : State), s.wf →
    let k := keySlot slot.toNat s
    let keys := fun (x : KeySlot) (t : State) => t.aux = { s.aux with keys := setNth slot.toNat x s.aux.keys }
    (regLive s = true →
      Completes (.mboxStorePart part) s [.regs, .mgmt] (fun t =>
        t.mgmt = { s.mgmt with mboxMsg := splice (16 * part.toNat) (mboxArgs s) s.mgmt.mboxMsg }
        ∧ regsLeft [MGT_MBOX_CMD.reg.off] s t)
      ∧ (s.mgmt.mboxBusy = none → Completes (.mboxSend len) s [.regs, .mgmt] (fun t =>
        t.mgmt = { s.mgmt with mboxBusy := some (s.mgmt.mboxMsg.take len.toNat ++ List.replicate (len.toNat - 128) 0),
                                 mboxRsp := none }
        ∧ regsLeft [MGT_MBOX_CMD.reg.off] s t))
      ∧ (s.mgmt.mboxBusy ≠ none → Completes (.mboxSend len) s [.regs] (fun t =>
        fbit MGT_MBOX_STAT.overrun t = true ∧ regsLeft [MGT_MBOX_CMD.reg.off, MGT_MBOX_STAT.reg.off] s t))
      ∧ (∀ r, s.mgmt.mboxRsp = some r → 16 * part.toNat + 16 ≤ r.length →
        Completes (.mboxFetchPart part) s [.regs] (fun t =>
          ∀ i < 4, fget (MGT_MBOX_ARG.data i) t = leAt (16 * part.toNat + 4 * i) 4 r))
      ∧ (s.mgmt.mboxRsp = none → Completes (.mboxFetchPart part) s [.regs] (fun t =>
          regsLeft [MGT_MBOX_CMD.reg.off] s t)))
    ∧ (keyPort_open s = true → Completes (.keyWord slot word data) s [.aux] (fun t =>
        keys { k with words := mput word.toNat data k.words } t))
    ∧ (keyPort_open s = false → exec (.keyWord slot word data) s = .next s ∧ exec (.keyCommit slot) s = .next s)
    ∧ (keyPort_open s = true → k.state = 0 → k.words.length = 8 → Completes (.keyCommit slot) s [.aux] (fun t =>
        keys { k with state := 1, key := keyOf k.words, words := [] } t))
    ∧ (keyPort_open s = true → k.state ≠ 0 ∨ k.words.length ≠ 8 → exec (.keyCommit slot) s = .next s)
    ∧ (s.aux.vaux = true → Completes .keyLock s [.aux] (fun t =>
        keyPort_open t = false ∧ t.aux.keys = s.aux.keys.map fun x => { x with words := [] }))
    ∧ (live s = true → n.toNat < 8 → Completes (.retireKey n) s [.aux, .mgmt] (fun t =>
        t.aux.keys = setNth n.toNat { keySlot n.toNat s with state := 2, key := 0, words := [] } s.aux.keys
        ∧ ∀ x ∈ t.mgmt.sessions, x.state ≠ .free → x.slot ≠ n.toNat))
    ∧ Completes (.keyLockoutEnd slot) s [.aux] (fun t => keys { k with lockout := false } t)
    ∧ (∀ sid : BitVec 2, live s = true →
        ((session sid.toNat s).state = .challenged → Completes (.challengeTimeout sid) s [.mgmt] (fun t =>
          t.mgmt = { s.mgmt with sessions := setNth sid.toNat { expired := true } s.mgmt.sessions }))
        ∧ ((session sid.toNat s).state = .open → Completes (.sessionIdleTimeout sid) s [.mgmt] (fun t =>
          t.mgmt = { s.mgmt with sessions := setNth sid.toNat {} s.mgmt.sessions }))
        ∧ ((session sid.toNat s).state = .free →
          exec (.challengeTimeout sid) s = .next s ∧ exec (.sessionIdleTimeout sid) s = .next s))

/-- SNAPSHOT_TRIGGER, SNAPSHOT_INTERVAL, SAMPLE_PROD_TIMER and SAMPLE_CONS_READ_COMPLETE (R461 to R465, R468). A
snapshot takes every counter at once, as it stood when its cycle began, whatever a reset of that cycle has done, and
writes its header first, with valid 0; its entries follow when that is acknowledged, and with the last of them the
header is written again and no snapshot is in progress. While one is in progress another is skipped and counted. The
sample ring's prod is written; a cons in range is taken, and one out of range stops the ring. A write of a counter's
value through its pair sets the selected counter, and no other. A trigger is a register write, and comes after the
changes of PTP time that wait before it, which is the model's choice (log entry 78); e is the state that they leave.
-/
def Obligations.SnapshotsAndSamples : Prop :=
  ∀ s : State, s.wf →
    (∀ c trigger,
      let e := entered c s
      live e = true →
      (c = Instr.snapshotTrigger ∧ trigger = 0 ∧ regLive e = true)
        ∨ (c = Instr.snapshotInterval ∧ trigger = 1 ∧ fget PMU_CTL.snap_int_ms s ≠ 0) →
      (e.pmu.snapBusy = false → Completes c s [.fabric, .pmu] (fun t =>
        t.pmu.snapBusy = true ∧ t.pmu.snapSeq = e.pmu.snapSeq + 1
        ∧ t.pmu.snapBody = (List.range 736).flatMap (fun n => snapEntry n e)
        ∧ t.pmu.snapHead = snapHeadBytes (e.pmu.snapSeq + 1) true trigger (now e)
        ∧ Sends true (ownerFunc e) (snapBase e) (snapHeadBytes (e.pmu.snapSeq + 1) false trigger (now e)) .snapHeader e t))
      ∧ (e.pmu.snapBusy = true → Completes c s [.regs] (fun t =>
        fget PMU_STAT.snap_skip t = min (fget PMU_STAT.snap_skip e + 1) 65535 ∧ regsLeft [PMU_STAT.reg.off] e t)))
    ∧ (live s = true → Completes (.counterReset []) s [.pmu] (fun t => ∀ n, snapEntry n t = snapEntry n s))
    ∧ (fget PMU_CTL.snap_int_ms s = 0 → exec .snapshotInterval s = .next s)
    ∧ (∀ (req : Nat) (r : Req), Awaits req r s → r.write = true → r.purpose = .snapHeader →
        Completes (.fabricWriteAck req false) s [.fabric, .pmu] (fun t =>
          Answered req t ∧ t.pmu.snapBody = [] ∧ t.pmu.snapBusy = s.pmu.snapBusy
          ∧ t.pmu.snapLeft = (pieces (snapBase s + 0x40) s.pmu.snapBody.length).length
          ∧ ∀ e ∈ pieces (snapBase s + 0x40) s.pmu.snapBody.length,
              Sends true (ownerFunc s) (snapBase s + 0x40 + BitVec.ofNat 64 e.1) (slice e.1 e.2 s.pmu.snapBody) .snapEntries s t))
    ∧ (∀ (req : Nat) (r : Req), Awaits req r s → r.write = true → r.purpose = .snapEntries →
        (s.pmu.snapLeft ≤ 1 → Completes (.fabricWriteAck req false) s [.fabric, .pmu] (fun t =>
          Answered req t ∧ t.pmu.snapBusy = false ∧ t.pmu.snapLeft = 0
          ∧ Sends true (ownerFunc s) (snapBase s) s.pmu.snapHead .snapFinal s t))
        ∧ (1 < s.pmu.snapLeft → Completes (.fabricWriteAck req false) s [.fabric, .pmu] (fun t =>
          Answered req t ∧ t.pmu.snapBusy = s.pmu.snapBusy ∧ t.pmu.snapLeft = s.pmu.snapLeft - 1)))
    ∧ (live s = true → s.pmu.ring.prodDue false = true → Completes .sampleProdTimer s [.fabric, .pmu] (fun t =>
        Submits true (ownerFunc s) (sampleBase s + 4) 4 .sampleProd s t ∧ t.pmu.ring = s.pmu.ring.prodSent))
    ∧ (live s = true → s.pmu.ring.prodDue false = false →
        Completes .sampleProdTimer s [] (fun t => t.pmu.ring = s.pmu.ring))
    ∧ (∀ (req : Nat) (r : Req) (bs : Bytes), Awaits req r s → r.write = false → r.purpose = .sampleCons →
        bs.length = r.len →
        let v := BitVec.ofNat 32 (leNat bs)
        (s.pmu.ring.consBad (sampleLog2 s) v = false →
          Completes (.sampleConsReadComplete req (.data bs)) s [.fabric, .pmu] (fun t =>
            Answered req t ∧ t.pmu.ring = { s.pmu.ring with consOut := false, cons := v }))
        ∧ (s.pmu.ring.consBad (sampleLog2 s) v = true →
          Completes (.sampleConsReadComplete req (.data bs)) s [.regs, .fabric, .pmu] (fun t =>
            Answered req t ∧ t.pmu.sampleOff = true ∧ t.pmu.ring.cons = s.pmu.ring.cons)))
    ∧ (∀ (lo hi : Word),
        let c := Instr.pairHiWrite (BitVec.ofNat 22 PMU_VAL_HI.reg.off) 15 hi 0
        let e := entered c s
        regLive e = true → mget PMU_VAL_LO.reg.off e.pairHeld = some lo → selCounter e < 736 →
        fixedCounter (selCounter e) = false → AllIssued e →
        Completes c s [.regs, .pairHeld, .pmu] (fun t =>
          (counter (selCounter e) t).value = BitVec.ofNat 48 (hi.toNat * 2 ^ 32 + lo.toNat)
          ∧ ∀ n, n ≠ selCounter e → counter n t = counter n e))
end

