-- ==== Sys2Proof/Decode.lean ====
section
/-!
DEFINITION. Reading a command from the bits of a word. spec/opcode_table.json gives none of its rows any bits: the
commands come to the block over the wires of spec/17, each on the interface its rule names, and none of them is encoded
as a word.
-/

namespace Sys2Proof

/-- The command that a word spells by the table's bits: none, since no row has bits. -/
def decodeTableWord (_nbits _w : Nat) : Option Instr := none

end Sys2Proof
end

