-- ==== Sys2Proof/Laws/Maps.lean ====
section
/-!
SUPPORT. Laws of the sparse maps: what a read gives after a write or an erasure, and that the operations keep the
canonical form.
-/

namespace Sys2Proof.Machine

variable {α : Type} {d v : α} {n k : Nat} {m : SMap α}

@[simp] theorem mget_nil : mget n ([] : SMap α) = none := rfl

@[simp] theorem mgetD_nil : mgetD d n ([] : SMap α) = d := rfl

@[simp] theorem mget_mput_self : mget n (mput n v m) = some v := by
  induction m with
  | nil => simp [mput, mget]
  | cons e m ih =>
    obtain ⟨k, w⟩ := e
    simp only [mput]; split
    · simp [mget]
    · split <;> simp_all [mget, eq_comm]

theorem mget_mput_ne (h : k ≠ n) : mget k (mput n v m) = mget k m := by
  induction m with
  | nil => simp [mput, mget, Ne.symm h]
  | cons e m ih =>
    obtain ⟨j, w⟩ := e
    simp only [mput]; split
    · simp [mget, Ne.symm h]
    · split
      · subst_vars; simp [mget, Ne.symm h]
      · simp [mget, ih]

theorem mget_mput : mget k (mput n v m) = if k = n then some v else mget k m := by
  split
  · subst_vars; simp
  · exact mget_mput_ne ‹_›

theorem mget_merase_ne (h : k ≠ n) : mget k (merase n m) = mget k m := by
  induction m with
  | nil => rfl
  | cons e m ih =>
    obtain ⟨j, w⟩ := e
    simp only [merase]; split
    · subst_vars; simp [mget, Ne.symm h]
    · simp [mget, ih]

theorem mrising_weaken {a b : Nat} (h : a ≤ b) (hm : mrising (some b) m = true) : mrising (some a) m = true := by
  cases m with
  | nil => rfl
  | cons e m => simp [mrising] at hm ⊢; exact ⟨by omega, hm.2⟩

theorem mrising_none {a : Nat} (hm : mrising (some a) m = true) : mrising none m = true := by
  cases m with
  | nil => rfl
  | cons e m => simp [mrising] at hm ⊢; exact hm.2

theorem mget_of_rising (h : mrising (some k) m = true) (hn : n ≤ k) : mget n m = none := by
  induction m generalizing k with
  | nil => rfl
  | cons e m ih =>
    simp [mrising] at h
    simp only [mget]
    rw [if_neg (by omega)]
    exact ih h.2 (by omega)

theorem mget_merase_rising {o : Option Nat} (h : mrising o m = true) : mget n (merase n m) = none := by
  induction m generalizing o with
  | nil => rfl
  | cons e m ih =>
    obtain ⟨j, w⟩ := e
    simp [mrising] at h
    simp only [merase]; split
    · subst_vars; exact mget_of_rising h.2 (Nat.le_refl _)
    · simp only [mget]; rw [if_neg ‹_›]; exact ih h.2

theorem mget_merase_self (h : msorted m = true) : mget n (merase n m) = none := mget_merase_rising h

theorem mrising_mput {o : Option Nat} (h : mrising o m = true) (ho : ∀ a, o = some a → a < n) :
    mrising o (mput n v m) = true := by
  induction m generalizing o with
  | nil => cases o <;> simp_all [mput, mrising]
  | cons e m ih =>
    obtain ⟨j, w⟩ := e
    simp [mrising] at h
    simp only [mput]; split
    · cases o <;> simp_all [mrising]
    · split
      · subst_vars; cases o <;> simp_all [mrising]
      · have := ih h.2 (by intro a ha; injection ha; omega)
        cases o <;> simp_all [mrising]

theorem mrising_merase {o : Option Nat} (h : mrising o m = true) : mrising o (merase n m) = true := by
  induction m generalizing o with
  | nil => cases o <;> rfl
  | cons e m ih =>
    obtain ⟨j, w⟩ := e
    simp [mrising] at h
    simp only [merase]; split
    · cases o with
      | none => exact mrising_none h.2
      | some a => exact mrising_weaken (by have := h.1; simp at this; omega) h.2
    · have := ih h.2
      cases o <;> simp_all [mrising]

theorem msorted_mput (h : msorted m = true) : msorted (mput n v m) = true :=
  mrising_mput h (by intro a ha; cases ha)

theorem msorted_merase (h : msorted m = true) : msorted (merase n m) = true := mrising_merase h

theorem mem_mput {e : Nat × α} (h : e ∈ mput n v m) : e = (n, v) ∨ e ∈ m := by
  induction m with
  | nil => exact .inl (List.mem_singleton.mp h)
  | cons x m ih =>
    obtain ⟨j, w⟩ := x
    simp only [mput] at h; split at h
    · exact List.mem_cons.mp h
    · split at h
      · exact (List.mem_cons.mp h).imp_right (List.mem_cons_of_mem _)
      · obtain h | h := List.mem_cons.mp h
        · exact .inr (h ▸ List.mem_cons_self)
        · exact (ih h).imp_right (List.mem_cons_of_mem _)

theorem mem_merase {e : Nat × α} (h : e ∈ merase n m) : e ∈ m := by
  induction m with
  | nil => exact h
  | cons x m ih =>
    obtain ⟨j, w⟩ := x
    simp only [merase] at h; split at h
    · exact List.mem_cons_of_mem _ h
    · obtain h | h := List.mem_cons.mp h
      · exact h ▸ List.mem_cons_self
      · exact List.mem_cons_of_mem _ (ih h)

theorem msorted_mputD [DecidableEq α] (h : msorted m = true) : msorted (mputD d n v m) = true := by
  unfold mputD; split
  · exact msorted_merase h
  · exact msorted_mput h

theorem mget_mputD_ne [DecidableEq α] (h : k ≠ n) : mget k (mputD d n v m) = mget k m := by
  unfold mputD; split
  · exact mget_merase_ne h
  · exact mget_mput_ne h

theorem mgetD_mputD_ne {a : α} [DecidableEq α] (h : k ≠ n) : mgetD a k (mputD d n v m) = mgetD a k m := by
  simp [mgetD, mget_mputD_ne h]

theorem mgetD_mputD_self [DecidableEq α] (h : msorted m = true) : mgetD d n (mputD d n v m) = v := by
  unfold mputD mgetD; split
  · subst_vars; simp [mget_merase_self h]
  · simp

theorem canonical_mputD [DecidableEq α] (h : canonical d m) : canonical d (mputD d n v m) := by
  refine ⟨msorted_mputD h.1, fun e he => ?_⟩
  unfold mputD at he; split at he
  · exact h.2 e (mem_merase he)
  · obtain rfl | he := mem_mput he
    · assumption
    · exact h.2 e he

theorem mrising_map {β : Type} {o : Option Nat} {g : Nat × α → Nat × β} (hg : ∀ e, (g e).1 = e.1) :
    mrising o (m.map g) = mrising o m := by
  induction m generalizing o with
  | nil => rfl
  | cons e m ih =>
    have := hg e
    generalize he : g e = x at this
    obtain ⟨k, w⟩ := x
    obtain ⟨j, v⟩ := e
    simp at this
    simp [mrising, he, ih, this]

theorem mrising_filter {o : Option Nat} {p : Nat × α → Bool} (h : mrising o m = true) :
    mrising o (m.filter p) = true := by
  induction m generalizing o with
  | nil => rfl
  | cons e m ih =>
    obtain ⟨j, w⟩ := e
    simp [mrising] at h
    simp only [List.filter_cons]; split
    · simp [mrising, h.1, ih h.2]
    · have := ih h.2
      cases o with
      | none => exact mrising_none this
      | some a => exact mrising_weaken (by have := h.1; simp at this; omega) this

/-- Dropping the entries that hold d, from a map whose values were changed, leaves the canonical form. -/
theorem canonical_trim {β : Type} [DecidableEq β] {b : β} {g : Nat × α → Nat × β} (h : msorted m = true)
    (hg : ∀ e, (g e).1 = e.1) : canonical b (trim b (m.map g)) := by
  refine ⟨mrising_filter ?_, fun e he => ?_⟩
  · rw [mrising_map hg]; exact h
  · simpa using (List.mem_filter.mp he).2

theorem canonical_nil : canonical d ([] : SMap α) := ⟨rfl, by simp⟩

theorem canonical_foldl_mputD {β : Type} [DecidableEq α] {key : β → Nat} {val : β → α} {xs : List β}
    (h : canonical d m) : canonical d (xs.foldl (fun m x => mputD d (key x) (val x) m) m) := by
  induction xs generalizing m with
  | nil => exact h
  | cons x xs ih => exact ih (canonical_mputD h)

/-! ### Local SRAM -/

theorem canonical_putSram {m : SMap Byte} {bs : Bytes} (h : canonical 0 m) : canonical 0 (putSram n bs m) := by
  induction bs generalizing n m with
  | nil => exact h
  | cons b bs ih => exact ih (canonical_mputD h)

/-- Writing bytes leaves every address that is not one of theirs. -/
theorem mgetD_putSram_ne {m : SMap Byte} {bs : Bytes} (hk : ∀ i < bs.length, k ≠ (n + i) % 2 ^ 20) :
    mgetD 0 k (putSram n bs m) = mgetD 0 k m := by
  induction bs generalizing n m with
  | nil => rfl
  | cons b bs ih =>
    have h0 : k ≠ n % 2 ^ 20 := by simpa using hk 0 (by simp)
    rw [putSram, ih fun i hi => by
      rw [Nat.add_assoc, Nat.add_comm 1]; exact hk (i + 1) (by simpa using hi)]
    exact mgetD_mputD_ne h0

/-- A byte that was written reads back, where the bytes do not wrap onto themselves. -/
theorem mgetD_putSram {m : SMap Byte} {bs : Bytes} {i : Nat} (h : canonical 0 m) (hb : bs.length ≤ 2 ^ 20)
    (hi : i < bs.length) : mgetD 0 ((n + i) % 2 ^ 20) (putSram n bs m) = nth 0 i bs := by
  induction bs generalizing n m i with
  | nil => simp at hi
  | cons b bs ih =>
    simp only [List.length_cons] at hb hi
    cases i with
    | zero =>
      rw [putSram, mgetD_putSram_ne fun j hj => by omega]
      exact mgetD_mputD_self h.1
    | succ i =>
      rw [show n + (i + 1) = n + 1 + i by omega]
      exact ih (canonical_mputD h) (by omega) (by omega)

end Sys2Proof.Machine
end

