-- ==== Sys2Proof/Laws/Keep.lean ====
section
/-!
SUPPORT. The invariant of the machine and the queue through the shared operations: how a record update, a choice, a
fold and an outcome keep them.
-/

/- One theorem after another: in the package as one text they would else wait for each other in a thread each. -/
set_option Elab.async false

namespace Sys2Proof.Machine

/-- From a state a that meets the invariant, s meets it too and differs from a in the parts of l only. -/
def Keep (l : List Part) (a s : State) : Prop := a.wf → s.wf ∧ ChangesOnly l a s

/-- Keep, for every next state of an outcome. -/
def KeepOut (l : List Part) (a : State) (o : Host.Outcome State Fault Refusal) : Prop := ∀ t, o = .next t → Keep l a t

/-- Every part of m is in l. -/
def Covers (l m : List Part) : Prop := ∀ p ∈ m, p ∈ l

variable {l : List Part} {a s t : State}

theorem Covers.mono {m m' : List Part} (h : Covers l m) (e : m'.all m.contains = true) : Covers l m' := fun p hp => by
  have := List.all_eq_true.mp e p hp
  exact h p (by simpa using this)

theorem Covers.refl : Covers l l := fun _ h => h

/-! ### Parts that later proofs need again -/

theorem Event.merges_pairwise {e : Event} {l : List Event} (h : l.Pairwise fun a b => a.merges b = false)
    (hn : l.any (fun w => w.src == e.src && (e.src != .force && e.src != .deassert || w == e)) = false) :
    (l ++ [e]).Pairwise fun a b => a.merges b = false := by
  rw [List.pairwise_append]
  refine ⟨h, List.pairwise_singleton _ _, fun a ha b hb => ?_⟩
  cases List.mem_singleton.mp hb
  rw [List.any_eq_false] at hn
  exact Bool.eq_false_iff.mpr (hn a ha)

theorem Events.wf_filter {e : Events} {p : Event → Bool} (h : e.wf) : ({ e with waiting := e.waiting.filter p } : Events).wf :=
  List.Pairwise.filter p h

theorem Fabric.wf_submit {f : Fabric} {r : Req} (h : f.wf) (hr : r.id = f.nextId) :
    ({ f with reqs := f.reqs ++ [r], nextId := f.nextId + 1 } : Fabric).wf := by
  refine ⟨?_, fun x hx => ?_⟩
  · show (f.reqs ++ [r]).Pairwise _
    rw [List.pairwise_append]
    refine ⟨h.1, List.pairwise_singleton _ _, fun a ha b hb => ?_⟩
    cases List.mem_singleton.mp hb
    have := h.2 a ha
    omega
  · have hx : x ∈ f.reqs ++ [r] := hx
    show x.id < f.nextId + 1
    obtain hx | hx := List.mem_append.mp hx
    · have := h.2 x hx; omega
    · cases List.mem_singleton.mp hx; omega

/-- Changing requests without their identities. -/
theorem Fabric.wf_map {f : Fabric} {g : Req → Req} (h : f.wf) (hg : ∀ r, (g r).id = r.id) :
    ({ f with reqs := f.reqs.map g } : Fabric).wf := by
  refine ⟨?_, fun x hx => ?_⟩
  · show (f.reqs.map g).Pairwise _
    rw [List.pairwise_map]
    exact h.1.imp fun hab => by rw [hg, hg]; exact hab
  · obtain ⟨y, hy, rfl⟩ := List.mem_map.mp (show x ∈ f.reqs.map g from hx)
    show (g y).id < f.nextId
    rw [hg]; exact h.2 y hy

theorem Fabric.wf_filter {f : Fabric} {p : Req → Bool} (h : f.wf) :
    ({ f with reqs := f.reqs.filter p } : Fabric).wf :=
  ⟨h.1.filter p, fun x hx => h.2 x (List.mem_filter.mp (show x ∈ f.reqs.filter p from hx)).1⟩

/-! ### Being left as it was, from state to state -/

theorem Part.left_refl (p : Part) : p.left s s := by
  cases p <;> simp [Part.left, regsLeft]

theorem Part.left_trans {p : Part} {u : State} (h : p.left s t) (h' : p.left t u) : p.left s u := by
  cases p
  case regs => exact fun x hx hn => (h' x hx hn).trans (h x hx hn)
  case ports => exact fun g => (h' g).trans (h g)
  case events => exact ⟨h'.1.trans h.1, h.2.trans h'.2⟩
  case replicas => exact ⟨h'.1.trans h.1, h'.2.trans h.2⟩
  case pmu => exact ⟨h'.1.trans h.1, fun n => (h'.2 n).trans (h.2 n)⟩
  all_goals exact Eq.trans (b := _) h' h

theorem ChangesOnly.refl : ChangesOnly l s s := fun p _ => p.left_refl

theorem ChangesOnly.trans {u : State} (h : ChangesOnly l s t) (h' : ChangesOnly l t u) : ChangesOnly l s u :=
  fun p hp => Part.left_trans (h p hp) (h' p hp)

theorem ChangesOnly.mono {m : List Part} (h : ChangesOnly m s t) (hl : Covers l m) : ChangesOnly l s t :=
  fun p hp => h p fun hm => hp (hl p hm)

theorem Keep.refl : Keep l s s := fun h => ⟨h, ChangesOnly.refl⟩

theorem Keep.step (h : Keep l a s) (h' : s.wf → t.wf ∧ ChangesOnly l s t) : Keep l a t := fun ha =>
  have hs := h ha
  have ht := h' hs.1
  ⟨ht.1, hs.2.trans ht.2⟩

/-- The state s with the parts of l taken from t. -/
def State.paste (l : List Part) (s t : State) : State where
    pending := if .pending ∈ l then t.pending else s.pending
    regs := if .regs ∈ l then t.regs else s.regs
    pairHeld := if .pairHeld ∈ l then t.pairHeld else s.pairHeld
    pairCap := if .pairCap ∈ l then t.pairCap else s.pairCap
    rdata := if .rdata ∈ l then t.rdata else s.rdata
    chans := if .chans ∈ l then t.chans else s.chans
    rings := if .rings ∈ l then t.rings else s.rings
    book := if .book ∈ l then t.book else s.book
    cellar := if .cellar ∈ l then t.cellar else s.cellar
    rows := if .rows ∈ l then t.rows else s.rows
    ports := if .ports ∈ l then t.ports else s.ports
    presses := if .presses ∈ l then t.presses else s.presses
    replicas := if .replicas ∈ l then t.replicas else s.replicas
    replicasOld := if .replicas ∈ l then t.replicasOld else s.replicasOld
    engine := if .engine ∈ l then t.engine else s.engine
    fabric := if .fabric ∈ l then t.fabric else s.fabric
    funcs := if .funcs ∈ l then t.funcs else s.funcs
    events := if .events ∈ l then t.events else s.events
    time := if .time ∈ l then t.time else s.time
    cvTest := if .cvTest ∈ l then t.cvTest else s.cvTest
    aux := if .aux ∈ l then t.aux else s.aux
    power := if .power ∈ l then t.power else s.power
    errors := if .errors ∈ l then t.errors else s.errors
    racking := if .racking ∈ l then t.racking else s.racking
    cm := if .cm ∈ l then t.cm else s.cm
    mgmt := if .mgmt ∈ l then t.mgmt else s.mgmt
    pmu := if .pmu ∈ l then t.pmu else s.pmu
    freeCount := if .freeCount ∈ l then t.freeCount else s.freeCount
    serial := if .serial ∈ l then t.serial else s.serial

theorem changesOnly_of_paste {u : State} (h : s.paste l t = u) : ChangesOnly l s u := by
  subst h
  intro p hp
  cases p <;> simp_all [State.paste, Part.left, regsLeft, port, counter]

/-- The invariant, part by part. -/
theorem State.wf_of (h : s.wf)
    (h1 : msorted s.regs = true → msorted t.regs = true) (h2 : canonical {} s.chans → canonical {} t.chans)
    (h3 : canonical {} s.rings → canonical {} t.rings)
    (h4 : canonical {} s.book.points → canonical {} t.book.points)
    (h5 : canonical {} s.cellar.charges ∧ msorted s.cellar.frames = true →
      canonical {} t.cellar.charges ∧ msorted t.cellar.frames = true)
    (h6 : canonical {} s.rows → canonical {} t.rows) (h7 : canonical {} s.ports → canonical {} t.ports)
    (h8 : canonical {} s.presses → canonical {} t.presses) 
    (h9 : canonical {} s.replicas ∧ msorted s.replicasOld = true →
      canonical {} t.replicas ∧ msorted t.replicasOld = true)
    (h10 : s.fabric.wf → t.fabric.wf) (h11 : canonical {} s.funcs → canonical {} t.funcs)
    (h12 : s.events.wf → t.events.wf) (h13 : s.time.wf → t.time.wf) (h14 : s.power.wf → t.power.wf)
    (h15 : s.errors.wf → t.errors.wf) (h16 : canonical {} s.pmu.counters → canonical {} t.pmu.counters)
    (h17 : canonical {} s.aux.image.points ∧ msorted s.aux.image.prods = true →
      canonical {} t.aux.image.points ∧ msorted t.aux.image.prods = true)
    (h18 : canonical 0 s.aux.patterns → canonical 0 t.aux.patterns := by exact id)
    (h19 : canonical 0 s.cm.sram → canonical 0 t.cm.sram := by exact id) : t.wf := by
  obtain ⟨a1, a2, a3, a4, a5, a6, a7, a8, a9, a10, a11, a12, a13, a14, a15, a16, a17, a18, a19⟩ := h
  exact ⟨h1 a1, h2 a2, h3 a3, h4 a4, h5 a5, h6 a6, h7 a7, h8 a8, h9 a9, h10 a10, h11 a11, h12 a12, h13 a13,
    h14 a14, h15 a15, h16 a16, h17 a17, h18 a18, h19 a19⟩

/-- A record update changes the fields that it names, and keeps the invariant when each part under it does. -/
theorem keep_mk {m : List Part} {pending' regs' pairHeld' pairCap' rdata' chans' rings' book' cellar' rows' ports' presses' replicas' replicasOld' engine' fabric' funcs' events' time' cvTest' aux' power' errors' racking' cm' mgmt' pmu' freeCount' serial'}
    (hp : pending' = s.pending) (h : Keep l a s) (hl : Covers l m)
    (c_regs : regs' = s.regs ∨ Part.regs ∈ m := by first | exact .inl rfl | exact .inr (by decide))
    (c_pairHeld : pairHeld' = s.pairHeld ∨ Part.pairHeld ∈ m := by first | exact .inl rfl | exact .inr (by decide))
    (c_pairCap : pairCap' = s.pairCap ∨ Part.pairCap ∈ m := by first | exact .inl rfl | exact .inr (by decide))
    (c_rdata : rdata' = s.rdata ∨ Part.rdata ∈ m := by first | exact .inl rfl | exact .inr (by decide))
    (c_chans : chans' = s.chans ∨ Part.chans ∈ m := by first | exact .inl rfl | exact .inr (by decide))
    (c_rings : rings' = s.rings ∨ Part.rings ∈ m := by first | exact .inl rfl | exact .inr (by decide))
    (c_book : book' = s.book ∨ Part.book ∈ m := by first | exact .inl rfl | exact .inr (by decide))
    (c_cellar : cellar' = s.cellar ∨ Part.cellar ∈ m := by first | exact .inl rfl | exact .inr (by decide))
    (c_rows : rows' = s.rows ∨ Part.rows ∈ m := by first | exact .inl rfl | exact .inr (by decide))
    (c_ports : ports' = s.ports ∨ Part.ports ∈ m := by first | exact .inl rfl | exact .inr (by decide))
    (c_presses : presses' = s.presses ∨ Part.presses ∈ m := by first | exact .inl rfl | exact .inr (by decide))
    (c_replicas : replicas' = s.replicas ∨ Part.replicas ∈ m := by first | exact .inl rfl | exact .inr (by decide))
    (c_replicasOld : replicasOld' = s.replicasOld ∨ Part.replicas ∈ m := by
      first | exact .inl rfl | exact .inr (by decide))
    (c_engine : engine' = s.engine ∨ Part.engine ∈ m := by first | exact .inl rfl | exact .inr (by decide))
    (c_fabric : fabric' = s.fabric ∨ Part.fabric ∈ m := by first | exact .inl rfl | exact .inr (by decide))
    (c_funcs : funcs' = s.funcs ∨ Part.funcs ∈ m := by first | exact .inl rfl | exact .inr (by decide))
    (c_events : events' = s.events ∨ Part.events ∈ m := by first | exact .inl rfl | exact .inr (by decide))
    (c_time : time' = s.time ∨ Part.time ∈ m := by first | exact .inl rfl | exact .inr (by decide))
    (c_cvTest : cvTest' = s.cvTest ∨ Part.cvTest ∈ m := by first | exact .inl rfl | exact .inr (by decide))
    (c_aux : aux' = s.aux ∨ Part.aux ∈ m := by first | exact .inl rfl | exact .inr (by decide))
    (c_power : power' = s.power ∨ Part.power ∈ m := by first | exact .inl rfl | exact .inr (by decide))
    (c_errors : errors' = s.errors ∨ Part.errors ∈ m := by first | exact .inl rfl | exact .inr (by decide))
    (c_racking : racking' = s.racking ∨ Part.racking ∈ m := by first | exact .inl rfl | exact .inr (by decide))
    (c_cm : cm' = s.cm ∨ Part.cm ∈ m := by first | exact .inl rfl | exact .inr (by decide))
    (c_mgmt : mgmt' = s.mgmt ∨ Part.mgmt ∈ m := by first | exact .inl rfl | exact .inr (by decide))
    (c_pmu : pmu' = s.pmu ∨ Part.pmu ∈ m := by first | exact .inl rfl | exact .inr (by decide))
    (c_freeCount : freeCount' = s.freeCount ∨ Part.freeCount ∈ m := by first
      | exact .inl rfl | exact .inr (by decide))
    (c_serial : serial' = s.serial ∨ Part.serial ∈ m := by first | exact .inl rfl | exact .inr (by decide))
    (h1 : msorted s.regs = true → msorted regs' = true := by
      first | exact id | exact msorted_mputD)
    (h2 : canonical {} s.chans → canonical {} chans' := by
      first | exact id | exact canonical_mputD | exact (fun h => canonical_trim h.1 fun _ => rfl))
    (h3 : canonical {} s.rings → canonical {} rings' := by
      first | exact id | exact canonical_mputD | exact (fun h => canonical_trim h.1 fun _ => rfl))
    (h4 : canonical {} s.book.points → canonical {} book'.points := by
      first | exact id | exact canonical_mputD)
    (h5 : canonical {} s.cellar.charges ∧ msorted s.cellar.frames = true → canonical {} cellar'.charges ∧ msorted cellar'.frames = true := by
      first
        | exact id | exact (fun h => ⟨canonical_mputD h.1, h.2⟩) | exact (fun h => ⟨h.1, msorted_mput h.2⟩)
        | exact (fun h => ⟨h.1, msorted_merase h.2⟩))
    (h6 : canonical {} s.rows → canonical {} rows' := by
      first | exact id | exact canonical_mputD | exact (fun h => canonical_trim h.1 fun _ => rfl))
    (h7 : canonical {} s.ports → canonical {} ports' := by
      first | exact id | exact canonical_mputD | exact (fun h => canonical_trim h.1 fun _ => rfl))
    (h8 : canonical {} s.presses → canonical {} presses' := by
      first | exact id | exact canonical_mputD | exact (fun h => canonical_trim h.1 fun _ => rfl))
    (h9 : canonical {} s.replicas ∧ msorted s.replicasOld = true → canonical {} replicas' ∧ msorted replicasOld' = true := by
      first | exact id | exact (fun h => ⟨canonical_mputD h.1, msorted_mput h.2⟩) | exact (fun h => ⟨h.1, rfl⟩))
    (h10 : s.fabric.wf → Fabric.wf fabric' := by
      first
        | exact id | exact (fun h => Fabric.wf_submit h rfl) | exact Fabric.wf_filter
        | exact (fun h => Fabric.wf_map h (fun r => by split <;> rfl))
        | exact (fun h => Fabric.wf_map (Fabric.wf_filter h) (fun r => by split <;> rfl)))
    (h11 : canonical {} s.funcs → canonical {} funcs' := by
      first | exact id | exact canonical_mputD | exact (fun h => canonical_trim h.1 fun _ => rfl))
    (h12 : s.events.wf → Events.wf events' := by
      first | exact id | exact List.Pairwise.filter _ | exact (fun h => List.Pairwise.sublist List.erase_sublist h))
    (h13 : s.time.wf → Time.wf time' := by
      first | exact id)
    (h14 : s.power.wf → Power.wf power' := by
      first | exact id | exact (fun h => ⟨h.1, by simp⟩))
    (h15 : s.errors.wf → ErrQueue.wf errors' := by
      first | exact id)
    (h16 : canonical {} s.pmu.counters → canonical {} pmu'.counters := by
      first | exact id | exact canonical_mputD | exact (fun h => canonical_trim h.1 fun _ => rfl))
    (h17 : canonical {} s.aux.image.points ∧ msorted s.aux.image.prods = true → canonical {} aux'.image.points ∧ msorted aux'.image.prods = true := by
      first | exact id)
    (h18 : canonical 0 s.aux.patterns → canonical 0 (Aux.patterns aux') := by first | exact id | exact canonical_foldl_mputD)
    (h19 : canonical 0 s.cm.sram → canonical 0 (Cm.sram cm') := by first | exact id | exact canonical_putSram) :
    Keep l a ⟨pending', regs', pairHeld', pairCap', rdata', chans', rings', book', cellar', rows', ports', presses', replicas', replicasOld', engine', fabric', funcs', events', time', cvTest', aux', power', errors', racking', cm', mgmt', pmu', freeCount', serial'⟩ := h.step fun hs => by
  refine ⟨State.wf_of hs h1 h2 h3 h4 h5 h6 h7 h8 h9 h10 h11 h12 h13 h14 h15 h16 h17 h18 h19, ?_⟩
  refine ChangesOnly.mono (m := m) (fun p hn => ?_) hl
  cases p <;> first
    | exact hp
    | exact c_regs.elim (fun e => fun x _ _ => by rw [e]) (fun hm => absurd hm hn)
    | exact c_pairHeld.elim (fun e => e) (fun hm => absurd hm hn)
    | exact c_pairCap.elim (fun e => e) (fun hm => absurd hm hn)
    | exact c_rdata.elim (fun e => e) (fun hm => absurd hm hn)
    | exact c_chans.elim (fun e => e) (fun hm => absurd hm hn)
    | exact c_rings.elim (fun e => e) (fun hm => absurd hm hn)
    | exact c_book.elim (fun e => e) (fun hm => absurd hm hn)
    | exact c_cellar.elim (fun e => e) (fun hm => absurd hm hn)
    | exact c_rows.elim (fun e => e) (fun hm => absurd hm hn)
    | exact c_ports.elim (fun e => fun g => by simp only [port, e]) (fun hm => absurd hm hn)
    | exact c_presses.elim (fun e => e) (fun hm => absurd hm hn)
    | exact c_replicas.elim (fun e => c_replicasOld.elim (fun e' => ⟨e, e'⟩) (fun hm => absurd hm hn)) (fun hm => absurd hm hn)
    | exact c_engine.elim (fun e => e) (fun hm => absurd hm hn)
    | exact c_fabric.elim (fun e => by simp only [Part.left, e]) (fun hm => absurd hm hn)
    | exact c_funcs.elim (fun e => e) (fun hm => absurd hm hn)
    | exact c_events.elim (fun e => ⟨by rw [e], e ▸ List.prefix_refl _⟩) (fun hm => absurd hm hn)
    | exact c_time.elim (fun e => e) (fun hm => absurd hm hn)
    | exact c_cvTest.elim (fun e => e) (fun hm => absurd hm hn)
    | exact c_aux.elim (fun e => e) (fun hm => absurd hm hn)
    | exact c_power.elim (fun e => e) (fun hm => absurd hm hn)
    | exact c_errors.elim (fun e => e) (fun hm => absurd hm hn)
    | exact c_racking.elim (fun e => e) (fun hm => absurd hm hn)
    | exact c_cm.elim (fun e => e) (fun hm => absurd hm hn)
    | exact c_mgmt.elim (fun e => e) (fun hm => absurd hm hn)
    | exact c_pmu.elim (fun e => ⟨by rw [e], fun n => by simp only [counter, e]⟩) (fun hm => absurd hm hn)
    | exact c_freeCount.elim (fun e => e) (fun hm => absurd hm hn)
    | exact c_serial.elim (fun e => e) (fun hm => absurd hm hn)

/-- A change of one part that leaves it as it was. -/
theorem Keep.quiet {p : Part} (h : Keep l a s) (hp : s.paste [p] t = t) (hw : s.wf → t.wf)
    (h' : s.wf → p.left s t) : Keep l a t := h.step fun hs =>
  ⟨hw hs, fun q _ => by
    by_cases hq : q = p
    · exact hq ▸ h' hs
    · exact changesOnly_of_paste hp q (by simpa using hq)⟩

theorem keep_ite {c : Prop} [Decidable c] (h : Keep l a s) (h' : Keep l a t) : Keep l a (if c then s else t) := by
  split <;> assumption

theorem keep_fst_ite {α : Type} {c : Prop} [Decidable c] {x y : State × α} (h : Keep l a x.1) (h' : Keep l a y.1) :
    Keep l a (if c then x else y).1 := by
  split <;> assumption

theorem keep_snd_ite {α : Type} {c : Prop} [Decidable c] {x y : α × State} (h : Keep l a x.2) (h' : Keep l a y.2) :
    Keep l a (if c then x else y).2 := by
  split <;> assumption

theorem keep_trd_ite {α β : Type} {c : Prop} [Decidable c] {x y : α × β × State} (h : Keep l a x.2.2)
    (h' : Keep l a y.2.2) : Keep l a (if c then x else y).2.2 := by
  split <;> assumption

theorem keep_foldl {α : Type} {f : State → α → State} {xs : List α} (h : Keep l a s)
    (hf : ∀ s x, Keep l a s → Keep l a (f s x)) : Keep l a (xs.foldl f s) := by
  induction xs generalizing s with
  | nil => exact h
  | cons x xs ih => exact ih (hf s x h)

theorem keep_fst {α : Type} {p : State × α} {x : α} (e : p = (s, x)) (h : Keep l a p.1) : Keep l a s := by
  rw [e] at h; exact h

theorem keep_snd {α : Type} {p : α × State} {x : α} (e : p = (x, s)) (h : Keep l a p.2) : Keep l a s := by
  rw [e] at h; exact h

theorem keepOut_next (h : Keep l a s) : KeepOut l a (.next s) := by
  intro t e; cases e; exact h

theorem keepOut_fault {f : Fault} : KeepOut l a (.fault f) := by
  intro t e; cases e

theorem keepOut_ite {c : Prop} [Decidable c] {x y : Host.Outcome State Fault Refusal} (h : KeepOut l a x)
    (h' : KeepOut l a y) : KeepOut l a (if c then x else y) := by
  split <;> assumption

end Sys2Proof.Machine
end

