-- ==== Sys2Proof/Laws/KeepShared.lean ====
section
/-!
SUPPORT. What each operation keeps and changes (the shared operations: counters, errors, fabric requests, records, cellar, gates, rings): the invariant
of the machine, and the parts outside the list that its lemma names.
-/

set_option Elab.async false

namespace Sys2Proof.Machine

variable {l : List Part} {a s t : State}

/-! ### Machine/Ops.lean -/

theorem keep_setReg (h : Keep l a s) (hl : Covers l [.regs]) : Keep l a (setReg b c s) :=
  keep_mk (m := [.regs]) rfl h hl

theorem keep_setReg_event (h : Keep l a s) (he : eventReg b.off = true) : Keep l a (setReg b c s) :=
  h.quiet (p := .regs) rfl
    (fun hw => State.wf_of hw msorted_mputD id id id id id id id id id id id id id id id id)
    fun _ x _ hx => mget_mputD_ne fun hn => by rw [hn, he] at hx; cases hx

theorem keep_fset (h : Keep l a s) (hl : Covers l [.regs]) : Keep l a (fset b c s) := by
  unfold fset
  repeat' first | with_reducible assumption | exact hl.mono rfl | with_reducible apply keep_setReg

theorem keep_fsetBit (h : Keep l a s) (hl : Covers l [.regs]) : Keep l a (fsetBit b c s) := by
  unfold fsetBit
  repeat' first | with_reducible assumption | exact hl.mono rfl | with_reducible apply keep_fset

theorem keep_fclrBit (h : Keep l a s) (hl : Covers l [.regs]) : Keep l a (fclrBit b c s) := by
  unfold fclrBit
  repeat' first | with_reducible assumption | exact hl.mono rfl | with_reducible apply keep_fset

theorem keep_fadd (h : Keep l a s) (hl : Covers l [.regs]) : Keep l a (fadd b c s) := by
  unfold fadd
  repeat' first | with_reducible assumption | exact hl.mono rfl | with_reducible apply keep_fset

theorem keep_setChan (h : Keep l a s) (hl : Covers l [.chans]) : Keep l a (setChan b c s) := by
  unfold setChan
  repeat' first
    | with_reducible assumption | exact hl.mono rfl | dsimp only | refine keep_mk (m := [.chans]) rfl ?_ (hl.mono rfl)

theorem keep_modChan (h : Keep l a s) (hl : Covers l [.chans]) : Keep l a (modChan b c s) := by
  unfold modChan
  repeat' first | with_reducible assumption | exact hl.mono rfl | with_reducible apply keep_setChan

theorem keep_setRing (h : Keep l a s) (hl : Covers l [.rings]) : Keep l a (setRing b c s) := by
  unfold setRing
  repeat' first
    | with_reducible assumption | exact hl.mono rfl | dsimp only | refine keep_mk (m := [.rings]) rfl ?_ (hl.mono rfl)

theorem keep_modRing (h : Keep l a s) (hl : Covers l [.rings]) : Keep l a (modRing b c s) := by
  unfold modRing
  repeat' first | with_reducible assumption | exact hl.mono rfl | with_reducible apply keep_setRing

theorem keep_setRow (h : Keep l a s) (hl : Covers l [.rows]) : Keep l a (setRow b c s) := by
  unfold setRow
  repeat' first
    | with_reducible assumption | exact hl.mono rfl | dsimp only | refine keep_mk (m := [.rows]) rfl ?_ (hl.mono rfl)

theorem keep_modRow (h : Keep l a s) (hl : Covers l [.rows]) : Keep l a (modRow b c s) := by
  unfold modRow
  repeat' first | with_reducible assumption | exact hl.mono rfl | with_reducible apply keep_setRow

theorem keep_setPort (h : Keep l a s) (hl : Covers l [.ports]) : Keep l a (setPort b c s) :=
  keep_mk (m := [.ports]) rfl h hl

theorem port_setPort_self (h : s.wf) : port b (setPort b c s) = c := mgetD_mputD_self h.2.2.2.2.2.2.1.1

theorem port_setPort_ne (h : k ≠ b) : port k (setPort b c s) = port k s := mgetD_mputD_ne h

/-- A port changes in its LPI state only. -/
theorem keep_setPort_awake (h : Keep l a s) (hc : c.awake = (port b s).awake) : Keep l a (setPort b c s) :=
  h.quiet (p := .ports) rfl (fun hw => State.wf_of hw id id id id id id canonical_mputD id id id id id id id id id id)
    fun hw g => by
      by_cases hn : g = b
      · rw [hn, port_setPort_self hw, hc]
      · rw [port_setPort_ne hn]

theorem keep_modPort (h : Keep l a s) (hl : Covers l [.ports]) : Keep l a (modPort b c s) := by
  unfold modPort
  repeat' first | with_reducible assumption | exact hl.mono rfl | with_reducible apply keep_setPort

theorem keep_setPress (h : Keep l a s) (hl : Covers l [.presses]) : Keep l a (setPress b c s) := by
  unfold setPress
  repeat' first
    | with_reducible assumption | exact hl.mono rfl | dsimp only
    | refine keep_mk (m := [.presses]) rfl ?_ (hl.mono rfl)

theorem keep_modPress (h : Keep l a s) (hl : Covers l [.presses]) : Keep l a (modPress b c s) := by
  unfold modPress
  repeat' first | with_reducible assumption | exact hl.mono rfl | with_reducible apply keep_setPress

theorem keep_setReplica (h : Keep l a s) (hl : Covers l [.replicas]) : Keep l a (setReplica b c s) := by
  unfold setReplica
  repeat' first
    | with_reducible assumption | exact hl.mono rfl | dsimp only
    | refine keep_mk (m := [.replicas]) rfl ?_ (hl.mono rfl)

theorem keep_modReplica (h : Keep l a s) (hl : Covers l [.replicas]) : Keep l a (modReplica b c s) := by
  unfold modReplica
  repeat' first | with_reducible assumption | exact hl.mono rfl | with_reducible apply keep_setReplica

theorem keep_setFunc (h : Keep l a s) (hl : Covers l [.funcs]) : Keep l a (setFunc b c s) := by
  unfold setFunc
  repeat' first
    | with_reducible assumption | exact hl.mono rfl | dsimp only | refine keep_mk (m := [.funcs]) rfl ?_ (hl.mono rfl)

theorem keep_modFunc (h : Keep l a s) (hl : Covers l [.funcs]) : Keep l a (modFunc b c s) := by
  unfold modFunc
  repeat' first | with_reducible assumption | exact hl.mono rfl | with_reducible apply keep_setFunc

theorem keep_setCounter (h : Keep l a s) (hl : Covers l [.pmu]) : Keep l a (setCounter b c s) :=
  keep_mk (m := [.pmu]) rfl h hl

theorem counter_setCounter_self (h : s.wf) : counter b (setCounter b c s) = c :=
  mgetD_mputD_self h.2.2.2.2.2.2.2.2.2.2.2.2.2.2.2.1.1

theorem counter_setCounter_ne (h : k ≠ b) : counter k (setCounter b c s) = counter k s := mgetD_mputD_ne h

/-- A counter changes in its value only. -/
theorem keep_setCounter_config (h : Keep l a s) (hc : s.wf → c.config = (counter b s).config) :
    Keep l a (setCounter b c s) :=
  h.quiet (p := .pmu) rfl
    (fun hw => State.wf_of hw id id id id id id id id id id id id id id id canonical_mputD id)
    fun hw => ⟨rfl, fun n => by
      by_cases hn : n = b
      · rw [hn, counter_setCounter_self hw, hc hw]
      · rw [counter_setCounter_ne hn]⟩

theorem keep_addEvent (h : Keep l a s) : Keep l a (addEvent b s) := by
  unfold addEvent
  split
  · exact h
  · exact h.quiet (p := .events) rfl
      (fun hw => State.wf_of hw id id id id id id id id id id id
        (fun he => Event.merges_pairwise he (Bool.eq_false_iff.mpr ‹_›)) id id id id id)
      fun _ => ⟨rfl, List.prefix_append _ _⟩

theorem keep_raiseSource (h : Keep l a s) : Keep l a (raiseSource b s) := by
  unfold raiseSource
  have h1 : Keep l a (fsetBit EVT_STAT.src_pending b s) := keep_setReg_event h (by decide)
  exact keep_ite (keep_addEvent h1) h1

theorem keep_sampleLost (h : Keep l a s) : Keep l a (sampleLost s) := keep_setReg_event h (by decide)

theorem eventReg_ovf (h : b < 736) : eventReg (PMU_OVF.ovf (b / 32)).reg.off = true := by
  have : b / 32 < 23 := by omega
  generalize b / 32 = i at this
  revert this
  revert i
  decide

/-- Counting gives a counter another value. -/
theorem Counter.config_set {c : Counter} {v : BitVec 48} {o m : Bool} :
    ({ c with value := v, ovf := o, armed := m } : Counter).config = c.config := rfl

theorem keep_noteOvf (h : Keep l a s) : Keep l a (noteOvf b s) :=
  h.quiet (p := .pmu) rfl id fun _ => ⟨rfl, fun _ => rfl⟩

theorem keep_addCount (h : Keep l a s) : Keep l a (addCount b c d s) := by
  unfold addCount
  extract_lets c' v pre arm lose s1 s2 s3
  have h1 : Keep l a s1 := keep_setCounter_config h fun _ => Counter.config_set
  split
  · exact h
  · have h2 : Keep l a s2 := keep_setReg_event (keep_noteOvf h1) (eventReg_ovf (Nat.lt_of_not_le ‹_›))
    have h3 : Keep l a s3 := keep_ite (keep_raiseSource h2) h2
    exact keep_ite (keep_setCounter_config h fun _ => Counter.config_set) (keep_ite (keep_sampleLost h3) h3)

theorem keep_tagItem (h : Keep l a s) : Keep l a (tagItem b c s) := by
  unfold tagItem
  split
  · exact h
  · have h1 : Keep l a (setCounter b { counter b s with armed := false } s) :=
      keep_setCounter_config h fun _ => Counter.config_set
    exact keep_ite (h1.quiet (p := .pmu) rfl id fun _ => ⟨rfl, fun _ => rfl⟩) h

theorem keep_count (h : Keep l a s) : Keep l a (count b c d e s) := by
  unfold count
  refine keep_ite (keep_foldl h fun u x hu => ?_) h
  exact keep_ite (keep_addCount (keep_tagItem hu)) hu

theorem ErrQueue.wf_post {e : ErrQueue} {r : ErrRec} {c : Nat} (h : e.wf) (hc : c < 64) :
    ({ recs := mputD {} (e.posted % 64) r e.recs, posted := e.posted + 1, count := c + 1 } : ErrQueue).wf := by
  refine ⟨hc, msorted_mputD h.2.1, fun x hx => ?_⟩
  have hx : x ∈ mputD {} (e.posted % 64) r e.recs := hx
  unfold mputD at hx
  split at hx
  · exact h.2.2 x (mem_merase hx)
  · obtain rfl | hx := mem_mput hx
    · exact Nat.mod_lt _ (by decide)
    · exact h.2.2 x hx

theorem keep_postError (h : Keep l a s) (hl : Covers l [.regs, .errors]) : Keep l a (postError b c d e i s) := by
  unfold postError
  extract_lets slot first r s1 s2
  have h1 (hn : ¬ 64 ≤ s.errors.count) : Keep l a s1 :=
    keep_mk (m := [.errors]) rfl h (hl.mono rfl) (h15 := fun he => ErrQueue.wf_post he (by omega))
  refine if hn : 64 ≤ s.errors.count then ?_ else ?_
  · rw [if_pos hn]; exact keep_fadd h (hl.mono rfl)
  · rw [if_neg hn]
    exact keep_raiseSource (keep_count (keep_ite
      (keep_fset (keep_fset (h1 hn) (hl.mono rfl)) (hl.mono rfl)) (h1 hn)))

theorem keep_corrected (h : Keep l a s) (hl : Covers l [.regs, .errors]) : Keep l a (corrected b s) := by
  unfold corrected
  repeat' first
    | with_reducible assumption | exact hl.mono rfl | with_reducible apply keep_fadd
    | with_reducible apply keep_postError | with_reducible apply keep_ite

theorem msorted_clearRecs {n i : Nat} {m : SMap ErrRec} (h : msorted m = true) : msorted (clearRecs n i m) = true := by
  induction n generalizing i m with
  | zero => exact h
  | succ n ih => exact ih (msorted_mputD h)

theorem mem_clearRecs {n i : Nat} {m : SMap ErrRec} (h : ∀ r ∈ m, r.1 < 64) : ∀ r ∈ clearRecs n i m, r.1 < 64 := by
  induction n generalizing i m with
  | zero => exact h
  | succ n ih =>
    refine ih fun r hr => ?_
    unfold mputD at hr
    split at hr
    · exact h r (mem_merase hr)
    · obtain rfl | hr := mem_mput hr
      · exact Nat.mod_lt _ (by decide)
      · exact h r hr

theorem keep_popErrors (h : Keep l a s) (hl : Covers l [.errors]) : Keep l a (popErrors b s) := by
  unfold popErrors
  refine keep_mk (m := [.errors]) rfl h hl (h15 := fun he => ?_)
  exact ⟨by have := he.1; show _ - _ ≤ 64; omega, msorted_clearRecs he.2.1, mem_clearRecs he.2.2⟩

/-! ### Machine/Fabric.lean -/

theorem keep_submit (h : Keep l a s) (hl : Covers l [.fabric]) : Keep l a (submit b c d e i j s) := by
  unfold submit
  repeat' first
    | with_reducible assumption | exact hl.mono rfl | dsimp only
    | refine keep_mk (m := [.fabric]) rfl ?_ (hl.mono rfl)

theorem keep_submitRead (h : Keep l a s) (hl : Covers l [.fabric]) : Keep l a (submitRead b c d e s) := by
  unfold submitRead
  repeat' first | with_reducible assumption | exact hl.mono rfl | with_reducible apply keep_submit

theorem keep_submitWrite (h : Keep l a s) (hl : Covers l [.fabric]) : Keep l a (submitWrite b c d e s) := by
  unfold submitWrite
  repeat' first | with_reducible assumption | exact hl.mono rfl | with_reducible apply keep_submit

theorem keep_submitData (h : Keep l a s) (hl : Covers l [.fabric]) : Keep l a (submitData b c d e s).1 := by
  unfold submitData
  repeat' first
    | with_reducible assumption | exact hl.mono rfl | with_reducible apply keep_submitWrite
    | with_reducible apply keep_foldl | dsimp only | (intro _; intros)

theorem keep_setReqPort (h : Keep l a s) : Keep l a (setReqPort b c s) :=
  h.quiet (p := .fabric) rfl
    (fun hw => State.wf_of hw id id id id id id id id id (fun hf => Fabric.wf_map hf fun r => by split <;> rfl)
      id id id id id id id)
    fun _ => by
      simp only [Part.left, setReqPort, List.map_map]
      congr 1
      refine List.map_congr_left fun r _ => ?_
      simp only [Function.comp]
      split <;> rfl

theorem keep_tryIssue (h : Keep l a s) : Keep l a (tryIssue b s) := by
  unfold tryIssue
  repeat' first
    | with_reducible assumption | with_reducible apply keep_setReqPort | with_reducible apply keep_count
    | with_reducible apply keep_ite | split

theorem keep_pump (h : Keep l a s) : Keep l a (pump s) := by
  unfold pump
  repeat' first
    | with_reducible assumption | with_reducible apply keep_tryIssue | with_reducible apply keep_ite
    | with_reducible apply keep_foldl | split | dsimp only | (intro _; intros)

theorem keep_dropReq (h : Keep l a s) (hl : Covers l [.fabric]) : Keep l a (dropReq b s) := by
  unfold dropReq
  repeat' first
    | with_reducible assumption | exact hl.mono rfl | dsimp only
    | refine keep_mk (m := [.fabric]) rfl ?_ (hl.mono rfl)

theorem keep_discardReqs (h : Keep l a s) (hl : Covers l [.fabric]) : Keep l a (discardReqs b s) := by
  unfold discardReqs
  repeat' first
    | with_reducible assumption | exact hl.mono rfl | with_reducible apply keep_ite | split | dsimp only
    | refine keep_mk (m := [.fabric]) rfl ?_ (hl.mono rfl)

theorem keep_errResponse (h : Keep l a s) (hl : Covers l [.regs]) : Keep l a (errResponse b s) := by
  unfold errResponse
  repeat' first
    | with_reducible assumption | exact hl.mono rfl | with_reducible apply keep_fset | with_reducible apply keep_count
    | split

theorem keep_quarantineReq (h : Keep l a s) (hl : Covers l [.fabric]) : Keep l a (quarantineReq b c s) := by
  unfold quarantineReq
  repeat' first
    | with_reducible assumption | exact hl.mono rfl | dsimp only
    | refine keep_mk (m := [.fabric]) rfl ?_ (hl.mono rfl)

theorem keep_reissue (h : Keep l a s) (hl : Covers l [.fabric]) : Keep l a (reissue b c s) := by
  unfold reissue
  repeat' first
    | with_reducible assumption | exact hl.mono rfl | with_reducible apply keep_ite | split | dsimp only
    | refine keep_mk (m := [.fabric]) rfl ?_ (hl.mono rfl)

theorem keep_keepReq (h : Keep l a s) (hl : Covers l [.fabric]) : Keep l a (keepReq b s) := by
  unfold keepReq
  repeat' first
    | with_reducible assumption | exact hl.mono rfl | with_reducible apply keep_ite | split | dsimp only
    | refine keep_mk (m := [.fabric]) rfl ?_ (hl.mono rfl)

theorem keep_timeOutReq (h : Keep l a s) (hl : Covers l [.fabric]) : Keep l a (timeOutReq b s).1 := by
  unfold timeOutReq
  repeat' first
    | with_reducible assumption | exact hl.mono rfl | with_reducible apply keep_quarantineReq
    | with_reducible apply keep_reissue | with_reducible apply keep_keepReq | with_reducible apply keep_dropReq
    | with_reducible apply keep_count | with_reducible apply keep_fst_ite | with_reducible apply keep_ite | split

theorem keep_portFault (h : Keep l a s) (hl : Covers l [.regs, .fabric, .errors]) : Keep l a (portFault b s) := by
  unfold portFault
  repeat' first
    | with_reducible assumption | exact hl.mono rfl | with_reducible apply keep_raiseSource
    | with_reducible apply keep_postError | with_reducible apply keep_ite | split | dsimp only
    | refine keep_mk (m := [.fabric]) rfl ?_ (hl.mono rfl)

theorem keep_lateCount (h : Keep l a s) (hl : Covers l [.regs]) : Keep l a (lateCount b s) := by
  unfold lateCount
  repeat' first
    | with_reducible assumption | exact hl.mono rfl | with_reducible apply keep_fadd | with_reducible apply keep_count

theorem keep_releaseQuarantine (h : Keep l a s) (hl : Covers l [.fabric]) : Keep l a (releaseQuarantine b s) := by
  unfold releaseQuarantine
  repeat' first
    | with_reducible assumption | exact hl.mono rfl | dsimp only
    | refine keep_mk (m := [.fabric]) rfl ?_ (hl.mono rfl)

/-! ### Machine/Records.lean -/

theorem keep_modSampleRing (h : Keep l a s) (hl : Covers l [.pmu]) : Keep l a (modSampleRing b s) := by
  unfold modSampleRing
  repeat' first
    | with_reducible assumption | exact hl.mono rfl | dsimp only | refine keep_mk (m := [.pmu]) rfl ?_ (hl.mono rfl)

theorem keep_readSampleCons (h : Keep l a s) (hl : Covers l [.fabric, .pmu]) : Keep l a (readSampleCons s) := by
  unfold readSampleCons
  repeat' first
    | with_reducible assumption | exact hl.mono rfl | with_reducible apply keep_submitRead
    | with_reducible apply keep_modSampleRing | with_reducible apply keep_ite

theorem keep_writeSample (h : Keep l a s) (hl : Covers l [.fabric, .pmu]) : Keep l a (writeSample b c s) := by
  unfold writeSample
  repeat' first
    | with_reducible assumption | exact hl.mono rfl | with_reducible apply keep_submitWrite
    | with_reducible apply keep_sampleLost | with_reducible apply keep_modSampleRing
    | with_reducible apply keep_raiseSource | with_reducible apply keep_readSampleCons | with_reducible apply keep_ite

theorem keep_flushSampleProd (h : Keep l a s) (hl : Covers l [.fabric, .pmu]) : Keep l a (flushSampleProd b s) := by
  unfold flushSampleProd
  repeat' first
    | with_reducible assumption | exact hl.mono rfl | with_reducible apply keep_submitWrite
    | with_reducible apply keep_modSampleRing | with_reducible apply keep_ite

theorem keep_endTags (h : Keep l a s) (hl : Covers l [.fabric, .pmu]) : Keep l a (endTags b c s) := by
  unfold endTags
  repeat' first
    | with_reducible assumption | exact hl.mono rfl | with_reducible apply keep_writeSample
    | with_reducible apply keep_foldl | dsimp only | refine keep_mk (m := [.pmu]) rfl ?_ (hl.mono rfl)
    | (intro _; intros)

theorem keep_endFrame (h : Keep l a s) (hl : Covers l [.fabric, .pmu]) : Keep l a (endFrame b s) := by
  unfold endFrame
  repeat' first | with_reducible assumption | exact hl.mono rfl | with_reducible apply keep_endTags

theorem keep_modLearn (h : Keep l a s) (hl : Covers l [.engine]) : Keep l a (modLearn b s) := by
  unfold modLearn
  repeat' first
    | with_reducible assumption | exact hl.mono rfl | dsimp only
    | refine keep_mk (m := [.engine]) rfl ?_ (hl.mono rfl)

theorem keep_readLearnCons (h : Keep l a s) (hl : Covers l [.engine, .fabric]) : Keep l a (readLearnCons s) := by
  unfold readLearnCons
  repeat' first
    | with_reducible assumption | exact hl.mono rfl | with_reducible apply keep_modLearn
    | with_reducible apply keep_submitRead | with_reducible apply keep_ite

theorem keep_dropLearn (h : Keep l a s) (hl : Covers l [.regs, .cm]) : Keep l a (dropLearn s) := by
  unfold dropLearn
  repeat' first
    | with_reducible assumption | exact hl.mono rfl | with_reducible apply keep_fadd | with_reducible apply keep_count
    | dsimp only | refine keep_mk (m := [.cm]) rfl ?_ (hl.mono rfl)

theorem keep_postLearn (h : Keep l a s) (hl : Covers l [.regs, .engine, .fabric, .cm]) :
    Keep l a (postLearn b s).1 := by
  unfold postLearn
  repeat' first
    | with_reducible assumption | exact hl.mono rfl | with_reducible apply keep_submitWrite
    | with_reducible apply keep_modLearn | with_reducible apply keep_dropLearn
    | with_reducible apply keep_readLearnCons | with_reducible apply keep_fset | with_reducible apply keep_count
    | with_reducible apply keep_fst_ite | with_reducible apply keep_ite

theorem keep_flushLearnProd (h : Keep l a s) (hl : Covers l [.engine, .fabric]) : Keep l a (flushLearnProd b s) := by
  unfold flushLearnProd
  repeat' first
    | with_reducible assumption | exact hl.mono rfl | with_reducible apply keep_submitWrite
    | with_reducible apply keep_modLearn | with_reducible apply keep_ite

/-! ### Machine/Cellar.lean -/

theorem keep_setCharge (h : Keep l a s) (hl : Covers l [.cellar]) : Keep l a (setCharge b c d s) :=
  keep_mk (m := [.cellar]) rfl h hl

theorem keep_notePeak (h : Keep l a s) (hl : Covers l [.regs]) : Keep l a (notePeak s) := by
  unfold notePeak
  repeat' first | with_reducible assumption | exact hl.mono rfl | with_reducible apply keep_fset

theorem keep_chargeCells (h : Keep l a s) (hl : Covers l [.regs, .cellar]) : Keep l a (chargeCells b c d e s) := by
  unfold chargeCells
  repeat' first
    | with_reducible assumption | exact hl.mono rfl | with_reducible apply keep_notePeak
    | with_reducible apply keep_setCharge | split | with_reducible refine keep_fst (by assumption) ?_
    | with_reducible refine keep_snd (by assumption) ?_ | dsimp only
    | refine keep_mk (m := [.cellar]) rfl ?_ (hl.mono rfl)

theorem keep_returnCells (h : Keep l a s) (hl : Covers l [.cellar]) : Keep l a (returnCells b c d e s) := by
  unfold returnCells
  repeat' first
    | with_reducible assumption | exact hl.mono rfl | with_reducible apply keep_setCharge | split
    | with_reducible refine keep_fst (by assumption) ?_ | with_reducible refine keep_snd (by assumption) ?_
    | dsimp only | refine keep_mk (m := [.cellar]) rfl ?_ (hl.mono rfl)

theorem keep_setXoff (h : Keep l a s) (hl : Covers l [.cellar, .ports]) : Keep l a (setXoff b c d s) := by
  unfold setXoff
  repeat' first
    | with_reducible assumption | exact hl.mono rfl | with_reducible apply keep_modPort
    | with_reducible apply keep_setCharge | with_reducible apply keep_count | with_reducible apply keep_ite

theorem keep_wakeDue (h : Keep l a s) : Keep l a (wakeDue s) :=
  keep_foldl h fun _ _ hu => keep_ite (keep_setPort_awake hu rfl) hu

theorem keep_notePause (h : Keep l a s) (hl : Covers l [.ports]) : Keep l a (notePause b c s) := by
  unfold notePause
  repeat' first
    | with_reducible assumption | exact hl.mono rfl | with_reducible apply keep_modPort
    | with_reducible apply keep_ite

theorem keep_evalXoff (h : Keep l a s) (hl : Covers l [.cellar, .ports]) : Keep l a (evalXoff s) := by
  unfold evalXoff
  repeat' first
    | with_reducible assumption | exact hl.mono rfl | with_reducible apply keep_notePause
    | with_reducible apply keep_wakeDue | with_reducible apply keep_setXoff | with_reducible apply keep_foldl
    | dsimp only | (intro _; intros)

theorem keep_redueXoff (h : Keep l a s) (hl : Covers l [.ports]) : Keep l a (redueXoff b s) := by
  unfold redueXoff
  repeat' first
    | with_reducible assumption | exact hl.mono rfl | with_reducible apply keep_modPort
    | with_reducible apply keep_ite | with_reducible apply keep_foldl | split

theorem keep_setFrame (h : Keep l a s) (hl : Covers l [.cellar]) : Keep l a (setFrame b c s) := by
  unfold setFrame
  repeat' first
    | with_reducible assumption | exact hl.mono rfl | dsimp only
    | refine keep_mk (m := [.cellar]) rfl ?_ (hl.mono rfl)

theorem keep_freeFrame (h : Keep l a s) (hl : Covers l [.cellar]) : Keep l a (freeFrame b c s) := by
  unfold freeFrame
  repeat' first
    | with_reducible assumption | exact hl.mono rfl | with_reducible apply keep_returnCells | dsimp only
    | refine keep_mk (m := [.cellar]) rfl ?_ (hl.mono rfl)

theorem keep_dropRef (h : Keep l a s) (hl : Covers l [.cellar]) : Keep l a (dropRef b s) := by
  unfold dropRef
  repeat' first
    | with_reducible assumption | exact hl.mono rfl | with_reducible apply keep_setFrame
    | with_reducible apply keep_freeFrame | with_reducible apply keep_ite | split

theorem keep_discardRef (h : Keep l a s) (hl : Covers l [.cellar, .fabric, .pmu]) : Keep l a (discardRef b s) := by
  unfold discardRef
  repeat' first
    | with_reducible assumption | exact hl.mono rfl | with_reducible apply keep_endFrame
    | with_reducible apply keep_dropRef | with_reducible apply keep_ite

theorem keep_addRefs (h : Keep l a s) (hl : Covers l [.cellar]) : Keep l a (addRefs b c s) := by
  unfold addRefs
  repeat' first | with_reducible assumption | exact hl.mono rfl | with_reducible apply keep_setFrame | split

theorem keep_placeHold (h : Keep l a s) (hl : Covers l [.cellar]) : Keep l a (placeHold b s) := by
  unfold placeHold
  repeat' first
    | with_reducible assumption | exact hl.mono rfl | with_reducible apply keep_setCharge
    | with_reducible apply keep_count | split

theorem keep_endHold (h : Keep l a s) (hl : Covers l [.cellar]) : Keep l a (endHold b s) := by
  unfold endHold
  repeat' first | with_reducible assumption | exact hl.mono rfl | with_reducible apply keep_setCharge | split

theorem keep_startSpare (h : Keep l a s) (hl : Covers l [.cellar]) : Keep l a (startSpare b c s) := by
  unfold startSpare
  repeat' first
    | with_reducible assumption | exact hl.mono rfl | dsimp only
    | refine keep_mk (m := [.cellar]) rfl ?_ (hl.mono rfl)

theorem keep_noSpare (h : Keep l a s) (hl : Covers l [.regs, .cellar, .errors]) : Keep l a (noSpare b s) := by
  unfold noSpare
  repeat' first
    | with_reducible assumption | exact hl.mono rfl | with_reducible apply keep_postError | dsimp only
    | refine keep_mk (m := [.cellar]) rfl ?_ (hl.mono rfl)

theorem keep_autoSpare (h : Keep l a s) (hl : Covers l [.regs, .cellar, .errors]) : Keep l a (autoSpare b s) := by
  unfold autoSpare
  repeat' first
    | with_reducible assumption | exact hl.mono rfl | with_reducible apply keep_startSpare
    | with_reducible apply keep_noSpare | with_reducible apply keep_ite | split
    | with_reducible refine keep_fst (by assumption) ?_ | with_reducible refine keep_snd (by assumption) ?_
    | dsimp only | refine keep_mk (m := [.cellar]) rfl ?_ (hl.mono rfl)

theorem keep_noteCorrection (h : Keep l a s) (hl : Covers l [.cellar]) : Keep l a (noteCorrection b s) := by
  unfold noteCorrection
  repeat' first
    | with_reducible assumption | exact hl.mono rfl | dsimp only
    | refine keep_mk (m := [.cellar]) rfl ?_ (hl.mono rfl)

theorem keep_correctedBank (h : Keep l a s) (hl : Covers l [.regs, .cellar, .errors]) :
    Keep l a (correctedBank b s) := by
  unfold correctedBank
  repeat' first
    | with_reducible assumption | exact hl.mono rfl | with_reducible apply keep_fadd
    | with_reducible apply keep_corrected | with_reducible apply keep_autoSpare | with_reducible apply keep_fset
    | with_reducible apply keep_noteCorrection | with_reducible apply keep_ite

theorem keep_uncorrectableBank (h : Keep l a s) (hl : Covers l [.regs, .errors]) :
    Keep l a (uncorrectableBank b s) := by
  unfold uncorrectableBank
  repeat' first
    | with_reducible assumption | exact hl.mono rfl | with_reducible apply keep_postError
    | with_reducible apply keep_fset

theorem keep_unpoison (h : Keep l a s) (hl : Covers l [.cellar]) : Keep l a (unpoison b s) := by
  unfold unpoison
  repeat' first
    | with_reducible assumption | exact hl.mono rfl | dsimp only
    | refine keep_mk (m := [.cellar]) rfl ?_ (hl.mono rfl)

theorem keep_readCells (h : Keep l a s) (hl : Covers l [.regs, .cellar, .errors]) : Keep l a (readCells b s).1 := by
  unfold readCells
  repeat' first
    | with_reducible assumption | exact hl.mono rfl | with_reducible apply keep_uncorrectableBank
    | with_reducible apply keep_correctedBank | with_reducible apply keep_unpoison | with_reducible apply keep_foldl
    | split | with_reducible refine keep_fst (by assumption) ?_ | with_reducible refine keep_snd (by assumption) ?_
    | dsimp only | (intro _; intros)

/-! ### Machine/Gates.lean -/

theorem keep_countNofit (h : Keep l a s) : Keep l a (countNofit b c s) := by
  unfold countNofit
  repeat' first | with_reducible assumption | with_reducible apply keep_count

theorem keep_countOverrun (h : Keep l a s) (hl : Covers l [.regs]) : Keep l a (countOverrun b c s) := by
  unfold countOverrun
  repeat' first
    | with_reducible assumption | exact hl.mono rfl | with_reducible apply keep_fset | with_reducible apply keep_count

/-! ### Machine/Book.lean -/

theorem keep_modTx (h : Keep l a s) (hl : Covers l [.chans]) : Keep l a (modTx b c s) := by
  unfold modTx
  repeat' first | with_reducible assumption | exact hl.mono rfl | with_reducible apply keep_modChan

theorem keep_modRx (h : Keep l a s) (hl : Covers l [.chans]) : Keep l a (modRx b c s) := by
  unfold modRx
  repeat' first | with_reducible assumption | exact hl.mono rfl | with_reducible apply keep_modChan

theorem keep_flushIndex (h : Keep l a s) (hl : Covers l [.chans, .fabric]) : Keep l a (flushIndex b s) := by
  unfold flushIndex
  repeat' first
    | with_reducible assumption | exact hl.mono rfl | with_reducible apply keep_submitWrite
    | with_reducible apply keep_setChan | with_reducible apply keep_ite

theorem keep_markIndex (h : Keep l a s) (hl : Covers l [.chans, .fabric]) : Keep l a (markIndex b c s) := by
  unfold markIndex
  repeat' first
    | with_reducible assumption | exact hl.mono rfl | with_reducible apply keep_flushIndex
    | with_reducible apply keep_modChan

theorem keep_flushBook (h : Keep l a s) (hl : Covers l [.chans, .fabric]) : Keep l a (flushBook b s) := by
  unfold flushBook
  repeat' first
    | with_reducible assumption | exact hl.mono rfl | with_reducible apply keep_submitWrite
    | with_reducible apply keep_setChan | with_reducible apply keep_ite

theorem keep_setPoints (h : Keep l a s) (hl : Covers l [.chans, .book, .fabric, .aux, .power]) :
    Keep l a (setPoints b c s) := by
  unfold setPoints
  repeat' first
    | with_reducible assumption | exact hl.mono rfl | with_reducible apply keep_modChan
    | with_reducible apply keep_flushBook | with_reducible apply keep_ite | split
    | with_reducible refine keep_fst (by assumption) ?_ | with_reducible refine keep_snd (by assumption) ?_
    | dsimp only | refine keep_mk (m := [.book, .aux, .power]) rfl ?_ (hl.mono rfl)

theorem keep_readCons (h : Keep l a s) (hl : Covers l [.rings, .fabric]) : Keep l a (readCons b s) := by
  unfold readCons
  repeat' first
    | with_reducible assumption | exact hl.mono rfl | with_reducible apply keep_submitRead
    | with_reducible apply keep_modRing | with_reducible apply keep_ite

theorem keep_flushRing (h : Keep l a s) (hl : Covers l [.rings, .fabric]) : Keep l a (flushRing b s) := by
  unfold flushRing
  repeat' first
    | with_reducible assumption | exact hl.mono rfl | with_reducible apply keep_submitWrite
    | with_reducible apply keep_setRing | with_reducible apply keep_ite

theorem keep_ringEvent (h : Keep l a s) (hl : Covers l [.rings]) : Keep l a (ringEvent b s) := by
  unfold ringEvent
  repeat' first
    | with_reducible assumption | exact hl.mono rfl | with_reducible apply keep_setRing
    | with_reducible apply keep_addEvent

theorem keep_moderate (h : Keep l a s) (hl : Covers l [.rings]) : Keep l a (moderate b s) := by
  unfold moderate
  repeat' first
    | with_reducible assumption | exact hl.mono rfl | with_reducible apply keep_ringEvent
    | with_reducible apply keep_setRing | with_reducible apply keep_ite

theorem keep_writeEntry (h : Keep l a s) (hl : Covers l [.chans, .rings, .fabric]) :
    Keep l a (writeEntry b c d s) := by
  unfold writeEntry
  repeat' first
    | with_reducible assumption | exact hl.mono rfl | with_reducible apply keep_submitWrite
    | with_reducible apply keep_modTx | with_reducible apply keep_setRing | with_reducible apply keep_modRx
    | with_reducible apply keep_moderate | with_reducible apply keep_count | with_reducible apply keep_ite

theorem keep_setPlaceWait (h : Keep l a s) (hl : Covers l [.chans]) : Keep l a (setPlaceWait b c d s) := by
  unfold setPlaceWait
  repeat' first
    | with_reducible assumption | exact hl.mono rfl | with_reducible apply keep_modTx
    | with_reducible apply keep_modRx | with_reducible apply keep_ite

theorem keep_reservePlace (h : Keep l a s) (hl : Covers l [.chans, .rings, .book, .fabric]) :
    Keep l a (reservePlace b c d e s).2 := by
  unfold reservePlace
  repeat' first
    | with_reducible assumption | exact hl.mono rfl | with_reducible apply keep_readCons
    | with_reducible apply keep_setRing | with_reducible apply keep_setPlaceWait | with_reducible apply keep_snd_ite
    | with_reducible apply keep_ite | split | dsimp only | refine keep_mk (m := [.book]) rfl ?_ (hl.mono rfl)

theorem keep_rereadSeen (h : Keep l a s) (hl : Covers l [.chans]) : Keep l a (rereadSeen b s) :=
  keep_mk (m := [.chans]) rfl h hl (h2 := fun hc => canonical_trim hc.1 fun e => by dsimp only; split <;> rfl)

theorem keep_releasePlace (h : Keep l a s) (hl : Covers l [.rings, .book]) : Keep l a (releasePlace b c s) := by
  unfold releasePlace
  repeat' first
    | with_reducible assumption | exact hl.mono rfl | with_reducible apply keep_modRing | split
    | with_reducible refine keep_fst (by assumption) ?_ | with_reducible refine keep_snd (by assumption) ?_
    | dsimp only | refine keep_mk (m := [.book]) rfl ?_ (hl.mono rfl)

theorem keep_poolAdd (h : Keep l a s) (hl : Covers l [.rings, .book]) : Keep l a (poolAdd b c d e i s) := by
  unfold poolAdd
  repeat' first
    | with_reducible assumption | exact hl.mono rfl | with_reducible apply keep_releasePlace
    | with_reducible apply keep_count | with_reducible apply keep_ite | split | dsimp only
    | refine keep_mk (m := [.book]) rfl ?_ (hl.mono rfl)

theorem keep_finTags (h : Keep l a s) (hl : Covers l [.pmu]) : Keep l a (finTags b c d e s) := by
  unfold finTags
  repeat' first
    | with_reducible assumption | exact hl.mono rfl | with_reducible apply keep_ite | split | dsimp only
    | refine keep_mk (m := [.pmu]) rfl ?_ (hl.mono rfl)

theorem keep_commit (h : Keep l a s) (hl : Covers l [.chans, .rings, .book, .fabric]) :
    Keep l a (commit b c d e s) := by
  unfold commit
  repeat' first
    | with_reducible assumption | exact hl.mono rfl | with_reducible apply keep_readCons
    | with_reducible apply keep_poolAdd | with_reducible apply keep_writeEntry
    | with_reducible apply keep_releasePlace | with_reducible apply keep_ite

theorem keep_drainPoolFrom (h : Keep l a s) (hl : Covers l [.chans, .rings, .book, .fabric]) :
    Keep l a (drainPoolFrom b c d s) := by
  fun_induction drainPoolFrom b c d s with
  | case1 => exact keep_mk (m := [.book]) rfl h (hl.mono rfl)
  | case2 _ _ _ _ _ _ ih => exact ih (keep_writeEntry (keep_ite (keep_releasePlace h (hl.mono rfl)) h) (hl.mono rfl))
  | case3 _ _ _ _ _ ih => exact ih h

theorem keep_drainPool (h : Keep l a s) (hl : Covers l [.chans, .rings, .book, .fabric]) :
    Keep l a (drainPool b s) := by
  unfold drainPool
  repeat' first
    | with_reducible assumption | exact hl.mono rfl | with_reducible apply keep_modRing
    | with_reducible apply keep_drainPoolFrom | with_reducible apply keep_flushRing | with_reducible apply keep_ite

theorem keep_drainOrAsk (h : Keep l a s) (hl : Covers l [.chans, .rings, .book, .fabric]) :
    Keep l a (drainOrAsk b s) := by
  unfold drainOrAsk
  repeat' first
    | with_reducible assumption | exact hl.mono rfl | with_reducible apply keep_readCons
    | with_reducible apply keep_drainPool | with_reducible apply keep_ite

theorem keep_stallCheck (h : Keep l a s) (hl : Covers l [.rings, .fabric]) : Keep l a (stallCheck b s) := by
  unfold stallCheck
  repeat' first
    | with_reducible assumption | exact hl.mono rfl | with_reducible apply keep_ringEvent
    | with_reducible apply keep_modRing | with_reducible apply keep_flushRing | with_reducible apply keep_ite

theorem keep_ackDone (h : Keep l a s) (hl : Covers l [.chans, .fabric]) : Keep l a (ackDone b c d s) := by
  unfold ackDone
  repeat' first
    | with_reducible assumption | exact hl.mono rfl | with_reducible apply keep_modChan
    | with_reducible apply keep_setChan | with_reducible apply keep_markIndex | with_reducible apply keep_ite

theorem keep_dropMark (h : Keep l a s) (hl : Covers l [.chans]) : Keep l a (dropMark b c d s) := by
  unfold dropMark
  repeat' first
    | with_reducible assumption | exact hl.mono rfl | with_reducible apply keep_modTx
    | with_reducible apply keep_modRx | with_reducible apply keep_ite

theorem keep_unwriteRing (h : Keep l a s) (hl : Covers l [.chans, .rings, .book, .fabric]) :
    Keep l a (unwriteRing b c d s) := by
  induction d generalizing s with
  | zero => exact h
  | succ n ih =>
    unfold unwriteRing
    repeat' first
      | with_reducible apply ih | with_reducible assumption | exact hl.mono rfl | with_reducible apply keep_setRing
      | with_reducible apply keep_dropReq | with_reducible apply keep_dropMark | split
      | with_reducible refine keep_fst (by assumption) ?_ | with_reducible refine keep_snd (by assumption) ?_
      | dsimp only | refine keep_mk (m := [.book]) rfl ?_ (hl.mono rfl)

theorem keep_unwriteChan (h : Keep l a s) (hl : Covers l [.chans, .rings, .book, .fabric]) :
    Keep l a (unwriteChan b s) := by
  unfold unwriteChan
  repeat' first
    | with_reducible assumption | exact hl.mono rfl | with_reducible apply keep_unwriteRing
    | with_reducible apply keep_ite

theorem keep_unwriteAll (h : Keep l a s) (hl : Covers l [.chans, .rings, .book, .fabric]) :
    Keep l a (unwriteAll s) := by
  unfold unwriteAll
  repeat' first
    | with_reducible assumption | exact hl.mono rfl | with_reducible apply keep_unwriteRing
    | with_reducible apply keep_foldl | dsimp only | refine keep_mk (m := [.book]) rfl ?_ (hl.mono rfl)
    | (intro _; intros)

/-! ### Machine/Rounds.lean -/

theorem keep_syncChan (h : Keep l a s) (hl : Covers l [.ports]) : Keep l a (syncChan b s) := by
  unfold syncChan
  repeat' first
    | with_reducible assumption | exact hl.mono rfl | with_reducible apply keep_modPort
    | with_reducible apply keep_ite | with_reducible apply keep_foldl | split
    | with_reducible refine keep_fst (by assumption) ?_ | with_reducible refine keep_snd (by assumption) ?_
    | dsimp only | (intro _; intros)

theorem keep_setFwdQueue (h : Keep l a s) (hl : Covers l [.ports]) : Keep l a (setFwdQueue b c d s) := by
  unfold setFwdQueue
  repeat' first | with_reducible assumption | exact hl.mono rfl | with_reducible apply keep_modPort

end Sys2Proof.Machine
end

