-- ==== Sys2Proof/Laws/KeepChannels.lean ====
section
/-!
SUPPORT. What each operation keeps and changes (channels: commands, contexts, descriptors, chains, completions): the invariant
of the machine, and the parts outside the list that its lemma names.
-/

set_option Elab.async false

namespace Sys2Proof.Machine

variable {l : List Part} {a s t : State}

/-! ### Machine/Channels.lean -/

theorem keep_forgetWait (h : Keep l a s) (hl : Covers l [.chans]) : Keep l a (forgetWait b c s) := by
  unfold forgetWait
  repeat' first | with_reducible assumption | exact hl.mono rfl | with_reducible apply keep_modRx

theorem keep_dropWaiting (h : Keep l a s) (hl : Covers l [.chans, .cellar, .fabric, .pmu]) :
    Keep l a (dropWaiting b c d s) := by
  unfold dropWaiting
  repeat' first
    | with_reducible assumption | exact hl.mono rfl | with_reducible apply keep_forgetWait
    | with_reducible apply keep_discardRef | with_reducible apply keep_endHold | with_reducible apply keep_count
    | with_reducible apply keep_ite | split

theorem keep_dropQueued (h : Keep l a s) (hl : Covers l [.chans, .cellar, .fabric, .pmu]) :
    Keep l a (dropQueued b s) := by
  unfold dropQueued
  repeat' first
    | with_reducible assumption | exact hl.mono rfl | with_reducible apply keep_modRx
    | with_reducible apply keep_dropWaiting | with_reducible apply keep_foldl | dsimp only | (intro _; intros)

theorem keep_readTxProd (h : Keep l a s) (hl : Covers l [.chans, .fabric]) : Keep l a (readTxProd b c s) := by
  unfold readTxProd
  repeat' first
    | with_reducible assumption | exact hl.mono rfl | with_reducible apply keep_modTx
    | with_reducible apply keep_submitRead | with_reducible apply keep_count | with_reducible apply keep_ite

theorem keep_readRxProd (h : Keep l a s) (hl : Covers l [.chans, .fabric]) : Keep l a (readRxProd b s) := by
  unfold readRxProd
  repeat' first
    | with_reducible assumption | exact hl.mono rfl | with_reducible apply keep_submitRead
    | with_reducible apply keep_modRx | with_reducible apply keep_count | with_reducible apply keep_ite

theorem keep_fetchTx (h : Keep l a s) (hl : Covers l [.chans, .fabric]) : Keep l a (fetchTx b s) := by
  unfold fetchTx
  repeat' first
    | with_reducible assumption | exact hl.mono rfl | with_reducible apply keep_modTx
    | with_reducible apply keep_submitRead | with_reducible apply keep_ite

theorem keep_waitLimit (h : Keep l a s) (hl : Covers l [.chans, .cellar, .fabric, .pmu]) :
    Keep l a (waitLimit b c s) := by
  unfold waitLimit
  repeat' first
    | with_reducible assumption | exact hl.mono rfl | with_reducible apply keep_modRx
    | with_reducible apply keep_dropWaiting | with_reducible apply keep_placeHold | with_reducible apply keep_ite
    | split

theorem keep_zeroWait (h : Keep l a s) (hl : Covers l [.chans, .cellar, .fabric, .pmu]) :
    Keep l a (zeroWait b s) := by
  unfold zeroWait
  repeat' first
    | with_reducible assumption | exact hl.mono rfl | with_reducible apply keep_waitLimit
    | with_reducible apply keep_ite | with_reducible apply keep_foldl | split
    | with_reducible refine keep_fst (by assumption) ?_ | with_reducible refine keep_snd (by assumption) ?_
    | dsimp only | (intro _; intros)

theorem keep_fetchRx (h : Keep l a s) (hl : Covers l [.chans, .cellar, .fabric, .pmu]) : Keep l a (fetchRx b s) := by
  unfold fetchRx
  repeat' first
    | with_reducible assumption | exact hl.mono rfl | with_reducible apply keep_submitRead
    | with_reducible apply keep_modRx | with_reducible apply keep_zeroWait | with_reducible apply keep_ite | split
    | with_reducible refine keep_fst (by assumption) ?_ | with_reducible refine keep_snd (by assumption) ?_
    | dsimp only

theorem keep_discardFetches (h : Keep l a s) (hl : Covers l [.chans, .fabric, .pmu]) : Keep l a (discardFetches b s) := by
  unfold discardFetches
  repeat' first
    | with_reducible assumption | exact hl.mono rfl | with_reducible apply keep_endTags | with_reducible apply keep_modChan
    | with_reducible apply keep_discardReqs

theorem keep_fence (h : Keep l a s) (hl : Covers l [.regs, .chans, .rings, .cellar, .fabric, .errors, .pmu]) :
    Keep l a (fence b c d e s) := by
  unfold fence
  repeat' first
    | with_reducible assumption | exact hl.mono rfl | with_reducible apply keep_ringEvent
    | with_reducible apply keep_modChan | with_reducible apply keep_postError | with_reducible apply keep_discardReqs
    | with_reducible apply keep_dropQueued | with_reducible apply keep_count | with_reducible apply keep_ite

theorem keep_fenceRing (h : Keep l a s) (hl : Covers l [.regs, .chans, .rings, .cellar, .fabric, .errors, .pmu]) :
    Keep l a (fenceRing b c s) := by
  unfold fenceRing
  repeat' first
    | with_reducible assumption | exact hl.mono rfl | with_reducible apply keep_fence | with_reducible apply keep_ite
    | with_reducible apply keep_foldl | split | dsimp only | (intro _; intros)

theorem keep_modLog (h : Keep l a s) (hl : Covers l [.chans]) : Keep l a (modLog b c s) := by
  unfold modLog
  repeat' first | with_reducible assumption | exact hl.mono rfl | with_reducible apply keep_modChan

theorem keep_readLogCons (h : Keep l a s) (hl : Covers l [.chans, .fabric]) : Keep l a (readLogCons b s) := by
  unfold readLogCons
  repeat' first
    | with_reducible assumption | exact hl.mono rfl | with_reducible apply keep_modLog
    | with_reducible apply keep_submitRead | with_reducible apply keep_ite

theorem keep_reserveLog (h : Keep l a s) (hl : Covers l [.regs, .chans, .fabric]) :
    Keep l a (reserveLog b c d e s).2 := by
  unfold reserveLog
  repeat' first
    | with_reducible assumption | exact hl.mono rfl | with_reducible apply keep_fadd
    | with_reducible apply keep_setChan | with_reducible apply keep_readLogCons | with_reducible apply keep_count
    | with_reducible apply keep_snd_ite | with_reducible apply keep_ite

theorem keep_writeLog (h : Keep l a s) (hl : Covers l [.chans, .fabric]) : Keep l a (writeLog b c d s) := by
  unfold writeLog
  repeat' first
    | with_reducible assumption | exact hl.mono rfl | with_reducible apply keep_submitWrite
    | with_reducible apply keep_modLog | with_reducible apply keep_count

theorem keep_writeLogs (h : Keep l a s) (hl : Covers l [.chans, .fabric]) : Keep l a (writeLogs b c d e s) := by
  unfold writeLogs
  repeat' first
    | with_reducible assumption | exact hl.mono rfl | with_reducible apply keep_modLog
    | with_reducible apply keep_writeLog | with_reducible apply keep_ite | with_reducible apply keep_foldl | split
    | dsimp only | (intro _; intros)

theorem keep_flushLogProd (h : Keep l a s) (hl : Covers l [.chans, .fabric]) : Keep l a (flushLogProd b c s) := by
  unfold flushLogProd
  repeat' first
    | with_reducible assumption | exact hl.mono rfl | with_reducible apply keep_submitWrite
    | with_reducible apply keep_modLog | with_reducible apply keep_ite

theorem keep_modChain (h : Keep l a s) (hl : Covers l [.chans]) : Keep l a (modChain b c d s) := by
  unfold modChain
  repeat' first | with_reducible assumption | exact hl.mono rfl | with_reducible apply keep_modTx

theorem keep_readFrags (h : Keep l a s) (hl : Covers l [.fabric]) : Keep l a (readFrags b c d e i s) := by
  fun_induction readFrags b c d e i s <;> repeat' first
    | with_reducible apply_assumption | with_reducible assumption | exact hl.mono rfl
    | with_reducible apply keep_submitRead

theorem keep_rereadDescs (h : Keep l a s) (hl : Covers l [.fabric]) : Keep l a (rereadDescs b c d e i s) := by
  fun_induction rereadDescs b c d e i s <;> repeat' first
    | with_reducible apply_assumption | with_reducible assumption | exact hl.mono rfl
    | with_reducible apply keep_submitRead

theorem keep_readChain (h : Keep l a s) (hl : Covers l [.chans, .fabric]) : Keep l a (readChain b c s) := by
  unfold readChain
  repeat' first
    | with_reducible assumption | exact hl.mono rfl | with_reducible apply keep_readFrags
    | with_reducible apply keep_modChain

theorem keep_startStaging (h : Keep l a s) (hl : Covers l [.chans, .cellar, .fabric]) :
    Keep l a (startStaging b c s) := by
  unfold startStaging
  repeat' first
    | with_reducible assumption | exact hl.mono rfl | with_reducible apply keep_readChain
    | with_reducible apply keep_modChain | dsimp only | refine keep_mk (m := [.cellar]) rfl ?_ (hl.mono rfl)

theorem keep_enqueueStage (h : Keep l a s) (hl : Covers l [.chans, .cellar, .fabric]) :
    Keep l a (enqueueStage b s) := by
  unfold enqueueStage
  repeat' first
    | with_reducible assumption | exact hl.mono rfl | with_reducible apply keep_startStaging
    | with_reducible apply keep_count | with_reducible apply keep_ite | split
    | with_reducible refine keep_fst (by assumption) ?_ | with_reducible refine keep_snd (by assumption) ?_
    | dsimp only | refine keep_mk (m := [.cellar]) rfl ?_ (hl.mono rfl)

theorem keep_forgetCopies (h : Keep l a s) (hl : Covers l [.presses]) : Keep l a (forgetCopies b c s) :=
  keep_mk (m := [.presses]) rfl h hl

theorem keep_removeChain (h : Keep l a s) (hl : Covers l [.chans, .cellar, .ports, .presses, .fabric, .pmu]) :
    Keep l a (removeChain b c s) := by
  unfold removeChain
  repeat' first
    | with_reducible assumption | exact hl.mono rfl | with_reducible apply keep_forgetCopies
    | with_reducible apply keep_modTx | with_reducible apply keep_syncChan | with_reducible apply keep_discardReqs
    | with_reducible apply keep_discardRef | with_reducible apply keep_foldl | split
    | with_reducible refine keep_fst (by assumption) ?_ | with_reducible refine keep_snd (by assumption) ?_
    | dsimp only | refine keep_mk (m := [.cellar]) rfl ?_ (hl.mono rfl) | (intro _; intros)

theorem keep_settleChain (h : Keep l a s) (hl : Covers l [.chans, .rings, .book, .cellar, .ports, .presses, .fabric, .aux, .power, .pmu]) :
    Keep l a (settleChain b c d e s) := by
  unfold settleChain
  repeat' first
    | with_reducible assumption | exact hl.mono rfl | with_reducible apply keep_commit
    | with_reducible apply keep_removeChain | with_reducible apply keep_finTags | with_reducible apply keep_setPoints

theorem keep_headFit (h : Keep l a s) (hl : Covers l [.regs, .chans, .ports]) : Keep l a (headFit b s) := by
  unfold headFit
  repeat' first
    | with_reducible assumption | exact hl.mono rfl | with_reducible apply keep_syncChan
    | with_reducible apply keep_countNofit | with_reducible apply keep_modChain | with_reducible apply keep_fset
    | with_reducible apply keep_ite | with_reducible apply keep_foldl | split
    | with_reducible refine keep_fst (by assumption) ?_ | with_reducible refine keep_snd (by assumption) ?_
    | dsimp only | (intro _; intros)

theorem keep_settleHeads (h : Keep l a s) (hl : Covers l [.regs, .chans, .rings, .book, .cellar, .ports, .presses, .fabric, .aux, .power, .pmu]) :
    Keep l a (settleHeads b c s) := by
  induction c generalizing s with
  | zero => exact keep_headFit h (hl.mono rfl)
  | succ n ih =>
    unfold settleHeads
    have h1 := keep_headFit (b := b) h (hl.mono rfl)
    generalize headFit b s = u at h1 ⊢
    dsimp only
    split
    · exact h1
    · split
      · split
        · exact keep_snd ‹_› (keep_reservePlace h1 (hl.mono rfl))
        · exact ih (keep_settleChain (keep_snd ‹_› (keep_reservePlace h1 (hl.mono rfl))) (hl.mono rfl))
      · exact h1

theorem keep_writeBack (h : Keep l a s) (hl : Covers l [.chans, .fabric]) : Keep l a (writeBack b s) := by
  unfold writeBack
  repeat' first
    | with_reducible assumption | exact hl.mono rfl | with_reducible apply keep_submitWrite
    | with_reducible apply keep_setChan | with_reducible apply keep_ite

theorem keep_drainSave (h : Keep l a s) (hl : Covers l [.chans, .fabric]) : Keep l a (drainSave b s) := by
  unfold drainSave
  repeat' first
    | with_reducible assumption | exact hl.mono rfl | with_reducible apply keep_submitWrite
    | with_reducible apply keep_setChan | with_reducible apply keep_ite

theorem keep_stopCheck (h : Keep l a s) (hl : Covers l [.chans, .fabric]) : Keep l a (stopCheck b s) := by
  unfold stopCheck
  repeat' first
    | with_reducible assumption | exact hl.mono rfl | with_reducible apply keep_drainSave
    | with_reducible apply keep_writeBack | with_reducible apply keep_ite | split

theorem keep_advance (h : Keep l a s) (hl : Covers l [.regs, .chans, .rings, .book, .cellar, .ports, .presses, .fabric, .aux, .power, .pmu]) :
    Keep l a (advance b s) := by
  unfold advance
  repeat' first
    | with_reducible assumption | exact hl.mono rfl | with_reducible apply keep_settleHeads
    | with_reducible apply keep_fetchTx | with_reducible apply keep_fetchRx | with_reducible apply keep_enqueueStage
    | with_reducible apply keep_stopCheck

theorem keep_queueFrame (h : Keep l a s) (hl : Covers l [.regs, .chans, .cellar, .fabric, .pmu]) :
    Keep l a (queueFrame b c d s) := by
  unfold queueFrame
  repeat' first
    | with_reducible assumption | exact hl.mono rfl | with_reducible apply keep_modRx
    | with_reducible apply keep_dropWaiting | with_reducible apply keep_discardRef | with_reducible apply keep_fetchRx
    | with_reducible apply keep_fset | with_reducible apply keep_count | with_reducible apply keep_ite | split

theorem keep_writeBufs (h : Keep l a s) (hl : Covers l [.fabric]) : Keep l a (writeBufs b c d e s).1 := by
  fun_induction writeBufs b c d e s <;> repeat' first
    | with_reducible apply_assumption | with_reducible assumption | exact hl.mono rfl
    | with_reducible apply keep_submitData

theorem keep_rewriteAssigned (h : Keep l a s) (hl : Covers l [.chans, .fabric]) : Keep l a (rewriteAssigned b s) := by
  unfold rewriteAssigned
  repeat' first
    | with_reducible assumption | exact hl.mono rfl | with_reducible apply keep_writeBufs
    | with_reducible apply keep_modRx | with_reducible apply keep_ite | with_reducible apply keep_foldl | split
    | with_reducible refine keep_fst (by assumption) ?_ | with_reducible refine keep_snd (by assumption) ?_
    | dsimp only | (intro _; intros)

theorem keep_deliverHeads (h : Keep l a s) (hl : Covers l [.chans, .rings, .book, .cellar, .fabric, .aux, .power, .pmu]) :
    Keep l a (deliverHeads b c s) := by
  induction c generalizing s with
  | zero => exact h
  | succ n ih =>
    rw [deliverHeads]
    extract_lets
    split
    · exact h
    · split
      · exact h
      · exact ih (keep_dropRef (keep_writeLogs (keep_setPoints (keep_commit (keep_finTags
          (keep_setChan h (hl.mono rfl)) (hl.mono rfl)) (hl.mono rfl)) (hl.mono rfl)) (hl.mono rfl)) (hl.mono rfl))

theorem keep_deliver (h : Keep l a s) (hl : Covers l [.chans, .rings, .book, .cellar, .fabric, .aux, .power, .pmu]) :
    Keep l a (deliver b s) := by
  unfold deliver
  repeat' first
    | with_reducible assumption | exact hl.mono rfl | with_reducible apply keep_deliverHeads
    | with_reducible apply keep_fetchTx | with_reducible apply keep_stopCheck

theorem keep_assignFrame (h : Keep l a s) (hl : Covers l [.regs, .chans, .rings, .book, .cellar, .fabric, .aux, .power, .errors, .pmu, .serial]) :
    Keep l a (assignFrame b c d e i j k s) := by
  unfold assignFrame
  repeat' first
    | with_reducible assumption | exact hl.mono rfl | with_reducible apply keep_writeBufs
    | with_reducible apply keep_fence | with_reducible apply keep_modRx | with_reducible apply keep_fetchRx
    | with_reducible apply keep_endHold | with_reducible apply keep_deliver | with_reducible apply keep_markIndex
    | with_reducible apply keep_count | with_reducible apply keep_ite | split
    | with_reducible refine keep_fst (by assumption) ?_ | with_reducible refine keep_snd (by assumption) ?_
    | dsimp only | refine keep_mk (m := [.serial]) rfl ?_ (hl.mono rfl)

/-! ### Machine/Start.lean -/

theorem keep_mirrorFault (h : Keep l a s) (hl : Covers l [.regs, .book, .errors]) : Keep l a (mirrorFault s) := by
  unfold mirrorFault
  have h1 : Keep l a (fset AUX_BOOK_STAT.mirror_fault 1 s) := keep_fset h (hl.mono rfl)
  generalize fset AUX_BOOK_STAT.mirror_fault 1 s = u at h1
  exact keep_ite (keep_postError (keep_mk (m := [.book]) rfl h1 (hl.mono rfl)) (hl.mono rfl))
    (keep_postError (keep_mk (m := [.book]) rfl h1 (hl.mono rfl)) (hl.mono rfl))

theorem keep_readBook (h : Keep l a s) (hl : Covers l [.regs, .book, .errors]) : Keep l a (readBook b s) := by
  unfold readBook
  repeat' first
    | with_reducible assumption | exact hl.mono rfl | with_reducible apply keep_mirrorFault
    | with_reducible apply keep_corrected | split

theorem keep_rejectCmd (h : Keep l a s) (hl : Covers l [.chans]) : Keep l a (rejectCmd b s) := by
  unfold rejectCmd
  repeat' first | with_reducible assumption | exact hl.mono rfl | with_reducible apply keep_modChan

theorem keep_rejectStart (h : Keep l a s) (hl : Covers l [.chans, .fabric]) : Keep l a (rejectStart b s) := by
  unfold rejectStart
  repeat' first
    | with_reducible assumption | exact hl.mono rfl | with_reducible apply keep_flushIndex | with_reducible apply keep_flushBook | with_reducible apply keep_modChan
    | with_reducible apply keep_discardReqs

theorem keep_faultStart (h : Keep l a s) (hl : Covers l [.regs, .chans, .fabric]) : Keep l a (faultStart b s) := by
  unfold faultStart
  repeat' first
    | with_reducible assumption | exact hl.mono rfl | with_reducible apply keep_rejectStart
    | with_reducible apply keep_fset

theorem keep_startCmd (h : Keep l a s) (hl : Covers l [.regs, .chans, .book, .fabric, .errors]) :
    Keep l a (startCmd b c d s) := by
  unfold startCmd
  repeat' first
    | with_reducible assumption | exact hl.mono rfl | with_reducible apply keep_rejectCmd
    | with_reducible apply keep_fadd | with_reducible apply keep_submitRead | with_reducible apply keep_setChan
    | with_reducible apply keep_readBook | with_reducible apply keep_ite

theorem keep_startWrites (h : Keep l a s) (hl : Covers l [.fabric]) : Keep l a (startWrites b c d e i s) := by
  unfold startWrites
  repeat' first | with_reducible assumption | exact hl.mono rfl | with_reducible apply keep_submitWrite

theorem keep_startReport (h : Keep l a s) (hl : Covers l [.chans, .fabric]) : Keep l a (startReport b c d s) := by
  unfold startReport
  repeat' first
    | with_reducible assumption | exact hl.mono rfl | with_reducible apply keep_modChan
    | with_reducible apply keep_startWrites | with_reducible apply keep_ite

theorem keep_startRingKnown (h : Keep l a s) (hl : Covers l [.chans, .fabric]) : Keep l a (startRingKnown b c s) := by
  unfold startRingKnown
  repeat' first
    | with_reducible assumption | exact hl.mono rfl | with_reducible apply keep_count | with_reducible apply keep_submitRead
    | with_reducible apply keep_modChan | with_reducible apply keep_rejectStart
    | with_reducible apply keep_startReport | with_reducible apply keep_ite

theorem keep_readRingCtx (h : Keep l a s) (hl : Covers l [.fabric]) : Keep l a (readRingCtx b c s) := by
  unfold readRingCtx
  repeat' first
    | with_reducible assumption | exact hl.mono rfl | with_reducible apply keep_submitRead
    | with_reducible apply keep_ite

theorem keep_ringSettled (h : Keep l a s) (hl : Covers l [.chans, .fabric]) : Keep l a (ringSettled b s) := by
  unfold ringSettled
  repeat' first
    | with_reducible assumption | exact hl.mono rfl | with_reducible apply keep_startRingKnown
    | with_reducible apply keep_readRingCtx | with_reducible apply keep_ite | with_reducible apply keep_foldl | split
    | with_reducible refine keep_fst (by assumption) ?_ | with_reducible refine keep_snd (by assumption) ?_
    | dsimp only | (intro _; intros)

theorem keep_chanCtxDone (h : Keep l a s) (hl : Covers l [.chans, .fabric]) : Keep l a (chanCtxDone b c s) := by
  unfold chanCtxDone
  repeat' first
    | with_reducible assumption | exact hl.mono rfl | with_reducible apply keep_startRingKnown
    | with_reducible apply keep_readRingCtx | with_reducible apply keep_setChan
    | with_reducible apply keep_rejectStart | with_reducible apply keep_ite | split
    | with_reducible refine keep_fst (by assumption) ?_ | with_reducible refine keep_snd (by assumption) ?_
    | dsimp only

theorem keep_cringCtxDone (h : Keep l a s) (hl : Covers l [.chans, .rings, .fabric]) :
    Keep l a (cringCtxDone b c d s) := by
  unfold cringCtxDone
  repeat' first
    | with_reducible assumption | exact hl.mono rfl | with_reducible apply keep_startRingKnown
    | with_reducible apply keep_modRing | with_reducible apply keep_ite | split

theorem keep_startIndexDone (h : Keep l a s) (hl : Covers l [.chans, .fabric]) : Keep l a (startIndexDone b c s) := by
  unfold startIndexDone
  repeat' first | with_reducible assumption | exact hl.mono rfl | with_reducible apply keep_startReport | split

theorem keep_enterRunning (h : Keep l a s) (hl : Covers l [.regs, .chans, .rings, .book, .cellar, .fabric, .aux, .power, .errors, .pmu]) :
    Keep l a (enterRunning b c s) := by
  unfold enterRunning
  extract_lets ch n p taken txDone rxDone cv t r lg s1 s2 ax s3 s4
  have h1 : Keep l a s1 := keep_setChan h (hl.mono rfl)
  have h2 : Keep l a s2 := keep_modRing (keep_setPoints h1 (hl.mono rfl)) (hl.mono rfl)
  have h3 : Keep l a s3 := keep_ite (keep_mk (m := [.aux]) rfl h2 (hl.mono rfl)) h2
  have h4 : Keep l a s4 := keep_readRxProd (keep_readTxProd (keep_rewriteAssigned (keep_drainOrAsk
    (keep_flushBook (keep_flushIndex h3 (hl.mono rfl)) (hl.mono rfl)) (hl.mono rfl)) (hl.mono rfl))
    (hl.mono rfl)) (hl.mono rfl)
  exact keep_ite (keep_fenceRing h4 (hl.mono rfl)) h4

theorem keep_startWriteDone (h : Keep l a s) (hl : Covers l [.regs, .chans, .rings, .book, .cellar, .fabric, .aux, .power, .errors, .pmu]) :
    Keep l a (startWriteDone b s) := by
  unfold startWriteDone
  split
  · exact h
  · exact keep_ite h (keep_enterRunning h (hl.mono rfl))

theorem keep_stopCmd (h : Keep l a s) (hl : Covers l [.regs, .chans, .rings, .book, .cellar, .ports, .presses, .fabric, .aux, .power, .pmu]) :
    Keep l a (stopCmd b s) := by
  unfold stopCmd
  repeat' first
    | with_reducible assumption | exact hl.mono rfl | with_reducible apply keep_rejectCmd
    | with_reducible apply keep_advance | with_reducible apply keep_modChan | with_reducible apply keep_dropQueued
    | with_reducible apply keep_discardFetches | with_reducible apply keep_ite

theorem keep_discardChain (h : Keep l a s) (hl : Covers l [.chans, .rings, .book, .cellar, .ports, .presses, .fabric, .aux, .power, .pmu]) :
    Keep l a (discardChain b c s) := by
  unfold discardChain
  repeat' first
    | with_reducible assumption | exact hl.mono rfl | with_reducible apply keep_modTx
    | with_reducible apply keep_removeChain | with_reducible apply keep_setPoints | with_reducible apply keep_endTags
    | with_reducible apply keep_markIndex | with_reducible apply keep_releasePlace | with_reducible apply keep_ite
    | with_reducible apply keep_foldl | split | dsimp only | (intro _; intros)

theorem keep_discardUnlaunched (h : Keep l a s) (hl : Covers l [.chans, .rings, .book, .cellar, .ports, .presses, .fabric, .aux, .power, .pmu]) :
    Keep l a (discardUnlaunched b s) := by
  unfold discardUnlaunched
  repeat' first
    | with_reducible assumption | exact hl.mono rfl | with_reducible apply keep_discardChain | with_reducible apply keep_modTx
    | with_reducible apply keep_removeChain | with_reducible apply keep_setPoints
    | with_reducible apply keep_markIndex | with_reducible apply keep_releasePlace | with_reducible apply keep_ite
    | with_reducible apply keep_foldl | split | dsimp only | (intro _; intros)

theorem keep_resetCmd (h : Keep l a s) (hl : Covers l [.chans, .rings, .book, .cellar, .ports, .presses, .fabric, .aux, .power, .pmu]) :
    Keep l a (resetCmd b s) := by
  unfold resetCmd
  repeat' first
    | with_reducible assumption | exact hl.mono rfl | with_reducible apply keep_rejectCmd
    | with_reducible apply keep_modChan | with_reducible apply keep_discardUnlaunched
    | with_reducible apply keep_dropQueued | with_reducible apply keep_discardFetches
    | with_reducible apply keep_stopCheck | with_reducible apply keep_ite

theorem keep_chnCommand (h : Keep l a s) (hl : Covers l [.regs, .chans, .rings, .book, .cellar, .ports, .presses, .fabric, .aux, .power, .errors, .pmu]) :
    Keep l a (chnCommand b c s) := by
  unfold chnCommand
  repeat' first
    | with_reducible assumption | exact hl.mono rfl | with_reducible apply keep_rejectCmd
    | with_reducible apply keep_resetCmd | with_reducible apply keep_startCmd | with_reducible apply keep_stopCmd
    | with_reducible apply keep_ite | split

theorem keep_invalAccess (h : Keep l a s) (hl : Covers l [.fabric]) : Keep l a (invalAccess b s) := by
  unfold invalAccess
  repeat' first
    | with_reducible assumption | exact hl.mono rfl | dsimp only
    | refine keep_mk (m := [.fabric]) rfl ?_ (hl.mono rfl)

theorem keep_invalDone (h : Keep l a s) (hl : Covers l [.fabric]) : Keep l a (invalDone s) := by
  unfold invalDone
  repeat' first
    | with_reducible assumption | exact hl.mono rfl | dsimp only
    | refine keep_mk (m := [.fabric]) rfl ?_ (hl.mono rfl)

theorem keep_invalFail (h : Keep l a s) (hl : Covers l [.regs, .fabric]) : Keep l a (invalFail s) := by
  unfold invalFail
  repeat' first
    | with_reducible assumption | exact hl.mono rfl | with_reducible apply keep_fset
    | with_reducible apply keep_invalDone

theorem keep_invalChannel (h : Keep l a s) (hl : Covers l [.fabric]) : Keep l a (invalChannel b s) := by
  unfold invalChannel
  repeat' first
    | with_reducible assumption | exact hl.mono rfl | with_reducible apply keep_submitRead
    | with_reducible apply keep_invalAccess | with_reducible apply keep_ite

theorem keep_invalCring (h : Keep l a s) (hl : Covers l [.fabric]) : Keep l a (invalCring b s) := by
  unfold invalCring
  repeat' first
    | with_reducible assumption | exact hl.mono rfl | with_reducible apply keep_submitRead
    | with_reducible apply keep_invalAccess

theorem keep_ringReset (h : Keep l a s) (hl : Covers l [.rings, .fabric]) : Keep l a (ringReset b s) := by
  unfold ringReset
  repeat' first
    | with_reducible assumption | exact hl.mono rfl | with_reducible apply keep_submitWrite
    | with_reducible apply keep_invalCring | with_reducible apply keep_modRing | with_reducible apply keep_discardReqs
    | with_reducible apply keep_invalAccess | with_reducible apply keep_ite

theorem keep_ctxInval (h : Keep l a s) (hl : Covers l [.rings, .fabric]) : Keep l a (ctxInval b c d s) := by
  unfold ctxInval
  repeat' first
    | with_reducible assumption | exact hl.mono rfl | with_reducible apply keep_invalCring
    | with_reducible apply keep_ringReset | with_reducible apply keep_invalChannel | with_reducible apply keep_ite

theorem keep_liveChanDone (h : Keep l a s) (hl : Covers l [.chans, .ports, .fabric]) :
    Keep l a (liveChanDone b c s) := by
  unfold liveChanDone
  repeat' first
    | with_reducible assumption | exact hl.mono rfl | with_reducible apply keep_syncChan
    | with_reducible apply keep_setChan | with_reducible apply keep_invalDone | with_reducible apply keep_ite

theorem keep_liveCringDone (h : Keep l a s) (hl : Covers l [.rings, .fabric]) : Keep l a (liveCringDone b c s) := by
  unfold liveCringDone
  repeat' first
    | with_reducible assumption | exact hl.mono rfl | with_reducible apply keep_modRing
    | with_reducible apply keep_invalDone

theorem keep_ringResetWritten (h : Keep l a s) (hl : Covers l [.regs, .fabric]) :
    Keep l a (ringResetWritten b s) := by
  unfold ringResetWritten
  repeat' first
    | with_reducible assumption | exact hl.mono rfl | with_reducible apply keep_invalFail
    | with_reducible apply keep_invalDone | with_reducible apply keep_ite

/-! ### Machine/Deal.lean -/

theorem keep_restartWindow (h : Keep l a s) (hl : Covers l [.presses]) : Keep l a (restartWindow b s) := by
  unfold restartWindow
  repeat' first | with_reducible assumption | exact hl.mono rfl | with_reducible apply keep_modPress

theorem keep_setDiv (h : Keep l a s) (hl : Covers l [.regs, .presses]) : Keep l a (setDiv b c s) := by
  unfold setDiv
  repeat' first
    | with_reducible assumption | exact hl.mono rfl | with_reducible apply keep_fadd
    | with_reducible apply keep_restartWindow | with_reducible apply keep_modPress | with_reducible apply keep_count
    | with_reducible apply keep_ite

theorem keep_applyDivs (h : Keep l a s) (hl : Covers l [.regs, .presses]) : Keep l a (applyDivs s) := by
  unfold applyDivs
  repeat' first
    | with_reducible assumption | exact hl.mono rfl | with_reducible apply keep_setDiv
    | with_reducible apply keep_foldl | split | with_reducible refine keep_fst (by assumption) ?_
    | with_reducible refine keep_snd (by assumption) ?_ | dsimp only | (intro _; intros)

theorem keep_triggerUp (h : Keep l a s) (hl : Covers l [.regs, .presses]) : Keep l a (triggerUp b c s) := by
  unfold triggerUp
  repeat' first
    | with_reducible assumption | exact hl.mono rfl | with_reducible apply keep_fset
    | with_reducible apply keep_setPress | with_reducible apply keep_ite

theorem keep_backlogCheck (h : Keep l a s) (hl : Covers l [.regs, .presses]) : Keep l a (backlogCheck b s) := by
  unfold backlogCheck
  repeat' first
    | with_reducible assumption | exact hl.mono rfl | with_reducible apply keep_triggerUp
    | with_reducible apply keep_ite

theorem keep_enqueueCopy (h : Keep l a s) (hl : Covers l [.regs, .presses]) : Keep l a (enqueueCopy b c d e s) := by
  unfold enqueueCopy
  repeat' first
    | with_reducible assumption | exact hl.mono rfl | with_reducible apply keep_modPress
    | with_reducible apply keep_backlogCheck

theorem keep_refreshLanes (h : Keep l a s) (hl : Covers l [.presses]) : Keep l a (refreshLanes b s) := by
  unfold refreshLanes
  repeat' first
    | with_reducible assumption | exact hl.mono rfl | with_reducible apply keep_modPress
    | with_reducible apply keep_ite

theorem keep_itemDealt (h : Keep l a s) (hl : Covers l [.chans]) : Keep l a (itemDealt b s) := by
  unfold itemDealt
  repeat' first | with_reducible assumption | exact hl.mono rfl | with_reducible apply keep_modChain | split

theorem keep_countDealt (h : Keep l a s) : Keep l a (countDealt b c d s) := by
  unfold countDealt
  repeat' first | with_reducible assumption | with_reducible apply keep_count

theorem keep_dealOne (h : Keep l a s) (hl : Covers l [.regs, .chans, .presses]) : Keep l a (dealOne b c d s) := by
  unfold dealOne
  repeat' first
    | with_reducible assumption | exact hl.mono rfl | with_reducible apply keep_countDealt
    | with_reducible apply keep_itemDealt | with_reducible apply keep_fset | with_reducible apply keep_setPress
    | with_reducible apply keep_ite

theorem keep_dealCopies (h : Keep l a s) (hl : Covers l [.regs, .chans, .presses]) : Keep l a (dealCopies b c s) := by
  induction c generalizing s with
  | zero => exact h
  | succ n ih =>
    unfold dealCopies
    repeat' first
      | with_reducible apply ih | with_reducible assumption | exact hl.mono rfl | with_reducible apply keep_dealOne
      | with_reducible apply keep_ite | split | with_reducible refine keep_fst (by assumption) ?_
      | with_reducible refine keep_snd (by assumption) ?_ | dsimp only

theorem keep_modCopy (h : Keep l a s) (hl : Covers l [.presses]) : Keep l a (modCopy b c d s) := by
  unfold modCopy
  repeat' first | with_reducible assumption | exact hl.mono rfl | with_reducible apply keep_modPress

theorem keep_discardResult (h : Keep l a s) (hl : Covers l [.presses]) : Keep l a (discardResult b c s) := by
  unfold discardResult
  repeat' first | with_reducible assumption | exact hl.mono rfl | with_reducible apply keep_modPress

theorem keep_slotDiscarded (h : Keep l a s) (hl : Covers l [.presses, .pmu]) : Keep l a (slotDiscarded b c s) := by
  unfold slotDiscarded
  repeat' first
    | with_reducible assumption | exact hl.mono rfl | with_reducible apply keep_modPress | with_reducible apply keep_addCount
    | with_reducible apply keep_setCounter | with_reducible apply keep_count | with_reducible apply keep_ite

theorem keep_lateResult (h : Keep l a s) (hl : Covers l [.presses, .pmu]) : Keep l a (lateResult b c d s) := by
  unfold lateResult
  repeat' first
    | with_reducible assumption | exact hl.mono rfl | with_reducible apply keep_setPress
    | with_reducible apply keep_slotDiscarded | with_reducible apply keep_ite | split
    | with_reducible refine keep_fst (by assumption) ?_ | with_reducible refine keep_snd (by assumption) ?_
    | dsimp only

/-! ### Machine/Work.lean -/

theorem keep_txProdDone (h : Keep l a s) (hl : Covers l [.regs, .chans, .rings, .cellar, .fabric, .errors, .pmu]) :
    Keep l a (txProdDone b c s) := by
  unfold txProdDone
  extract_lets ch t size s1 reads s2
  have h1 : Keep l a s1 := keep_setChan h (hl.mono rfl)
  have h2 : Keep l a s2 := keep_setChan h1 (hl.mono rfl)
  clear_value s1 s2
  exact keep_ite (keep_fence h1 (hl.mono rfl)) (keep_ite (keep_fence h1 (hl.mono rfl))
    (keep_fetchTx (keep_ite (keep_readTxProd h2 (hl.mono rfl)) h2) (hl.mono rfl)))

theorem keep_rxProdDone (h : Keep l a s) (hl : Covers l [.regs, .chans, .rings, .cellar, .fabric, .errors, .pmu]) :
    Keep l a (rxProdDone b c s) := by
  unfold rxProdDone
  repeat' first
    | with_reducible assumption | exact hl.mono rfl | with_reducible apply keep_readRxProd
    | with_reducible apply keep_setChan | with_reducible apply keep_fence | with_reducible apply keep_fetchRx
    | with_reducible apply keep_ite

theorem keep_fetchFail (h : Keep l a s) (hl : Covers l [.regs, .chans, .rings, .cellar, .fabric, .errors, .pmu]) :
    Keep l a (fetchFail b c s) := by
  unfold fetchFail
  repeat' first | with_reducible assumption | exact hl.mono rfl | with_reducible apply keep_fence

theorem keep_retag (h : Keep l a s) : Keep l a (retag b c s) := h.quiet (p := .pmu) rfl id fun _ => ⟨rfl, fun _ => rfl⟩

theorem keep_acceptChain (h : Keep l a s) (hl : Covers l [.chans, .book, .fabric, .aux, .power]) :
    Keep l a (acceptChain b c d s) := by
  unfold acceptChain
  repeat' first
    | with_reducible assumption | exact hl.mono rfl | with_reducible apply keep_retag | with_reducible apply keep_setChan
    | with_reducible apply keep_setPoints | with_reducible apply keep_markIndex | with_reducible apply keep_count
    | with_reducible apply keep_ite

theorem keep_txDescDone (h : Keep l a s) (hl : Covers l [.regs, .chans, .rings, .book, .cellar, .ports, .presses, .fabric, .aux, .power, .errors, .pmu]) :
    Keep l a (txDescDone b c s) := by
  unfold txDescDone
  repeat' first
    | with_reducible assumption | exact hl.mono rfl | with_reducible apply keep_modTx
    | with_reducible apply keep_acceptChain | with_reducible apply keep_advance | with_reducible apply keep_fence
    | with_reducible apply keep_fetchTx | with_reducible apply keep_count | with_reducible apply keep_ite | split
    | with_reducible refine keep_fst (by assumption) ?_ | with_reducible refine keep_snd (by assumption) ?_
    | dsimp only

theorem keep_rxDescDone (h : Keep l a s) (hl : Covers l [.chans, .cellar, .fabric, .pmu]) :
    Keep l a (rxDescDone b c s) := by
  unfold rxDescDone
  repeat' first
    | with_reducible assumption | exact hl.mono rfl | with_reducible apply keep_modRx
    | with_reducible apply keep_fetchRx | with_reducible apply keep_count

theorem keep_cvMismatch (h : Keep l a s) (hl : Covers l [.regs, .cvTest, .errors]) : Keep l a (cvMismatch b c s) := by
  unfold cvMismatch
  repeat' first
    | with_reducible assumption | exact hl.mono rfl | with_reducible apply keep_postError
    | with_reducible apply keep_fset | with_reducible apply keep_ite | split
    | with_reducible refine keep_fst (by assumption) ?_ | with_reducible refine keep_snd (by assumption) ?_
    | dsimp only | refine keep_mk (m := [.cvTest]) rfl ?_ (hl.mono rfl)

theorem keep_cvOutcome (h : Keep l a s) (hl : Covers l [.regs, .cvTest, .errors]) :
    Keep l a (cvOutcome b c d s).1 := by
  unfold cvOutcome
  repeat' first
    | with_reducible assumption | exact hl.mono rfl | with_reducible apply keep_cvMismatch
    | with_reducible apply keep_fst_ite | with_reducible apply keep_ite | split

theorem keep_rereadChain (h : Keep l a s) (hl : Covers l [.chans, .presses, .fabric]) :
    Keep l a (rereadChain b c s) :=
  keep_rereadDescs (keep_modChain (keep_discardReqs (keep_forgetCopies h (hl.mono rfl)) (hl.mono rfl)) (hl.mono rfl))
    (hl.mono rfl)

theorem keep_chainDescDone (h : Keep l a s) (hl : Covers l [.chans, .fabric]) :
    Keep l a (chainDescDone b c d e s) := by
  unfold chainDescDone
  repeat' first
    | with_reducible assumption | exact hl.mono rfl | with_reducible apply keep_count | with_reducible apply keep_readChain
    | with_reducible apply keep_modChain | with_reducible apply keep_ite | split

theorem keep_chainStaged (h : Keep l a s) (hl : Covers l [.regs, .chans, .presses]) :
    Keep l a (chainStaged b c s) := by
  unfold chainStaged
  repeat' first
    | with_reducible assumption | exact hl.mono rfl | with_reducible apply keep_modChain
    | with_reducible apply keep_enqueueCopy | with_reducible apply keep_ite

theorem keep_txDataDone (h : Keep l a s) (hl : Covers l [.regs, .chans, .presses, .fabric, .cvTest, .errors]) :
    Keep l a (txDataDone b c d e i s) := by
  unfold txDataDone
  repeat' first
    | with_reducible assumption | exact hl.mono rfl | with_reducible apply keep_rereadChain
    | with_reducible apply keep_modChain | with_reducible apply keep_chainStaged | with_reducible apply keep_cvOutcome
    | with_reducible apply keep_ite | split

/-! ### Machine/Launch.lean -/

theorem keep_askSlots (h : Keep l a s) (hl : Covers l [.regs, .chans, .rings, .book, .fabric]) :
    Keep l a (askSlots b c s) := by
  unfold askSlots
  extract_lets s1
  have h1 : Keep l a s1 := keep_ite h (keep_reservePlace h (hl.mono rfl))
  clear_value s1
  exact keep_ite h1 (keep_reserveLog h1 (hl.mono rfl))

theorem keep_enterChans (h : Keep l a s) (hl : Covers l [.regs, .chans, .cellar, .fabric, .pmu]) :
    Keep l a (enterChans b c s) := by
  unfold enterChans
  repeat' first
    | with_reducible assumption | exact hl.mono rfl | with_reducible apply keep_queueFrame
    | with_reducible apply keep_foldl | dsimp only | (intro _; intros)

theorem keep_launch (h : Keep l a s) (hl : Covers l [.regs, .chans, .rings, .book, .cellar, .ports, .fabric, .aux, .power, .pmu]) :
    Keep l a (launch b c s) := by
  unfold launch
  extract_lets cv n r q s1 s2 p s3
  have h0 : Keep l a q := keep_reserveLog (keep_reservePlace h (hl.mono rfl)) (hl.mono rfl)
  have h3 : Keep l a s3 := keep_setPoints (keep_modTx (keep_modChain h0 (hl.mono rfl)) (hl.mono rfl)) (hl.mono rfl)
  exact keep_enqueueStage (keep_headFit (keep_enterChans h3 (hl.mono rfl)) (hl.mono rfl)) (hl.mono rfl)

theorem keep_sent (h : Keep l a s) (hl : Covers l [.chans, .rings, .book, .cellar, .ports, .presses, .fabric, .aux, .power, .pmu]) :
    Keep l a (sent b c s) := by
  unfold sent
  repeat' first
    | with_reducible assumption | exact hl.mono rfl | with_reducible apply keep_writeLogs
    | with_reducible apply keep_commit | with_reducible apply keep_removeChain | with_reducible apply keep_finTags
    | with_reducible apply keep_setPoints

theorem keep_launchToChans (h : Keep l a s) (hl : Covers l [.regs, .chans, .rings, .book, .cellar, .ports, .presses, .fabric, .aux, .power, .pmu]) :
    Keep l a (launchToChans b c s) := by
  induction c generalizing s with
  | zero => exact h
  | succ n ih =>
    unfold launchToChans
    repeat' first
      | with_reducible apply ih | with_reducible assumption | exact hl.mono rfl | with_reducible apply keep_askSlots
      | with_reducible apply keep_launch | with_reducible apply keep_settleHeads | with_reducible apply keep_sent
      | with_reducible apply keep_ite | split | with_reducible refine keep_fst (by assumption) ?_
      | with_reducible refine keep_snd (by assumption) ?_ | dsimp only

theorem keep_progress (h : Keep l a s) (hl : Covers l [.regs, .chans, .rings, .book, .cellar, .ports, .presses, .fabric, .aux, .power, .pmu]) :
    Keep l a (progress b s) := by
  unfold progress
  repeat' first
    | with_reducible assumption | exact hl.mono rfl | with_reducible apply keep_launchToChans
    | with_reducible apply keep_advance

/-! ### Machine/Unit.lean -/

theorem keep_startDrain (h : Keep l a s) (hl : Covers l [.chans, .rings, .cellar, .fabric, .aux, .power, .pmu]) :
    Keep l a (startDrain b s) := by
  unfold startDrain
  repeat' first
    | with_reducible assumption | exact hl.mono rfl | with_reducible apply keep_readCons
    | with_reducible apply keep_discardReqs | with_reducible apply keep_discardFetches
    | with_reducible apply keep_stopCheck | with_reducible apply keep_ite | with_reducible apply keep_foldl | split
    | with_reducible refine keep_fst (by assumption) ?_ | with_reducible refine keep_snd (by assumption) ?_
    | dsimp only | refine keep_mk (m := [.cellar, .aux, .power]) rfl ?_ (hl.mono rfl) | (intro _; intros)

theorem keep_requestRack (h : Keep l a s) (hl : Covers l [.regs, .presses, .racking]) :
    Keep l a (requestRack b c s).1 := by
  unfold requestRack
  repeat' first
    | with_reducible assumption | exact hl.mono rfl | with_reducible apply keep_raiseSource
    | with_reducible apply keep_applyDivs | split | with_reducible refine keep_fst (by assumption) ?_
    | with_reducible refine keep_snd (by assumption) ?_ | dsimp only
    | refine keep_mk (m := [.racking]) rfl ?_ (hl.mono rfl)

theorem keep_repeatLookups (h : Keep l a s) (hl : Covers l [.regs, .chans, .presses]) :
    Keep l a (repeatLookups b s) := by
  unfold repeatLookups
  repeat' first
    | with_reducible assumption | exact hl.mono rfl | with_reducible apply keep_enqueueCopy
    | with_reducible apply keep_modChain | with_reducible apply keep_ite | with_reducible apply keep_foldl
    | (intro _; intros)

theorem keep_abortRacking (h : Keep l a s) (hl : Covers l [.regs, .chans, .presses, .racking]) :
    Keep l a (abortRacking b s) := by
  unfold abortRacking
  repeat' first
    | with_reducible assumption | exact hl.mono rfl | with_reducible apply keep_repeatLookups | with_reducible apply keep_raiseSource
    | with_reducible apply keep_applyDivs | dsimp only | refine keep_mk (m := [.racking]) rfl ?_ (hl.mono rfl)

theorem keep_startSoftReset (h : Keep l a s) (hl : Covers l [.regs, .chans, .rings, .cellar, .presses, .fabric, .aux, .power, .racking, .pmu]) :
    Keep l a (startSoftReset b s) := by
  unfold startSoftReset
  repeat' first
    | with_reducible assumption | exact hl.mono rfl | with_reducible apply keep_startDrain
    | with_reducible apply keep_abortRacking | with_reducible apply keep_ite | split
    | with_reducible refine keep_fst (by assumption) ?_ | with_reducible refine keep_snd (by assumption) ?_
    | dsimp only | refine keep_mk (m := [.power]) rfl ?_ (hl.mono rfl)

theorem keep_escalate (h : Keep l a s) (hl : Covers l [.regs, .chans, .rings, .cellar, .presses, .fabric, .aux, .power, .errors, .racking, .pmu]) :
    Keep l a (escalate b c s) := by
  unfold escalate
  repeat' first
    | with_reducible assumption | exact hl.mono rfl | with_reducible apply keep_postError
    | with_reducible apply keep_fset | with_reducible apply keep_startSoftReset | with_reducible apply keep_ite
    | split | with_reducible refine keep_fst (by assumption) ?_ | with_reducible refine keep_snd (by assumption) ?_
    | dsimp only | refine keep_mk (m := [.power]) rfl ?_ (hl.mono rfl)

theorem keep_setIsolated (h : Keep l a s) (hl : Covers l [.racking]) : Keep l a (setIsolated b c s) := by
  unfold setIsolated
  repeat' first
    | with_reducible assumption | exact hl.mono rfl | dsimp only
    | refine keep_mk (m := [.racking]) rfl ?_ (hl.mono rfl)

theorem keep_pressError (h : Keep l a s) (hl : Covers l [.regs, .chans, .rings, .cellar, .presses, .fabric, .aux, .power, .errors, .racking, .pmu]) :
    Keep l a (pressError b c s) := by
  unfold pressError
  repeat' first
    | with_reducible assumption | exact hl.mono rfl | with_reducible apply keep_escalate
    | with_reducible apply keep_abortRacking | with_reducible apply keep_requestRack
    | with_reducible apply keep_postError | with_reducible apply keep_setIsolated | with_reducible apply keep_modPress
    | with_reducible apply keep_ite | split | with_reducible refine keep_fst (by assumption) ?_
    | with_reducible refine keep_snd (by assumption) ?_ | dsimp only
    | refine keep_mk (m := [.racking]) rfl ?_ (hl.mono rfl)

end Sys2Proof.Machine
end

