-- ==== Sys2Proof/Laws/KeepPress.lean ====
section
/-!
SUPPORT. What each operation keeps and changes (presses: tables, egress, lookups, classification, decisions): the invariant
of the machine, and the parts outside the list that its lemma names.
-/

set_option Elab.async false

namespace Sys2Proof.Machine

variable {l : List Part} {a s t : State}

/-! ### Machine/Tables.lean -/

theorem keep_advanceLfsr (h : Keep l a s) (hl : Covers l [.engine, .freeCount]) : Keep l a (advanceLfsr s) := by
  unfold advanceLfsr
  repeat' first
    | with_reducible assumption | exact hl.mono rfl | dsimp only
    | refine keep_mk (m := [.engine, .freeCount]) rfl ?_ (hl.mono rfl)

theorem keep_countEvict (h : Keep l a s) (hl : Covers l [.regs]) : Keep l a (countEvict s) := by
  unfold countEvict
  repeat' first
    | with_reducible assumption | exact hl.mono rfl | with_reducible apply keep_fadd | with_reducible apply keep_count

theorem keep_setLearnMode (h : Keep l a s) (hl : Covers l [.regs, .presses, .engine]) :
    Keep l a (setLearnMode b s) := by
  unfold setLearnMode
  repeat' first
    | with_reducible assumption | exact hl.mono rfl | with_reducible apply keep_fset | with_reducible apply keep_ite
    | split | dsimp only | refine keep_mk (m := [.presses, .engine]) rfl ?_ (hl.mono rfl)

theorem keep_forceCoordinated (h : Keep l a s) (hl : Covers l [.regs, .presses, .engine]) :
    Keep l a (forceCoordinated s) := by
  unfold forceCoordinated
  repeat' first
    | with_reducible assumption | exact hl.mono rfl | with_reducible apply keep_setLearnMode
    | with_reducible apply keep_fset | with_reducible apply keep_ite

theorem keep_changeShadowed (h : Keep l a s) (hl : Covers l [.replicas]) : Keep l a (changeShadowed b c s) := by
  unfold changeShadowed
  repeat' first
    | with_reducible assumption | exact hl.mono rfl | with_reducible apply keep_modReplica
    | with_reducible apply keep_ite | with_reducible apply keep_foldl | split | dsimp only | (intro _; intros)

theorem keep_unfilter (h : Keep l a s) (hl : Covers l [.presses]) : Keep l a (unfilter b c s) := by
  unfold unfilter
  repeat' first | with_reducible assumption | exact hl.mono rfl | with_reducible apply keep_modPress | split

/-! ### Machine/Egress.lean -/

theorem keep_wakePort (h : Keep l a s) (hl : Covers l [.ports]) : Keep l a (wakePort b s) := by
  unfold wakePort
  repeat' first
    | with_reducible assumption | exact hl.mono rfl | with_reducible apply keep_modPort
    | with_reducible apply keep_ite

theorem keep_dropFwd (h : Keep l a s) (hl : Covers l [.cellar, .fabric, .pmu]) : Keep l a (dropFwd b s) := by
  unfold dropFwd
  repeat' first | with_reducible assumption | exact hl.mono rfl | with_reducible apply keep_discardRef | split

theorem keep_loseFwd (h : Keep l a s) (hl : Covers l [.cellar, .fabric, .pmu]) (hd : ∀ u, Keep l a u → Keep l a (d u)) :
    Keep l a (loseFwd b c d s) := by
  unfold loseFwd
  split
  · exact keep_dropFwd (keep_count (hd _ h)) (hl.mono rfl)
  · exact keep_dropFwd (hd _ h) (hl.mono rfl)

theorem keep_fwdFit (h : Keep l a s) (hl : Covers l [.regs, .cellar, .ports, .fabric, .pmu]) :
    Keep l a (fwdFit b c d s) := by
  induction d generalizing s with
  | zero => exact h
  | succ n ih =>
    unfold fwdFit
    repeat' first
      | with_reducible apply ih | with_reducible assumption | exact hl.mono rfl
      | with_reducible apply keep_setFwdQueue | with_reducible apply keep_fset | with_reducible apply keep_loseFwd
      | with_reducible apply keep_countNofit | with_reducible apply keep_ite | split
      | with_reducible refine keep_fst (by assumption) ?_ | with_reducible refine keep_snd (by assumption) ?_
      | dsimp only | (intro _; intros)

theorem keep_pushFwd (h : Keep l a s) (hl : Covers l [.regs, .cellar, .ports, .fabric, .pmu]) :
    Keep l a (pushFwd b c d e s) := by
  unfold pushFwd
  repeat' first
    | with_reducible assumption | exact hl.mono rfl | with_reducible apply keep_setFwdQueue
    | with_reducible apply keep_loseFwd | with_reducible apply keep_fwdFit | with_reducible apply keep_wakePort
    | with_reducible apply keep_count | with_reducible apply keep_ite | split | dsimp only | (intro _; intros)

theorem keep_noteSlowDepth (h : Keep l a s) (hl : Covers l [.cm]) : Keep l a (noteSlowDepth s) := by
  unfold noteSlowDepth
  repeat' first
    | with_reducible assumption | exact hl.mono rfl | dsimp only | refine keep_mk (m := [.cm]) rfl ?_ (hl.mono rfl)

theorem keep_slowToCm (h : Keep l a s) (hl : Covers l [.regs, .cellar, .fabric, .cm, .pmu]) :
    Keep l a (slowToCm b c d e i j s) := by
  unfold slowToCm
  repeat' first
    | with_reducible assumption | exact hl.mono rfl | with_reducible apply keep_fadd
    | with_reducible apply keep_noteSlowDepth | with_reducible apply keep_discardRef | with_reducible apply keep_count
    | with_reducible apply keep_ite | split | with_reducible refine keep_fst (by assumption) ?_
    | with_reducible refine keep_snd (by assumption) ?_ | dsimp only
    | refine keep_mk (m := [.cm]) rfl ?_ (hl.mono rfl)

theorem keep_takeSerial (h : Keep l a s) (hl : Covers l [.serial]) : Keep l a (takeSerial s).2 := by
  unfold takeSerial
  repeat' first
    | with_reducible assumption | exact hl.mono rfl | dsimp only
    | refine keep_mk (m := [.serial]) rfl ?_ (hl.mono rfl)

theorem keep_framePorts (h : Keep l a s) (hl : Covers l [.regs, .cellar, .ports, .fabric, .pmu, .serial]) :
    Keep l a (framePorts b c d e s) := by
  unfold framePorts
  repeat' first
    | with_reducible assumption | exact hl.mono rfl | with_reducible apply keep_pushFwd
    | with_reducible apply keep_takeSerial | with_reducible apply keep_ite | with_reducible apply keep_foldl | split
    | with_reducible refine keep_fst (by assumption) ?_ | with_reducible refine keep_snd (by assumption) ?_
    | dsimp only | (intro _; intros)

theorem keep_frameChans (h : Keep l a s) (hl : Covers l [.regs, .chans, .cellar, .fabric, .pmu]) :
    Keep l a (frameChans b c d s) := by
  unfold frameChans
  repeat' first
    | with_reducible assumption | exact hl.mono rfl | with_reducible apply keep_queueFrame
    | with_reducible apply keep_foldl | dsimp only | (intro _; intros)

theorem keep_frameDecided (h : Keep l a s) (hl : Covers l [.regs, .chans, .cellar, .ports, .fabric, .cm, .pmu, .serial]) :
    Keep l a (frameDecided b c d s) := by
  unfold frameDecided
  repeat' first
    | with_reducible assumption | exact hl.mono rfl | with_reducible apply keep_addRefs
    | with_reducible apply keep_framePorts | with_reducible apply keep_frameChans
    | with_reducible apply keep_discardRef | with_reducible apply keep_slowToCm | with_reducible apply keep_count
    | with_reducible apply keep_ite | split

theorem keep_shareChain (h : Keep l a s) (hl : Covers l [.chans, .cellar]) : Keep l a (shareChain b c d e s).2 := by
  unfold shareChain
  repeat' first
    | with_reducible assumption | exact hl.mono rfl | with_reducible apply keep_setFrame
    | with_reducible apply keep_modChain | dsimp only | refine keep_mk (m := [.cellar]) rfl ?_ (hl.mono rfl)

theorem keep_chainMirrors (h : Keep l a s) (hl : Covers l [.regs, .chans, .cellar, .ports, .fabric, .pmu, .serial]) :
    Keep l a (chainMirrors b c d e s) := by
  unfold chainMirrors
  repeat' first
    | with_reducible assumption | exact hl.mono rfl | with_reducible apply keep_framePorts
    | with_reducible apply keep_queueFrame | with_reducible apply keep_foldl | dsimp only | (intro _; intros)

theorem keep_placeChain (h : Keep l a s) (hl : Covers l [.regs, .chans, .ports]) :
    Keep l a (placeChain b c d e i s) := by
  unfold placeChain
  repeat' first
    | with_reducible assumption | exact hl.mono rfl | with_reducible apply keep_syncChan
    | with_reducible apply keep_headFit | with_reducible apply keep_wakePort | with_reducible apply keep_modChain
    | with_reducible apply keep_foldl | dsimp only | (intro _; intros)

theorem keep_chainDecided (h : Keep l a s) (hl : Covers l [.regs, .chans, .cellar, .ports, .fabric, .pmu, .serial]) :
    Keep l a (chainDecided b c d e i s) := by
  unfold chainDecided
  repeat' first
    | with_reducible assumption | exact hl.mono rfl | with_reducible apply keep_shareChain
    | with_reducible apply keep_modChain | with_reducible apply keep_placeChain
    | with_reducible apply keep_chainMirrors | with_reducible apply keep_ite | split

/-! ### Machine/Lookup.lean -/

theorem keep_Look_count (h : Keep l a s) : Keep l a (Look.count b c s) := by
  unfold Look.count
  repeat' first | with_reducible assumption | with_reducible apply keep_count

theorem keep_postStation (h : Keep l a s) (hl : Covers l [.regs, .presses, .engine, .fabric, .cm]) :
    Keep l a (postStation b c s) := by
  unfold postStation
  repeat' first
    | with_reducible assumption | exact hl.mono rfl | with_reducible apply keep_modPress
    | with_reducible apply keep_postLearn | with_reducible apply keep_ite

theorem keep_notifyLearn (h : Keep l a s) (hl : Covers l [.regs, .engine, .fabric, .cm]) :
    Keep l a (notifyLearn b s) := by
  unfold notifyLearn
  repeat' first
    | with_reducible assumption | exact hl.mono rfl | with_reducible apply keep_postLearn
    | with_reducible apply keep_ite

theorem keep_notifyEvicted (h : Keep l a s) (hl : Covers l [.regs, .engine, .fabric, .cm, .freeCount]) :
    Keep l a (notifyEvicted b c s) := by
  unfold notifyEvicted
  repeat' first
    | with_reducible assumption | exact hl.mono rfl | with_reducible apply keep_notifyLearn | split
    | with_reducible refine keep_fst (by assumption) ?_ | with_reducible refine keep_snd (by assumption) ?_
    | dsimp only | refine keep_mk (m := [.freeCount]) rfl ?_ (hl.mono rfl)

theorem keep_learnInsert (h : Keep l a s) (hl : Covers l [.regs, .replicas, .engine, .fabric, .cm, .freeCount]) :
    Keep l a (learnInsert b c d e s) := by
  unfold learnInsert
  repeat' first
    | with_reducible assumption | exact hl.mono rfl | with_reducible apply keep_countEvict
    | with_reducible apply keep_notifyEvicted | with_reducible apply keep_changeShadowed
    | with_reducible apply keep_notifyLearn | with_reducible apply keep_advanceLfsr | with_reducible apply keep_foldl
    | split | with_reducible refine keep_fst (by assumption) ?_ | with_reducible refine keep_snd (by assumption) ?_
    | dsimp only | (intro _; intros)

theorem keep_ageReset (h : Keep l a s) (hl : Covers l [.replicas]) : Keep l a (ageReset b c s) := by
  unfold ageReset
  repeat' first | with_reducible assumption | exact hl.mono rfl | with_reducible apply keep_modReplica

theorem keep_sourceLookup (h : Keep l a s) (hl : Covers l [.regs, .presses, .replicas, .engine, .fabric, .cm, .freeCount]) :
    Keep l a (sourceLookup b c d e s).1 := by
  unfold sourceLookup
  repeat' first
    | with_reducible assumption | exact hl.mono rfl | with_reducible apply keep_learnInsert
    | with_reducible apply keep_changeShadowed | with_reducible apply keep_notifyLearn
    | with_reducible apply keep_Look_count | with_reducible apply keep_ageReset
    | with_reducible apply keep_postStation | with_reducible apply keep_fst_ite | with_reducible apply keep_ite
    | split | with_reducible refine keep_fst (by assumption) ?_ | with_reducible refine keep_snd (by assumption) ?_
    | dsimp only

theorem keep_rewriteVid (h : Keep l a s) (hl : Covers l [.freeCount]) : Keep l a (rewriteVid b c d s).2.2 := by
  unfold rewriteVid
  repeat' first
    | with_reducible assumption | exact hl.mono rfl | with_reducible apply keep_trd_ite
    | with_reducible apply keep_ite | split | with_reducible refine keep_fst (by assumption) ?_
    | with_reducible refine keep_snd (by assumption) ?_ | dsimp only
    | refine keep_mk (m := [.freeCount]) rfl ?_ (hl.mono rfl)

theorem keep_nextHop (h : Keep l a s) (hl : Covers l [.freeCount]) : Keep l a (nextHop b c d s).2 := by
  unfold nextHop
  repeat' first | with_reducible assumption | exact hl.mono rfl | with_reducible apply keep_rewriteVid

theorem keep_routeReason (h : Keep l a s) : Keep l a (routeReason b c s).2 := by
  unfold routeReason
  repeat' first | with_reducible assumption | with_reducible apply keep_Look_count

theorem keep_routeLookup (h : Keep l a s) (hl : Covers l [.replicas]) : Keep l a (routeLookup b c d s).2 := by
  unfold routeLookup
  repeat' first
    | with_reducible assumption | exact hl.mono rfl | with_reducible apply keep_ageReset
    | with_reducible apply keep_snd_ite | with_reducible apply keep_ite | split
    | with_reducible refine keep_fst (by assumption) ?_ | with_reducible refine keep_snd (by assumption) ?_
    | dsimp only

theorem keep_route (h : Keep l a s) (hl : Covers l [.replicas, .freeCount]) : Keep l a (route b c d s).2 := by
  unfold route
  repeat' first
    | with_reducible assumption | exact hl.mono rfl | with_reducible apply keep_routeReason
    | with_reducible apply keep_nextHop | with_reducible apply keep_Look_count | with_reducible apply keep_routeLookup
    | with_reducible apply keep_snd_ite | with_reducible apply keep_ite | split
    | with_reducible refine keep_fst (by assumption) ?_ | with_reducible refine keep_snd (by assumption) ?_
    | dsimp only

theorem keep_destLookup (h : Keep l a s) (hl : Covers l [.replicas, .freeCount]) :
    Keep l a (destLookup b c d s).2 := by
  unfold destLookup
  repeat' first
    | with_reducible assumption | exact hl.mono rfl | with_reducible apply keep_route
    | with_reducible apply keep_Look_count | with_reducible apply keep_snd_ite | with_reducible apply keep_ite | split
    | with_reducible refine keep_fst (by assumption) ?_ | with_reducible refine keep_snd (by assumption) ?_
    | dsimp only

theorem keep_lookup (h : Keep l a s) (hl : Covers l [.regs, .presses, .replicas, .engine, .fabric, .cm, .freeCount]) :
    Keep l a (lookup b s).2 := by
  unfold lookup
  repeat' first
    | with_reducible assumption | exact hl.mono rfl | with_reducible apply keep_destLookup
    | with_reducible apply keep_sourceLookup | with_reducible apply keep_Look_count
    | with_reducible apply keep_snd_ite

/-! ### Machine/Classify.lean -/

theorem keep_setPolicer (h : Keep l a s) (hl : Covers l [.presses]) : Keep l a (setPolicer b c d s) := by
  unfold setPolicer
  repeat' first | with_reducible assumption | exact hl.mono rfl | with_reducible apply keep_modPress

theorem keep_metered (h : Keep l a s) (hl : Covers l [.presses]) : Keep l a (metered b c d s) := by
  unfold metered
  repeat' first
    | with_reducible assumption | exact hl.mono rfl | with_reducible apply keep_setPolicer
    | with_reducible apply keep_modPress | with_reducible apply keep_ite

theorem keep_police (h : Keep l a s) (hl : Covers l [.presses]) : Keep l a (police b c d s).2 := by
  unfold police
  repeat' first
    | with_reducible assumption | exact hl.mono rfl | with_reducible apply keep_metered
    | with_reducible apply keep_Look_count | with_reducible apply keep_snd_ite

/-! ### Machine/Press.lean -/

theorem keep_stepDecap (h : Keep l a s) : Keep l a (stepDecap b c d s).2 := by
  unfold stepDecap
  repeat' first
    | with_reducible assumption | with_reducible apply keep_Look_count | with_reducible apply keep_snd_ite
    | with_reducible apply keep_ite | split

theorem keep_stepEncap (h : Keep l a s) (hl : Covers l [.presses]) : Keep l a (stepEncap b c d s).2 := by
  unfold stepEncap
  repeat' first
    | with_reducible assumption | exact hl.mono rfl | with_reducible apply keep_modPress
    | with_reducible apply keep_snd_ite | with_reducible apply keep_ite | split

theorem keep_shapeFrame (h : Keep l a s) (hl : Covers l [.presses]) : Keep l a (shapeFrame b c d e s).2 := by
  unfold shapeFrame
  repeat' first
    | with_reducible assumption | exact hl.mono rfl | with_reducible apply keep_stepDecap
    | with_reducible apply keep_stepEncap | with_reducible apply keep_police | with_reducible apply keep_snd_ite
    | with_reducible apply keep_ite | split

theorem keep_parserReason (h : Keep l a s) : Keep l a (parserReason b c s).2 := by
  induction c generalizing s with
  | nil => exact h
  | cons r rest ih =>
    rw [parserReason]
    split
    · exact ih (keep_Look_count h)
    · exact keep_Look_count h

theorem keep_countReasons (h : Keep l a s) : Keep l a (countReasons b c s) := by
  unfold countReasons
  repeat' first
    | with_reducible assumption | with_reducible apply keep_Look_count | with_reducible apply keep_foldl | dsimp only
    | (intro _; intros)

theorem keep_Look_countBy (h : Keep l a s) : Keep l a (Look.countBy b c d s) := by
  unfold Look.countBy
  repeat' first | with_reducible assumption | with_reducible apply keep_count | with_reducible apply keep_ite

theorem keep_dropBad (h : Keep l a s) : Keep l a (dropBad b c s).2 := by
  unfold dropBad
  repeat' first | with_reducible assumption | with_reducible apply keep_Look_count | with_reducible apply keep_snd_ite

theorem keep_toSlow (h : Keep l a s) : Keep l a (toSlow b c d e i s).2 := by
  unfold toSlow
  repeat' first | with_reducible assumption | with_reducible apply keep_dropBad | with_reducible apply keep_snd_ite

theorem keep_classifyRx (h : Keep l a s) (hl : Covers l [.presses]) : Keep l a (classifyRx b c d e i j k m s).2 := by
  unfold classifyRx
  repeat' first
    | with_reducible assumption | exact hl.mono rfl | with_reducible apply keep_shapeFrame
    | with_reducible apply keep_toSlow | with_reducible apply keep_dropBad | with_reducible apply keep_Look_count
    | with_reducible apply keep_snd_ite | with_reducible apply keep_ite | split
    | with_reducible refine keep_fst (by assumption) ?_ | with_reducible refine keep_snd (by assumption) ?_
    | dsimp only

theorem keep_decideRx (h : Keep l a s) (hl : Covers l [.regs, .presses, .replicas, .engine, .fabric, .cm, .freeCount]) :
    Keep l a (decideRx b c d e s).2 := by
  unfold decideRx
  repeat' first
    | with_reducible assumption | exact hl.mono rfl | with_reducible apply keep_Look_countBy
    | with_reducible apply keep_parserReason | with_reducible apply keep_lookup | with_reducible apply keep_classifyRx
    | with_reducible apply keep_toSlow | with_reducible apply keep_Look_count | with_reducible apply keep_snd_ite
    | with_reducible apply keep_ite | split | with_reducible refine keep_fst (by assumption) ?_
    | with_reducible refine keep_snd (by assumption) ?_ | dsimp only

theorem keep_classifyTx (h : Keep l a s) (hl : Covers l [.presses]) : Keep l a (classifyTx b c d e i j k s).2 := by
  unfold classifyTx
  repeat' first
    | with_reducible assumption | exact hl.mono rfl | with_reducible apply keep_shapeFrame
    | with_reducible apply keep_Look_count | with_reducible apply keep_snd_ite | with_reducible apply keep_ite | split
    | with_reducible refine keep_fst (by assumption) ?_ | with_reducible refine keep_snd (by assumption) ?_
    | dsimp only

theorem keep_decideTx (h : Keep l a s) (hl : Covers l [.regs, .presses, .replicas, .engine, .fabric, .cm, .freeCount]) :
    Keep l a (decideTx b c d e s).2 := by
  unfold decideTx
  repeat' first
    | with_reducible assumption | exact hl.mono rfl | with_reducible apply keep_Look_countBy
    | with_reducible apply keep_lookup | with_reducible apply keep_countReasons | with_reducible apply keep_Look_count
    | with_reducible apply keep_classifyTx | with_reducible apply keep_snd_ite | with_reducible apply keep_ite | split
    | with_reducible refine keep_fst (by assumption) ?_ | with_reducible refine keep_snd (by assumption) ?_

theorem keep_tableWord (h : Keep l a s) (hl : Covers l [.regs, .chans, .rings, .cellar, .presses, .fabric, .aux, .power, .errors, .racking, .pmu]) :
    Keep l a (tableWord b c s) := by
  unfold tableWord
  repeat' first
    | with_reducible assumption | exact hl.mono rfl | with_reducible apply keep_pressError
    | with_reducible apply keep_corrected | split

theorem keep_decideCopy (h : Keep l a s) (hl : Covers l [.regs, .chans, .rings, .cellar, .presses, .replicas, .engine, .fabric, .aux, .power, .errors, .racking, .cm, .pmu, .freeCount]) :
    Keep l a (decideCopy b c d e s).2 := by
  unfold decideCopy
  repeat' first
    | with_reducible assumption | exact hl.mono rfl | with_reducible apply keep_decideTx
    | with_reducible apply keep_readCells | with_reducible apply keep_tableWord
    | with_reducible apply keep_rereadChain | with_reducible apply keep_decideRx | with_reducible apply keep_count
    | with_reducible apply keep_snd_ite | with_reducible apply keep_ite | split

theorem keep_retireItem (h : Keep l a s) (hl : Covers l [.regs, .chans, .rings, .book, .cellar, .ports, .presses, .fabric, .aux, .power, .cm, .pmu, .serial]) :
    Keep l a (retireItem b c d s) := by
  unfold retireItem
  repeat' first
    | with_reducible assumption | exact hl.mono rfl | with_reducible apply keep_frameDecided
    | with_reducible apply keep_modChain | with_reducible apply keep_enqueueCopy | with_reducible apply keep_progress
    | with_reducible apply keep_chainDecided | with_reducible apply keep_ite | split

theorem keep_retireCopies (h : Keep l a s) (hl : Covers l [.regs, .chans, .rings, .book, .cellar, .ports, .presses, .fabric, .aux, .power, .cm, .pmu, .serial]) :
    Keep l a (retireCopies b c s) := by
  induction c generalizing s with
  | zero => exact h
  | succ n ih =>
    unfold retireCopies
    repeat' first
      | with_reducible apply ih | with_reducible assumption | exact hl.mono rfl | with_reducible apply keep_modPress
      | with_reducible apply keep_retireItem | split

theorem keep_retire (h : Keep l a s) (hl : Covers l [.regs, .chans, .rings, .book, .cellar, .ports, .presses, .fabric, .aux, .power, .cm, .pmu, .serial]) :
    Keep l a (retire b s) := by
  unfold retire
  repeat' first | with_reducible assumption | exact hl.mono rfl | with_reducible apply keep_retireCopies

theorem keep_retireCycle (h : Keep l a s) (hl : Covers l [.regs, .chans, .rings, .book, .cellar, .ports, .presses, .fabric, .aux, .power, .cm, .pmu, .serial]) :
    Keep l a (retireCycle b s) := by
  unfold retireCycle
  repeat' first
    | with_reducible assumption | exact hl.mono rfl | with_reducible apply keep_modPress
    | with_reducible apply keep_retire

theorem keep_settle (h : Keep l a s) : Keep l a (settle s) := by
  unfold settle
  repeat' first | with_reducible assumption | with_reducible apply keep_wakeDue | with_reducible apply keep_pump

theorem keep_execDealHeaderCopies (h : Keep l a s) (hl : Covers l [.regs, .chans, .presses]) :
    KeepOut l a (execDealHeaderCopies b s) := by
  unfold execDealHeaderCopies
  repeat' first
    | with_reducible assumption | exact hl.mono rfl | with_reducible apply keep_settle
    | with_reducible apply keep_dealCopies | with_reducible apply keepOut_ite | with_reducible apply keep_ite
    | with_reducible apply keepOut_next

theorem keep_noteLatency (h : Keep l a s) (hl : Covers l [.regs]) : Keep l a (noteLatency b c s) := by
  unfold noteLatency
  repeat' first | with_reducible assumption | exact hl.mono rfl | with_reducible apply keep_fset

theorem keep_takeResult (h : Keep l a s) (hl : Covers l [.regs, .chans, .rings, .cellar, .presses, .replicas, .engine, .fabric, .aux, .power, .errors, .racking, .cm, .pmu, .freeCount]) :
    Keep l a (takeResult b c d e i j s) := by
  unfold takeResult
  repeat' first
    | with_reducible assumption | exact hl.mono rfl | with_reducible apply keep_decideCopy
    | with_reducible apply keep_lateResult | with_reducible apply keep_noteLatency | with_reducible apply keep_modCopy
    | with_reducible apply keep_ite | split

theorem keep_laneDone (h : Keep l a s) (hl : Covers l [.regs, .chans, .rings, .book, .cellar, .ports, .presses, .replicas, .engine, .fabric, .aux, .power, .errors, .racking, .cm, .pmu, .freeCount, .serial]) :
    Keep l a (laneDone b c d e i j s) := by
  unfold laneDone
  repeat' first
    | with_reducible assumption | exact hl.mono rfl | with_reducible apply keep_takeResult
    | with_reducible apply keep_retire | with_reducible apply keep_foldl | dsimp only | (intro _; intros)

theorem keep_execLaneResult (h : Keep l a s) (hl : Covers l [.regs, .chans, .rings, .book, .cellar, .ports, .presses, .replicas, .engine, .fabric, .aux, .power, .errors, .racking, .cm, .pmu, .freeCount, .serial]) :
    KeepOut l a (execLaneResult b c d e i j s) := by
  unfold execLaneResult
  repeat' first
    | with_reducible assumption | exact hl.mono rfl | with_reducible apply keep_settle
    | with_reducible apply keep_laneDone | with_reducible apply keepOut_ite | with_reducible apply keep_ite
    | with_reducible apply keepOut_next

theorem keep_redeal (h : Keep l a s) (hl : Covers l [.presses]) : Keep l a (redeal b c d s) := by
  unfold redeal
  extract_lets s1
  have h1 : Keep l a s1 := keep_modCopy (keep_discardResult h (hl.mono rfl)) (hl.mono rfl)
  exact keep_countDealt (keep_modPress h1 (hl.mono rfl))

theorem keep_laneTimeout (h : Keep l a s) (hl : Covers l [.regs, .chans, .rings, .cellar, .presses, .fabric, .aux, .power, .errors, .racking, .pmu]) :
    Keep l a (laneTimeout b c s) := by
  unfold laneTimeout
  repeat' first
    | with_reducible assumption | exact hl.mono rfl | with_reducible apply keep_redeal
    | with_reducible apply keep_pressError | with_reducible apply keep_fsetBit | with_reducible apply keep_postError
    | with_reducible apply keep_refreshLanes | with_reducible apply keep_fset | with_reducible apply keep_ite | split

theorem keep_execReorderTimeout (h : Keep l a s) (hl : Covers l [.regs, .chans, .rings, .cellar, .presses, .fabric, .aux, .power, .errors, .racking, .pmu]) :
    KeepOut l a (execReorderTimeout b c s) := by
  unfold execReorderTimeout
  repeat' first
    | with_reducible assumption | exact hl.mono rfl | with_reducible apply keep_settle
    | with_reducible apply keep_laneTimeout | with_reducible apply keepOut_ite | with_reducible apply keep_ite
    | with_reducible apply keepOut_next

theorem keep_clearLaneErr (h : Keep l a s) (hl : Covers l [.regs, .presses]) : Keep l a (clearLaneErr b c s) := by
  unfold clearLaneErr
  repeat' first
    | with_reducible assumption | exact hl.mono rfl | with_reducible apply keep_refreshLanes
    | with_reducible apply keep_fset

theorem keep_execLaneErrClear (h : Keep l a s) (hl : Covers l [.regs, .presses]) :
    KeepOut l a (execLaneErrClear b c s) := by
  unfold execLaneErrClear
  repeat' first
    | with_reducible assumption | exact hl.mono rfl | with_reducible apply keep_clearLaneErr
    | with_reducible apply keepOut_ite | with_reducible apply keep_ite | with_reducible apply keepOut_next

theorem keep_commitPolicer (h : Keep l a s) (hl : Covers l [.presses]) : Keep l a (commitPolicer b c s) := by
  unfold commitPolicer
  repeat' first
    | with_reducible assumption | exact hl.mono rfl | with_reducible apply keep_setPolicer
    | with_reducible apply keep_modPress

theorem keep_execPolicerCommit (h : Keep l a s) (hl : Covers l [.presses]) :
    KeepOut l a (execPolicerCommit b c s) := by
  unfold execPolicerCommit
  repeat' first
    | with_reducible assumption | exact hl.mono rfl | with_reducible apply keep_commitPolicer
    | with_reducible apply keepOut_ite | with_reducible apply keep_ite | with_reducible apply keepOut_next

theorem keep_selectPolicer (h : Keep l a s) (hl : Covers l [.regs, .presses]) : Keep l a (selectPolicer b c s) := by
  unfold selectPolicer
  repeat' first
    | with_reducible assumption | exact hl.mono rfl | with_reducible apply keep_setReg
    | with_reducible apply keep_modPress

theorem keep_execPolicerSelect (h : Keep l a s) (hl : Covers l [.regs, .presses]) :
    KeepOut l a (execPolicerSelect b c s) := by
  unfold execPolicerSelect
  repeat' first
    | with_reducible assumption | exact hl.mono rfl | with_reducible apply keep_selectPolicer
    | with_reducible apply keepOut_ite | with_reducible apply keep_ite | with_reducible apply keepOut_next

end Sys2Proof.Machine
end

