-- ==== Sys2Proof/Laws/KeepPorts.lean ====
section
/-!
SUPPORT. What each operation keeps and changes (rows, ports and time: receive, transmit, gate lists, assignment, the check-value test path, the PTP clock): the invariant
of the machine, and the parts outside the list that its lemma names.
-/

set_option Elab.async false

namespace Sys2Proof.Machine

variable {l : List Part} {a s t : State}

/-! ### Machine/Rows.lean -/

theorem keep_regenerate (h : Keep l a s) (hl : Covers l [.regs]) : Keep l a (regenerate b s) := by
  unfold regenerate
  repeat' first
    | with_reducible assumption | exact hl.mono rfl | with_reducible apply keep_setReg
    | with_reducible apply keep_foldl | dsimp only | (intro _; intros)

theorem keep_setLink (h : Keep l a s) (hl : Covers l [.regs, .ports]) : Keep l a (setLink b c s) := by
  unfold setLink
  repeat' first
    | with_reducible assumption | exact hl.mono rfl | with_reducible apply keep_modPort
    | with_reducible apply keep_redueXoff | with_reducible apply keep_fset | with_reducible apply keep_ite

theorem keep_evalLink (h : Keep l a s) (hl : Covers l [.regs, .ports]) : Keep l a (evalLink b s) := by
  unfold evalLink
  repeat' first
    | with_reducible assumption | exact hl.mono rfl | with_reducible apply keep_modPort
    | with_reducible apply keep_setLink | with_reducible apply keep_ite

theorem keep_execLinkFaultChange (h : Keep l a s) (hl : Covers l [.regs, .ports]) :
    KeepOut l a (execLinkFaultChange b c s) := by
  unfold execLinkFaultChange
  repeat' first
    | with_reducible assumption | exact hl.mono rfl | with_reducible apply keep_modPort
    | with_reducible apply keep_settle | with_reducible apply keep_evalLink | with_reducible apply keepOut_ite
    | with_reducible apply keep_ite | with_reducible apply keepOut_next

theorem keep_execLinkHoldTimer (h : Keep l a s) (hl : Covers l [.regs, .ports]) :
    KeepOut l a (execLinkHoldTimer b s) := by
  unfold execLinkHoldTimer
  repeat' first
    | with_reducible assumption | exact hl.mono rfl | with_reducible apply keep_settle
    | with_reducible apply keep_setLink | with_reducible apply keepOut_ite | with_reducible apply keep_ite
    | with_reducible apply keepOut_next

theorem keep_execLpiIdleTimer (h : Keep l a s) (hl : Covers l [.regs, .ports]) :
    KeepOut l a (execLpiIdleTimer b s) := by
  unfold execLpiIdleTimer
  repeat' first
    | with_reducible assumption | exact hl.mono rfl | with_reducible apply keep_modPort
    | with_reducible apply keep_fadd | with_reducible apply keepOut_ite | with_reducible apply keep_ite
    | with_reducible apply keepOut_next

theorem keep_execLpiWakeEnd (h : Keep l a s) (hl : Covers l [.ports]) : KeepOut l a (execLpiWakeEnd b s) := by
  unfold execLpiWakeEnd
  repeat' first
    | with_reducible assumption | exact hl.mono rfl | with_reducible apply keep_modPort
    | with_reducible apply keepOut_ite | with_reducible apply keep_ite | with_reducible apply keepOut_next

theorem keep_execReceiveLpi (h : Keep l a s) (hl : Covers l [.ports]) : KeepOut l a (execReceiveLpi b c s) := by
  unfold execReceiveLpi
  repeat' first
    | with_reducible assumption | exact hl.mono rfl | with_reducible apply keep_modPort
    | with_reducible apply keepOut_ite | with_reducible apply keep_ite | with_reducible apply keepOut_next

theorem keep_execMiiWordError (h : Keep l a s) (hl : Covers l [.regs]) : KeepOut l a (execMiiWordError b c s) := by
  unfold execMiiWordError
  repeat' first
    | with_reducible assumption | exact hl.mono rfl | with_reducible apply keep_fadd
    | with_reducible apply keep_fsetBit | with_reducible apply keep_fset | with_reducible apply keepOut_ite
    | with_reducible apply keep_ite | with_reducible apply keepOut_next | with_reducible exact keepOut_fault | split

theorem keep_refuseRow (h : Keep l a s) (hl : Covers l [.regs]) : Keep l a (refuseRow b c s) := by
  unfold refuseRow
  repeat' first | with_reducible assumption | exact hl.mono rfl | with_reducible apply keep_fset

theorem keep_requestEnable (h : Keep l a s) (hl : Covers l [.regs, .rows, .presses, .engine]) :
    Keep l a (requestEnable b s) := by
  unfold requestEnable
  repeat' first
    | with_reducible assumption | exact hl.mono rfl | with_reducible apply keep_forceCoordinated
    | with_reducible apply keep_fsetBit | with_reducible apply keep_modRow | with_reducible apply keep_refuseRow
    | with_reducible apply keep_ite | split

theorem keep_dropLinks (h : Keep l a s) (hl : Covers l [.regs, .ports]) : Keep l a (dropLinks b s) := by
  unfold dropLinks
  repeat' first
    | with_reducible assumption | exact hl.mono rfl | with_reducible apply keep_modPort
    | with_reducible apply keep_setLink | with_reducible apply keep_foldl | dsimp only | (intro _; intros)

theorem keep_requestDisable (h : Keep l a s) (hl : Covers l [.regs, .rows, .ports]) :
    Keep l a (requestDisable b s) := by
  unfold requestDisable
  repeat' first
    | with_reducible assumption | exact hl.mono rfl | with_reducible apply keep_modRow
    | with_reducible apply keep_fclrBit | with_reducible apply keep_dropLinks | with_reducible apply keep_refuseRow
    | with_reducible apply keep_ite | split

theorem keep_execRowEnableRequest (h : Keep l a s) (hl : Covers l [.regs, .rows, .presses, .engine]) :
    KeepOut l a (execRowEnableRequest b s) := by
  unfold execRowEnableRequest
  repeat' first
    | with_reducible assumption | exact hl.mono rfl | with_reducible apply keep_requestEnable
    | with_reducible apply keepOut_ite | with_reducible apply keep_ite | with_reducible apply keepOut_next

theorem keep_execRowDisableRequest (h : Keep l a s) (hl : Covers l [.regs, .rows, .ports]) :
    KeepOut l a (execRowDisableRequest b s) := by
  unfold execRowDisableRequest
  repeat' first
    | with_reducible assumption | exact hl.mono rfl | with_reducible apply keep_settle
    | with_reducible apply keep_requestDisable | with_reducible apply keepOut_ite | with_reducible apply keep_ite
    | with_reducible apply keepOut_next

theorem keep_enableRow (h : Keep l a s) (hl : Covers l [.regs, .rows, .ports]) : Keep l a (enableRow b s) := by
  unfold enableRow
  repeat' first
    | with_reducible assumption | exact hl.mono rfl | with_reducible apply keep_modPort
    | with_reducible apply keep_modRow | with_reducible apply keep_evalLink | with_reducible apply keep_foldl
    | dsimp only | (intro _; intros)

theorem keep_execRowEnabled (h : Keep l a s) (hl : Covers l [.regs, .rows, .ports]) :
    KeepOut l a (execRowEnabled b s) := by
  unfold execRowEnabled
  repeat' first
    | with_reducible assumption | exact hl.mono rfl | with_reducible apply keep_settle
    | with_reducible apply keep_enableRow | with_reducible apply keepOut_ite | with_reducible apply keep_ite
    | with_reducible apply keepOut_next

theorem keep_execRowDisabled (h : Keep l a s) (hl : Covers l [.rows]) : KeepOut l a (execRowDisabled b s) := by
  unfold execRowDisabled
  repeat' first
    | with_reducible assumption | exact hl.mono rfl | with_reducible apply keep_settle
    | with_reducible apply keep_modRow | with_reducible apply keepOut_ite | with_reducible apply keep_ite
    | with_reducible apply keepOut_next

theorem keep_writeRowCfg (h : Keep l a s) (hl : Covers l [.regs]) : Keep l a (writeRowCfg b c s) := by
  unfold writeRowCfg
  repeat' first
    | with_reducible assumption | exact hl.mono rfl | with_reducible apply keep_setReg
    | with_reducible apply keep_regenerate | with_reducible apply keep_ite

theorem keep_writeCalCfg (h : Keep l a s) (hl : Covers l [.regs]) : Keep l a (writeCalCfg b c s) := by
  unfold writeCalCfg
  repeat' first
    | with_reducible assumption | exact hl.mono rfl | with_reducible apply keep_regenerate
    | with_reducible apply keep_fset | with_reducible apply keep_ite

theorem keep_execRowCfgWrite (h : Keep l a s) (hl : Covers l [.regs]) : KeepOut l a (execRowCfgWrite b c s) := by
  unfold execRowCfgWrite
  repeat' first
    | with_reducible assumption | exact hl.mono rfl | with_reducible apply keep_writeRowCfg
    | with_reducible apply keepOut_ite | with_reducible apply keep_ite | with_reducible apply keepOut_next

theorem keep_execCalendarManualClear (h : Keep l a s) (hl : Covers l [.regs]) :
    KeepOut l a (execCalendarManualClear b s) := by
  unfold execCalendarManualClear
  repeat' first
    | with_reducible assumption | exact hl.mono rfl | with_reducible apply keep_writeCalCfg
    | with_reducible apply keepOut_ite | with_reducible apply keep_ite | with_reducible apply keepOut_next

theorem keep_execTwinRecoveryReset (h : Keep l a s) (hl : Covers l [.regs, .rows]) :
    KeepOut l a (execTwinRecoveryReset b s) := by
  unfold execTwinRecoveryReset
  repeat' first
    | with_reducible assumption | exact hl.mono rfl | with_reducible apply keep_modRow
    | with_reducible apply keep_fset | with_reducible apply keepOut_ite | with_reducible apply keep_ite
    | with_reducible apply keepOut_next

theorem keep_copierReads (h : Keep l a s) (hl : Covers l [.regs, .cellar, .errors]) :
    Keep l a (copierReads b c d s) := by
  unfold copierReads
  repeat' first
    | with_reducible assumption | exact hl.mono rfl | with_reducible apply keep_uncorrectableBank
    | with_reducible apply keep_correctedBank | with_reducible apply keep_ite | with_reducible apply keep_foldl
    | split | dsimp only | refine keep_mk (m := [.cellar]) rfl ?_ (hl.mono rfl) | (intro _; intros)

theorem keep_nextSpare (h : Keep l a s) (hl : Covers l [.regs, .cellar, .errors]) : Keep l a (nextSpare s) :=
  keep_foldl (keep_mk (m := [.cellar]) rfl h (hl.mono rfl)) fun _ _ hu => keep_autoSpare hu (hl.mono rfl)

theorem keep_endBankCopy (h : Keep l a s) (hl : Covers l [.regs, .cellar, .errors]) : Keep l a (endBankCopy b s) := by
  unfold endBankCopy
  repeat' first
    | with_reducible assumption | exact hl.mono rfl | with_reducible apply keep_raiseSource
    | with_reducible apply keep_nextSpare | with_reducible apply keep_ite | split | dsimp only
    | refine keep_mk (m := [.cellar]) rfl ?_ (hl.mono rfl)

theorem keep_execSpareCopyComplete (h : Keep l a s) (hl : Covers l [.regs, .cellar, .errors]) :
    KeepOut l a (execSpareCopyComplete b c s) := by
  unfold execSpareCopyComplete
  repeat' first
    | with_reducible assumption | exact hl.mono rfl | with_reducible apply keep_copierReads
    | with_reducible apply keep_endBankCopy | with_reducible apply keepOut_ite | with_reducible apply keep_ite
    | with_reducible apply keepOut_next | with_reducible exact keepOut_fault | split

/-! ### Machine/Receive.lean -/

theorem keep_loadTimers (h : Keep l a s) (hl : Covers l [.ports]) : Keep l a (loadTimers b c s) := by
  unfold loadTimers
  repeat' first | with_reducible assumption | exact hl.mono rfl | with_reducible apply keep_modPort

theorem keep_macControl (h : Keep l a s) (hl : Covers l [.regs, .ports]) : Keep l a (macControl b c d s) := by
  unfold macControl
  repeat' first
    | with_reducible assumption | exact hl.mono rfl | with_reducible apply keep_modPort
    | with_reducible apply keep_fset | with_reducible apply keep_loadTimers | with_reducible apply keep_count
    | with_reducible apply keep_ite

theorem keep_vectorRecovery (h : Keep l a s) (hl : Covers l [.regs, .rows]) :
    Keep l a (vectorRecovery b c d s).2 := by
  unfold vectorRecovery
  repeat' first
    | with_reducible assumption | exact hl.mono rfl | with_reducible apply keep_setRow
    | with_reducible apply keep_fset | with_reducible apply keep_count | with_reducible apply keep_snd_ite

theorem keep_recover (h : Keep l a s) (hl : Covers l [.regs, .rows]) : Keep l a (recover b c d e s).2 := by
  unfold recover
  repeat' first
    | with_reducible assumption | exact hl.mono rfl | with_reducible apply keep_vectorRecovery
    | with_reducible apply keep_count | with_reducible apply keep_snd_ite

theorem keep_afterRecovery (h : Keep l a s) (hl : Covers l [.regs, .rows]) : Keep l a (afterRecovery b c d s).2 := by
  unfold afterRecovery
  repeat' first
    | with_reducible assumption | exact hl.mono rfl | with_reducible apply keep_recover
    | with_reducible apply keep_snd_ite | with_reducible apply keep_ite | split
    | with_reducible refine keep_fst (by assumption) ?_ | with_reducible refine keep_snd (by assumption) ?_

theorem keep_admitFrame (h : Keep l a s) (hl : Covers l [.regs, .cellar, .presses, .fabric, .pmu]) :
    Keep l a (admitFrame b c d s) := by
  unfold admitFrame
  repeat' first
    | with_reducible assumption | exact hl.mono rfl | with_reducible apply keep_endFrame
    | with_reducible apply keep_chargeCells | with_reducible apply keep_setFrame
    | with_reducible apply keep_enqueueCopy | with_reducible apply keep_fset | with_reducible apply keep_count
    | with_reducible apply keep_ite | split | with_reducible refine keep_fst (by assumption) ?_
    | with_reducible refine keep_snd (by assumption) ?_ | dsimp only

theorem keep_holdArrival (h : Keep l a s) (hl : Covers l [.cellar]) : Keep l a (holdArrival b c s) := by
  unfold holdArrival
  repeat' first
    | with_reducible assumption | exact hl.mono rfl | dsimp only
    | refine keep_mk (m := [.cellar]) rfl ?_ (hl.mono rfl)

theorem keep_rxFiltered (h : Keep l a s) (hl : Covers l [.regs, .cellar, .ports, .fabric, .pmu]) :
    Keep l a (rxFiltered b c d s) := by
  unfold rxFiltered
  repeat' first
    | with_reducible assumption | exact hl.mono rfl | with_reducible apply keep_endFrame
    | with_reducible apply keep_macControl | with_reducible apply keep_holdArrival | with_reducible apply keep_count
    | with_reducible apply keep_ite

theorem keep_rxFrame (h : Keep l a s) (hl : Covers l [.regs, .cellar, .ports, .fabric, .pmu]) :
    Keep l a (rxFrame b c d e i j s) := by
  unfold rxFrame
  repeat' first
    | with_reducible assumption | exact hl.mono rfl | with_reducible apply keep_endFrame
    | with_reducible apply keep_rxFiltered | with_reducible apply keep_fset | with_reducible apply keep_count
    | with_reducible apply keep_ite | split | with_reducible refine keep_fst (by assumption) ?_
    | with_reducible refine keep_snd (by assumption) ?_ | dsimp only
    | refine keep_mk (m := [.cellar]) rfl ?_ (hl.mono rfl)

theorem keep_recoverAll (h : Keep l a s) (hl : Covers l [.regs, .rows, .fabric, .pmu]) :
    Keep l a (recoverAll b s).2 := by
  fun_induction recoverAll b s with
  | case1 => exact h
  | case2 _ _ _ _ _ e ih => exact ih (keep_endFrame (keep_snd e (keep_afterRecovery h (hl.mono rfl))) (hl.mono rfl))
  | case3 _ _ _ _ _ _ _ e _ ih => exact ih (keep_snd e (keep_afterRecovery h (hl.mono rfl)))

theorem keep_admitArrivals (h : Keep l a s) (hl : Covers l [.regs, .cellar, .rows, .presses, .fabric, .pmu]) :
    Keep l a (admitArrivals s) := by
  unfold admitArrivals
  repeat' first
    | with_reducible assumption | exact hl.mono rfl | with_reducible apply keep_recoverAll
    | with_reducible apply keep_admitFrame | with_reducible apply keep_ite | with_reducible apply keep_foldl | split
    | with_reducible refine keep_fst (by assumption) ?_ | with_reducible refine keep_snd (by assumption) ?_
    | dsimp only | refine keep_mk (m := [.cellar]) rfl ?_ (hl.mono rfl) | (intro _; intros)

theorem keep_missFrame (h : Keep l a s) (hl : Covers l [.regs]) : Keep l a (missFrame b s) := by
  unfold missFrame
  repeat' first
    | with_reducible assumption | exact hl.mono rfl | with_reducible apply keep_fadd | with_reducible apply keep_ite

theorem keep_execFrameReceive (h : Keep l a s) (hl : Covers l [.regs, .cellar, .ports, .fabric, .pmu]) :
    KeepOut l a (execFrameReceive b c s) := by
  unfold execFrameReceive
  repeat' first
    | with_reducible assumption | exact hl.mono rfl | with_reducible apply keep_settle
    | with_reducible apply keep_rxFrame | with_reducible apply keep_missFrame | with_reducible apply keepOut_ite
    | with_reducible apply keep_ite | with_reducible apply keepOut_next

/-! ### Machine/Transmit.lean -/

theorem keep_singleCopy (h : Keep l a s) (hl : Covers l [.regs]) : Keep l a (singleCopy b s) := by
  unfold singleCopy
  repeat' first | with_reducible assumption | exact hl.mono rfl | with_reducible apply keep_fset

theorem keep_drawSeq (h : Keep l a s) (hl : Covers l [.rows]) : Keep l a (drawSeq b s).2 := by
  unfold drawSeq
  repeat' first | with_reducible assumption | exact hl.mono rfl | with_reducible apply keep_setRow

theorem keep_takeFrame (h : Keep l a s) (hl : Covers l [.ports]) : Keep l a (takeFrame b c s) := by
  unfold takeFrame
  repeat' first | with_reducible assumption | exact hl.mono rfl | with_reducible apply keep_modPort

theorem keep_chargeShaper (h : Keep l a s) (hl : Covers l [.chans]) : Keep l a (chargeShaper b c d s) := by
  unfold chargeShaper
  repeat' first
    | with_reducible assumption | exact hl.mono rfl | with_reducible apply keep_modTx | with_reducible apply keep_ite

theorem keep_startChain (h : Keep l a s) (hl : Covers l [.regs, .chans, .rings, .book, .cellar, .ports, .fabric, .aux, .power, .pmu]) :
    Keep l a (startChain b c d e i j k m s) := by
  unfold startChain
  repeat' first
    | with_reducible assumption | exact hl.mono rfl | with_reducible apply keep_syncChan
    | with_reducible apply keep_chargeShaper | with_reducible apply keep_modChain | with_reducible apply keep_launch
    | with_reducible apply keep_takeFrame | with_reducible apply keep_ite

theorem keep_dropCopy (h : Keep l a s) (hl : Covers l [.chans, .ports]) : Keep l a (dropCopy b c d s) := by
  unfold dropCopy
  repeat' first
    | with_reducible assumption | exact hl.mono rfl | with_reducible apply keep_syncChan
    | with_reducible apply keep_modChain

theorem keep_tagMate (h : Keep l a s) (hl : Covers l [.chans, .ports]) : Keep l a (tagMate b c d e i s) := by
  unfold tagMate
  repeat' first
    | with_reducible assumption | exact hl.mono rfl | with_reducible apply keep_setFwdQueue
    | with_reducible apply keep_modChain | with_reducible apply keep_ite | split

theorem keep_dropAt (h : Keep l a s) (hl : Covers l [.regs, .chans, .cellar, .ports, .fabric, .pmu]) :
    Keep l a (dropAt b c d s) := by
  unfold dropAt
  repeat' first
    | with_reducible assumption | exact hl.mono rfl | with_reducible apply keep_setFwdQueue
    | with_reducible apply keep_dropFwd | with_reducible apply keep_fwdFit | with_reducible apply keep_dropCopy
    | split

theorem keep_startHead (h : Keep l a s) (hl : Covers l [.regs, .chans, .rings, .book, .cellar, .ports, .fabric, .aux, .power, .pmu]) :
    Keep l a (startHead b c d e i j s) := by
  unfold startHead
  repeat' first
    | with_reducible assumption | exact hl.mono rfl | with_reducible apply keep_setFwdQueue
    | with_reducible apply keep_fwdFit | with_reducible apply keep_startChain | with_reducible apply keep_takeFrame
    | split

theorem keep_startTwin (h : Keep l a s) (hl : Covers l [.regs, .chans, .rings, .book, .cellar, .rows, .ports, .fabric, .aux, .power, .pmu]) :
    Keep l a (startTwin b c d e s) := by
  unfold startTwin
  repeat' first
    | with_reducible assumption | exact hl.mono rfl | with_reducible apply keep_dropAt
    | with_reducible apply keep_singleCopy | with_reducible apply keep_tagMate | with_reducible apply keep_drawSeq
    | with_reducible apply keep_startHead | with_reducible apply keep_ite | split
    | with_reducible refine keep_fst (by assumption) ?_ | with_reducible refine keep_snd (by assumption) ?_
    | dsimp only

theorem keep_setRound (h : Keep l a s) (hl : Covers l [.ports]) : Keep l a (setRound b c d e s) := by
  unfold setRound
  repeat' first | with_reducible assumption | exact hl.mono rfl | with_reducible apply keep_modPort

theorem keep_selectFrom (h : Keep l a s) (hl : Covers l [.regs, .chans, .rings, .book, .cellar, .rows, .ports, .engine, .fabric, .aux, .power, .pmu]) :
    Keep l a (selectFrom b c s) := by
  induction c generalizing s with
  | nil => exact h
  | cons _ _ ih =>
    unfold selectFrom
    repeat' first
      | with_reducible apply ih | with_reducible assumption | exact hl.mono rfl | with_reducible apply keep_stage
      | with_reducible apply keep_setRound | with_reducible apply keep_startTwin | with_reducible apply keep_ite
      | split

theorem keep_askAt (h : Keep l a s) (hl : Covers l [.regs, .chans, .rings, .book, .fabric]) :
    Keep l a (askAt b s) := by
  unfold askAt
  repeat' first
    | with_reducible assumption | exact hl.mono rfl | with_reducible apply keep_askSlots
    | with_reducible apply keep_ite | with_reducible apply keep_foldl | split
    | with_reducible refine keep_fst (by assumption) ?_ | with_reducible refine keep_snd (by assumption) ?_
    | dsimp only | (intro _; intros)

theorem keep_execSchedulerDecision (h : Keep l a s) (hl : Covers l [.regs, .chans, .rings, .book, .cellar, .rows, .ports, .engine, .fabric, .aux, .power, .pmu]) :
    KeepOut l a (execSchedulerDecision b s) := by
  unfold execSchedulerDecision
  repeat' first
    | with_reducible assumption | exact hl.mono rfl | with_reducible apply keep_settle
    | with_reducible apply keep_selectFrom | with_reducible apply keep_askAt | with_reducible apply keepOut_ite
    | with_reducible apply keep_ite | with_reducible apply keepOut_next

theorem keep_noteCrossing (h : Keep l a s) (hl : Covers l [.chans]) : Keep l a (noteCrossing b c d s) := by
  unfold noteCrossing
  repeat' first | with_reducible assumption | exact hl.mono rfl | with_reducible apply keep_modChain | split

theorem keep_startOnMii (h : Keep l a s) (hl : Covers l [.chans, .ports]) : Keep l a (startOnMii b c s) := by
  unfold startOnMii
  repeat' first
    | with_reducible assumption | exact hl.mono rfl | with_reducible apply keep_noteCrossing
    | with_reducible apply keep_takeFrame | with_reducible apply keep_count | with_reducible apply keep_ite

theorem keep_clearCur (h : Keep l a s) (hl : Covers l [.ports]) : Keep l a (clearCur b s) := by
  unfold clearCur
  repeat' first | with_reducible assumption | exact hl.mono rfl | with_reducible apply keep_modPort

theorem keep_stagedBad (h : Keep l a s) (hl : Covers l [.chans, .cellar, .ports, .presses, .fabric, .pmu]) :
    Keep l a (stagedBad b c s) := by
  unfold stagedBad
  repeat' first
    | with_reducible assumption | exact hl.mono rfl | with_reducible apply keep_loseFwd
    | with_reducible apply keep_rereadChain | with_reducible apply keep_clearCur | with_reducible apply keep_count
    | split | with_reducible refine keep_fst (by assumption) ?_ | with_reducible refine keep_snd (by assumption) ?_
    | dsimp only | (intro _; intros)

theorem keep_internalFcs (h : Keep l a s) (hl : Covers l [.regs, .cellar, .ports, .fabric, .errors, .pmu]) :
    Keep l a (internalFcs b c s) := by
  unfold internalFcs
  extract_lets s1 s2
  have h1 : Keep l a s1 := keep_count h
  have h2 : Keep l a s2 := keep_postError (keep_fset h1 (hl.mono rfl)) (hl.mono rfl)
  have h3 := keep_clearCur (b := b) h2 (hl.mono rfl)
  split
  · exact keep_loseFwd h3 (hl.mono rfl) fun _ hu => hu
  · exact h3

theorem keep_staged (h : Keep l a s) (hl : Covers l [.regs, .chans, .cellar, .ports, .presses, .fabric, .errors, .pmu]) :
    Keep l a (staged b c d s) := by
  unfold staged
  repeat' first
    | with_reducible assumption | exact hl.mono rfl | with_reducible apply keep_readCells
    | with_reducible apply keep_internalFcs | with_reducible apply keep_stagedBad
    | with_reducible apply keep_startOnMii | with_reducible apply keep_ite

theorem keep_execTxStaged (h : Keep l a s) (hl : Covers l [.regs, .chans, .cellar, .ports, .presses, .fabric, .errors, .pmu]) :
    KeepOut l a (execTxStaged b c s) := by
  unfold execTxStaged
  repeat' first
    | with_reducible assumption | exact hl.mono rfl | with_reducible apply keep_settle
    | with_reducible apply keep_staged | with_reducible apply keepOut_ite | with_reducible apply keep_ite
    | with_reducible apply keepOut_next | with_reducible exact keepOut_fault | split

theorem keep_noteOverrun (h : Keep l a s) (hl : Covers l [.regs, .ports]) : Keep l a (noteOverrun b s) := by
  unfold noteOverrun
  repeat' first
    | with_reducible assumption | exact hl.mono rfl | with_reducible apply keep_countOverrun
    | with_reducible apply keep_takeFrame | with_reducible apply keep_ite | split

theorem keep_copyEnded (h : Keep l a s) (hl : Covers l [.regs, .chans, .rings, .book, .cellar, .ports, .presses, .fabric, .aux, .power, .pmu]) :
    Keep l a (copyEnded b c d s) := by
  unfold copyEnded
  repeat' first
    | with_reducible assumption | exact hl.mono rfl | with_reducible apply keep_sent
    | with_reducible apply keep_modChain | with_reducible apply keep_progress | with_reducible apply keep_ite | split
    | with_reducible refine keep_fst (by assumption) ?_ | with_reducible refine keep_snd (by assumption) ?_
    | dsimp only

theorem keep_sourceEnded (h : Keep l a s) (hl : Covers l [.regs, .chans, .rings, .book, .cellar, .ports, .presses, .fabric, .aux, .power, .pmu]) :
    Keep l a (sourceEnded b c s) := by
  unfold sourceEnded
  repeat' first
    | with_reducible assumption | exact hl.mono rfl | with_reducible apply keep_endFrame
    | with_reducible apply keep_copyEnded | with_reducible apply keep_dropFwd | split

theorem keep_loopBack (h : Keep l a s) (hl : Covers l [.regs, .cellar, .ports, .fabric, .pmu]) :
    Keep l a (loopBack b c d e i j s) := by
  unfold loopBack
  repeat' first
    | with_reducible assumption | exact hl.mono rfl | with_reducible apply keep_modPort
    | with_reducible apply keep_rxFrame | with_reducible apply keep_ite

theorem keep_frameEnd (h : Keep l a s) (hl : Covers l [.regs, .chans, .rings, .book, .cellar, .ports, .presses, .fabric, .aux, .power, .pmu]) :
    Keep l a (frameEnd b c d s) := by
  unfold frameEnd
  repeat' first
    | with_reducible assumption | exact hl.mono rfl | with_reducible apply keep_sourceEnded
    | with_reducible apply keep_noteOverrun | with_reducible apply keep_loopBack | with_reducible apply keep_clearCur
    | with_reducible apply keep_count | with_reducible apply keep_ite

theorem keep_execFrameTransmitEnd (h : Keep l a s) (hl : Covers l [.regs, .chans, .rings, .book, .cellar, .ports, .presses, .fabric, .aux, .power, .pmu]) :
    KeepOut l a (execFrameTransmitEnd b c s) := by
  unfold execFrameTransmitEnd
  repeat' first
    | with_reducible assumption | exact hl.mono rfl | with_reducible apply keep_frameEnd
    | with_reducible apply keep_settle | with_reducible apply keepOut_ite | with_reducible apply keep_ite
    | with_reducible apply keepOut_next | with_reducible exact keepOut_fault | split

theorem keep_sendPause (h : Keep l a s) (hl : Covers l [.regs, .cellar, .ports, .fabric, .pmu]) :
    Keep l a (sendPause b s) := by
  unfold sendPause
  repeat' first
    | with_reducible assumption | exact hl.mono rfl | with_reducible apply keep_modPort
    | with_reducible apply keep_loopBack | with_reducible apply keep_count

theorem keep_execPauseFrameTransmit (h : Keep l a s) (hl : Covers l [.regs, .cellar, .ports, .fabric, .pmu]) :
    KeepOut l a (execPauseFrameTransmit b s) := by
  unfold execPauseFrameTransmit
  repeat' first
    | with_reducible assumption | exact hl.mono rfl | with_reducible apply keep_settle
    | with_reducible apply keep_sendPause | with_reducible apply keepOut_ite | with_reducible apply keep_ite
    | with_reducible apply keepOut_next

theorem keep_execPauseRefreshTimer (h : Keep l a s) (hl : Covers l [.ports]) :
    KeepOut l a (execPauseRefreshTimer b c s) := by
  unfold execPauseRefreshTimer
  repeat' first
    | with_reducible assumption | exact hl.mono rfl | with_reducible apply keep_modPort
    | with_reducible apply keep_settle | with_reducible apply keepOut_ite | with_reducible apply keep_ite
    | with_reducible apply keepOut_next | with_reducible exact keepOut_fault | split

theorem keep_execPauseTimerExpiry (h : Keep l a s) (hl : Covers l [.ports]) :
    KeepOut l a (execPauseTimerExpiry b c s) := by
  unfold execPauseTimerExpiry
  repeat' first
    | with_reducible assumption | exact hl.mono rfl | with_reducible apply keep_modPort
    | with_reducible apply keepOut_ite | with_reducible apply keep_ite | with_reducible apply keepOut_next
    | with_reducible exact keepOut_fault | split

/-! ### Machine/GateList.lean -/

theorem keep_refuseLoad (h : Keep l a s) (hl : Covers l [.regs, .rows, .ports]) : Keep l a (refuseLoad b c d s) := by
  unfold refuseLoad
  repeat' first
    | with_reducible assumption | exact hl.mono rfl | with_reducible apply keep_modPort
    | with_reducible apply keep_modRow | with_reducible apply keep_fset

theorem keep_gateFields (h : Keep l a s) (hl : Covers l [.regs]) : Keep l a (gateFields b c d s) := by
  unfold gateFields
  repeat' first | with_reducible assumption | exact hl.mono rfl | with_reducible apply keep_fset

theorem keep_startLoad (h : Keep l a s) (hl : Covers l [.regs, .rows, .ports, .fabric]) :
    Keep l a (startLoad b c d s) := by
  unfold startLoad
  repeat' first
    | with_reducible assumption | exact hl.mono rfl | with_reducible apply keep_submitRead
    | with_reducible apply keep_refuseLoad | with_reducible apply keep_modRow | with_reducible apply keep_ite
    | with_reducible apply keep_foldl | split | dsimp only | (intro _; intros)

theorem keep_gateLoad (h : Keep l a s) (hl : Covers l [.regs, .rows, .ports, .fabric]) :
    Keep l a (gateLoad b c d s) := by
  unfold gateLoad
  repeat' first
    | with_reducible assumption | exact hl.mono rfl | with_reducible apply keep_gateFields
    | with_reducible apply keep_startLoad | with_reducible apply keep_ite

theorem keep_imageDone (h : Keep l a s) (hl : Covers l [.regs, .rows, .ports]) : Keep l a (imageDone b c s) := by
  unfold imageDone
  repeat' first
    | with_reducible assumption | exact hl.mono rfl | with_reducible apply keep_modPort
    | with_reducible apply keep_refuseLoad | with_reducible apply keep_modRow | split
    | with_reducible refine keep_fst (by assumption) ?_ | with_reducible refine keep_snd (by assumption) ?_
    | dsimp only

theorem keep_execGateListLoad (h : Keep l a s) (hl : Covers l [.regs, .rows, .ports, .fabric]) :
    KeepOut l a (execGateListLoad b c s) := by
  unfold execGateListLoad
  repeat' first
    | with_reducible assumption | exact hl.mono rfl | with_reducible apply keep_settle
    | with_reducible apply keep_gateLoad | with_reducible apply keepOut_ite | with_reducible apply keep_ite
    | with_reducible apply keepOut_next

theorem keep_refuseCommit (h : Keep l a s) (hl : Covers l [.regs]) : Keep l a (refuseCommit b c s) := by
  unfold refuseCommit
  repeat' first | with_reducible assumption | exact hl.mono rfl | with_reducible apply keep_fset

theorem keep_gateCommit (h : Keep l a s) (hl : Covers l [.regs, .ports]) : Keep l a (gateCommit b s) := by
  unfold gateCommit
  repeat' first
    | with_reducible assumption | exact hl.mono rfl | with_reducible apply keep_modPort
    | with_reducible apply keep_refuseCommit | with_reducible apply keep_ite | split

theorem keep_gateCancel (h : Keep l a s) (hl : Covers l [.ports]) : Keep l a (gateCancel b s) := by
  unfold gateCancel
  repeat' first | with_reducible assumption | exact hl.mono rfl | with_reducible apply keep_modPort

theorem keep_execGateCancel (h : Keep l a s) (hl : Covers l [.ports]) : KeepOut l a (execGateCancel b s) := by
  unfold execGateCancel
  repeat' first
    | with_reducible assumption | exact hl.mono rfl | with_reducible apply keep_gateCancel
    | with_reducible apply keepOut_ite | with_reducible apply keep_ite | with_reducible apply keepOut_next

theorem keep_retestLaunched (h : Keep l a s) (hl : Covers l [.regs, .chans, .rings, .book, .cellar, .ports, .presses, .fabric, .aux, .power, .pmu]) :
    Keep l a (retestLaunched b c s) := by
  unfold retestLaunched
  repeat' first
    | with_reducible assumption | exact hl.mono rfl | with_reducible apply keep_countNofit
    | with_reducible apply keep_sent | with_reducible apply keep_progress | with_reducible apply keep_fset
    | with_reducible apply keep_dropCopy | with_reducible apply keep_ite | split
    | with_reducible refine keep_fst (by assumption) ?_ | with_reducible refine keep_snd (by assumption) ?_
    | dsimp only

theorem keep_retestChan (h : Keep l a s) (hl : Covers l [.regs, .chans, .rings, .book, .cellar, .ports, .presses, .fabric, .aux, .power, .pmu]) :
    Keep l a (retestChan b c s) := by
  unfold retestChan
  repeat' first
    | with_reducible assumption | exact hl.mono rfl | with_reducible apply keep_retestLaunched
    | with_reducible apply keep_modChain | with_reducible apply keep_progress | with_reducible apply keep_ite | split
    | with_reducible refine keep_fst (by assumption) ?_ | with_reducible refine keep_snd (by assumption) ?_
    | dsimp only

theorem keep_retest (h : Keep l a s) (hl : Covers l [.regs, .chans, .rings, .book, .cellar, .ports, .presses, .fabric, .aux, .power, .pmu]) :
    Keep l a (retest b s) := by
  unfold retest
  repeat' first
    | with_reducible assumption | exact hl.mono rfl | with_reducible apply keep_fwdFit
    | with_reducible apply keep_noteOverrun | with_reducible apply keep_retestChan | with_reducible apply keep_foldl
    | dsimp only | (intro _; intros)

theorem keep_switchList (h : Keep l a s) (hl : Covers l [.regs, .chans, .rings, .book, .cellar, .ports, .presses, .fabric, .aux, .power, .pmu]) :
    Keep l a (switchList b c s) := by
  unfold switchList
  repeat' first
    | with_reducible assumption | exact hl.mono rfl | with_reducible apply keep_modPort
    | with_reducible apply keep_retest

theorem keep_execGateListSwitch (h : Keep l a s) (hl : Covers l [.regs, .chans, .rings, .book, .cellar, .ports, .presses, .fabric, .aux, .power, .pmu]) :
    KeepOut l a (execGateListSwitch b s) := by
  unfold execGateListSwitch
  repeat' first
    | with_reducible assumption | exact hl.mono rfl | with_reducible apply keep_settle
    | with_reducible apply keep_switchList | with_reducible apply keepOut_ite | with_reducible apply keep_ite
    | with_reducible apply keepOut_next | with_reducible exact keepOut_fault | split

theorem keep_execGateEntryChange (h : Keep l a s) (hl : Covers l [.regs, .ports]) :
    KeepOut l a (execGateEntryChange b s) := by
  unfold execGateEntryChange
  repeat' first
    | with_reducible assumption | exact hl.mono rfl | with_reducible apply keep_noteOverrun
    | with_reducible apply keepOut_ite | with_reducible apply keep_ite | with_reducible apply keepOut_next

theorem keep_gatesStepped (h : Keep l a s) (hl : Covers l [.regs, .chans, .rings, .book, .cellar, .ports, .presses, .fabric, .aux, .power, .pmu]) :
    Keep l a (gatesStepped s) := by
  unfold gatesStepped
  repeat' first
    | with_reducible assumption | exact hl.mono rfl | with_reducible apply keep_switchList
    | with_reducible apply keep_noteOverrun | with_reducible apply keep_fset | with_reducible apply keep_ite
    | with_reducible apply keep_foldl | split | with_reducible refine keep_fst (by assumption) ?_
    | with_reducible refine keep_snd (by assumption) ?_ | dsimp only | (intro _; intros)

/-! ### Machine/Assign.lean -/

theorem keep_reserveAssign (h : Keep l a s) (hl : Covers l [.regs, .chans, .rings, .book, .cellar, .fabric, .aux, .power, .errors, .pmu, .serial]) :
    Keep l a (reserveAssign b c d e i j s) := by
  unfold reserveAssign
  repeat' first
    | with_reducible assumption | exact hl.mono rfl | with_reducible apply keep_reservePlace
    | with_reducible apply keep_assignFrame | with_reducible apply keep_reserveLog | with_reducible apply keep_ite
    | split | with_reducible refine keep_fst (by assumption) ?_ | with_reducible refine keep_snd (by assumption) ?_

theorem keep_dropHead (h : Keep l a s) (hl : Covers l [.chans, .cellar, .fabric, .pmu]) :
    Keep l a (dropHead b c d s) := by
  unfold dropHead
  repeat' first
    | with_reducible assumption | exact hl.mono rfl | with_reducible apply keep_modRx
    | with_reducible apply keep_dropWaiting | with_reducible apply keep_fetchRx

theorem keep_assignChecked (h : Keep l a s) (hl : Covers l [.regs, .chans, .rings, .book, .cellar, .fabric, .cvTest, .aux, .power, .errors, .pmu, .serial]) :
    Keep l a (assignChecked b c d e s) := by
  unfold assignChecked
  repeat' first
    | with_reducible assumption | exact hl.mono rfl | with_reducible apply keep_cvOutcome
    | with_reducible apply keep_reserveAssign | with_reducible apply keep_ite

theorem keep_receiveAssign (h : Keep l a s) (hl : Covers l [.regs, .chans, .rings, .book, .cellar, .fabric, .cvTest, .aux, .power, .errors, .pmu, .serial]) :
    Keep l a (receiveAssign b c d s) := by
  unfold receiveAssign
  repeat' first
    | with_reducible assumption | exact hl.mono rfl | with_reducible apply keep_assignChecked
    | with_reducible apply keep_readCells | with_reducible apply keep_reserveAssign
    | with_reducible apply keep_fetchRx | with_reducible apply keep_dropHead | with_reducible apply keep_ite | split
    | with_reducible refine keep_fst (by assumption) ?_ | with_reducible refine keep_snd (by assumption) ?_
    | dsimp only

theorem keep_execReceiveAssign (h : Keep l a s) (hl : Covers l [.regs, .chans, .rings, .book, .cellar, .fabric, .cvTest, .aux, .power, .errors, .pmu, .serial]) :
    KeepOut l a (execReceiveAssign b c d s) := by
  unfold execReceiveAssign
  repeat' first
    | with_reducible assumption | exact hl.mono rfl | with_reducible apply keep_settle
    | with_reducible apply keep_receiveAssign | with_reducible apply keepOut_ite | with_reducible apply keep_ite
    | with_reducible apply keepOut_next

theorem keep_execRxWaitLimit (h : Keep l a s) (hl : Covers l [.chans, .cellar, .fabric, .pmu]) :
    KeepOut l a (execRxWaitLimit b c s) := by
  unfold execRxWaitLimit
  repeat' first
    | with_reducible assumption | exact hl.mono rfl | with_reducible apply keep_waitLimit
    | with_reducible apply keep_settle | with_reducible apply keep_fetchRx | with_reducible apply keepOut_ite
    | with_reducible apply keep_ite | with_reducible apply keepOut_next | with_reducible exact keepOut_fault | split

theorem keep_stageNext (h : Keep l a s) (hl : Covers l [.chans, .cellar, .fabric]) : Keep l a (stageNext s) := by
  unfold stageNext
  repeat' first
    | with_reducible assumption | exact hl.mono rfl | with_reducible apply keep_enqueueStage
    | with_reducible apply keep_startStaging | with_reducible apply keep_ite | split
    | with_reducible refine keep_fst (by assumption) ?_ | with_reducible refine keep_snd (by assumption) ?_
    | dsimp only | refine keep_mk (m := [.cellar]) rfl ?_ (hl.mono rfl)

theorem keep_execChainStage (h : Keep l a s) (hl : Covers l [.chans, .cellar, .fabric]) :
    KeepOut l a (execChainStage s) := by
  unfold execChainStage
  repeat' first
    | with_reducible assumption | exact hl.mono rfl | with_reducible apply keep_settle
    | with_reducible apply keep_stageNext | with_reducible apply keepOut_ite | with_reducible apply keep_ite
    | with_reducible apply keepOut_next

theorem keep_execChainSettle (h : Keep l a s) (hl : Covers l [.regs, .chans, .rings, .book, .cellar, .ports, .presses, .fabric, .aux, .power, .pmu]) :
    KeepOut l a (execChainSettle b s) := by
  unfold execChainSettle
  repeat' first
    | with_reducible assumption | exact hl.mono rfl | with_reducible apply keep_settle
    | with_reducible apply keep_progress | with_reducible apply keepOut_ite | with_reducible apply keep_ite
    | with_reducible apply keepOut_next

/-! ### Machine/CvuTest.lean -/

theorem keep_cvuTestCtl (h : Keep l a s) (hl : Covers l [.regs, .cvTest]) : Keep l a (cvuTestCtl b s) := by
  unfold cvuTestCtl
  repeat' first
    | with_reducible assumption | exact hl.mono rfl | with_reducible apply keep_fset | with_reducible apply keep_ite
    | split | dsimp only | refine keep_mk (m := [.cvTest]) rfl ?_ (hl.mono rfl)

theorem keep_cvuTestData (h : Keep l a s) (hl : Covers l [.cvTest]) : Keep l a (cvuTestData b s) := by
  unfold cvuTestData
  repeat' first
    | with_reducible assumption | exact hl.mono rfl | with_reducible apply keep_ite | split | dsimp only
    | refine keep_mk (m := [.cvTest]) rfl ?_ (hl.mono rfl)

theorem keep_execCvuTestStart (h : Keep l a s) (hl : Covers l [.regs, .cvTest]) :
    KeepOut l a (execCvuTestStart b s) := by
  unfold execCvuTestStart
  repeat' first
    | with_reducible assumption | exact hl.mono rfl | with_reducible apply keep_cvuTestCtl
    | with_reducible apply keepOut_ite | with_reducible apply keep_ite | with_reducible apply keepOut_next

theorem keep_execCvuTestData (h : Keep l a s) (hl : Covers l [.cvTest]) : KeepOut l a (execCvuTestData b s) := by
  unfold execCvuTestData
  repeat' first
    | with_reducible assumption | exact hl.mono rfl | with_reducible apply keep_cvuTestData
    | with_reducible apply keepOut_ite | with_reducible apply keep_ite | with_reducible apply keepOut_next

theorem keep_execCvlogProdTimer (h : Keep l a s) (hl : Covers l [.chans, .fabric]) :
    KeepOut l a (execCvlogProdTimer b s) := by
  unfold execCvlogProdTimer
  repeat' first
    | with_reducible assumption | exact hl.mono rfl | with_reducible apply keep_settle
    | with_reducible apply keep_flushLogProd | with_reducible apply keepOut_ite | with_reducible apply keep_ite
    | with_reducible apply keepOut_next

theorem keep_execLogSlotReread (h : Keep l a s) (hl : Covers l [.chans, .fabric]) :
    KeepOut l a (execLogSlotReread b s) := by
  unfold execLogSlotReread
  repeat' first
    | with_reducible assumption | exact hl.mono rfl | with_reducible apply keep_settle
    | with_reducible apply keep_readLogCons | with_reducible apply keepOut_ite | with_reducible apply keep_ite
    | with_reducible apply keepOut_next

/-! ### Machine/Clock.lean -/

theorem keep_timeCapture (h : Keep l a s) (hl : Covers l [.rdata, .time]) : Keep l a (timeCapture s) := by
  unfold timeCapture
  repeat' first
    | with_reducible assumption | exact hl.mono rfl | dsimp only
    | refine keep_mk (m := [.rdata, .time]) rfl ?_ (hl.mono rfl)

theorem keep_changeTime (h : Keep l a s) (hl : Covers l [.time]) : Keep l a (changeTime b s) := by
  unfold changeTime
  repeat' first
    | with_reducible assumption | exact hl.mono rfl | dsimp only | refine keep_mk (m := [.time]) rfl ?_ (hl.mono rfl)

theorem keep_fireTrigger (h : Keep l a s) (hl : Covers l [.regs, .time]) : Keep l a (fireTrigger s) := by
  unfold fireTrigger
  repeat' first
    | with_reducible assumption | exact hl.mono rfl | with_reducible apply keep_raiseSource
    | with_reducible apply keep_fset | dsimp only | refine keep_mk (m := [.time]) rfl ?_ (hl.mono rfl)

theorem keep_checkTrigger (h : Keep l a s) (hl : Covers l [.regs, .time]) : Keep l a (checkTrigger s) := by
  unfold checkTrigger
  repeat' first
    | with_reducible assumption | exact hl.mono rfl | with_reducible apply keep_fireTrigger
    | with_reducible apply keep_ite

theorem keep_stepped (h : Keep l a s) (hl : Covers l [.regs, .chans, .rings, .book, .cellar, .ports, .presses, .fabric, .time, .aux, .power, .pmu]) :
    Keep l a (stepped s) := by
  unfold stepped
  repeat' first
    | with_reducible assumption | exact hl.mono rfl | with_reducible apply keep_gatesStepped
    | with_reducible apply keep_checkTrigger

theorem keep_timeLoad (h : Keep l a s) (hl : Covers l [.time]) : Keep l a (timeLoad s) := by
  unfold timeLoad
  repeat' first | with_reducible assumption | exact hl.mono rfl | with_reducible apply keep_changeTime

theorem keep_timeStep (h : Keep l a s) (hl : Covers l [.regs, .time]) : Keep l a (timeStep b s) := by
  unfold timeStep
  repeat' first
    | with_reducible assumption | exact hl.mono rfl | with_reducible apply keep_fset
    | with_reducible apply keep_changeTime

theorem keep_timeIncr (h : Keep l a s) (hl : Covers l [.regs, .time]) : Keep l a (timeIncr b s) := by
  unfold timeIncr
  repeat' first
    | with_reducible assumption | exact hl.mono rfl | with_reducible apply keep_fset
    | with_reducible apply keep_changeTime

theorem Time.wf_incr {t : Time} {v : Nat} (h : t.wf) : ({ t with incr := incrOf v } : Time).wf :=
  ⟨h.1, by unfold incrOf clamp; dsimp only; split <;> first | decide | (split <;> omega)⟩

theorem Time.wf_loaded {t : Time} {i j k n : Nat} (h : t.wf) : (t.loaded i j k n).wf :=
  ⟨⟨Nat.mod_lt _ (by decide), by show nsField _ < _; unfold nsField; omega, Nat.mod_lt _ (by decide),
    Nat.mod_lt _ (by decide)⟩, h.2⟩

theorem Time.wf_step {t u : Time} {neg : Bool} {sec ns : Nat} (h : t.wf) (e : t.step neg sec ns = some u) : u.wf := by
  obtain ⟨⟨h1, h2, h3, h4⟩, h5⟩ := h
  unfold Time.step at e
  dsimp only at e
  split at e
  · split at e
    · cases e
    · cases e
      refine ⟨⟨?_, Nat.mod_lt _ (by decide), h3, h4⟩, h5⟩
      show (_ - _) / 1000000000 < 2 ^ 48
      rw [Nat.div_lt_iff_lt_mul (by decide)]
      omega
  · cases e
    exact ⟨⟨Nat.mod_lt _ (by decide), Nat.mod_lt _ (by decide), h3, h4⟩, h5⟩

theorem keep_applyChange (h : Keep l a s) (hl : Covers l [.regs, .chans, .rings, .book, .cellar, .ports, .presses, .fabric, .time, .aux, .power, .pmu]) :
    Keep l a (applyChange b s) := by
  unfold applyChange
  split
  · exact keep_mk (m := [.time]) rfl h (hl.mono rfl) (h13 := Time.wf_incr)
  · exact keep_stepped (keep_mk (m := [.time]) rfl h (hl.mono rfl) (h13 := Time.wf_loaded)) (hl.mono rfl)
  · split
    · exact keep_fset h (hl.mono rfl)
    · exact keep_stepped (keep_mk (m := [.time]) rfl h (hl.mono rfl) (h13 := fun ht => Time.wf_step ht ‹_›)) (hl.mono rfl)

theorem keep_ppsEdge (h : Keep l a s) (hl : Covers l [.time]) : Keep l a (ppsEdge s) := by
  unfold ppsEdge
  repeat' first
    | with_reducible assumption | exact hl.mono rfl | with_reducible apply keep_ite | split | dsimp only
    | refine keep_mk (m := [.time]) rfl ?_ (hl.mono rfl)

theorem Time.wf_advance {t : Time} {n : Nat} (h : t.wf) (hn : n ≤ 0x18000000) : (t.advance n).wf := by
  obtain ⟨⟨h1, h2, h3, h4⟩, h5⟩ := h
  unfold Time.advance Time.wf
  dsimp only
  have ha : n / 2 ^ 28 ≤ 1 := by omega
  have hb : (t.frac * 2 ^ 12 + t.sub + n % 2 ^ 28) / 2 ^ 28 ≤ 1 := by omega
  split
  · exact ⟨⟨Nat.mod_lt _ (by decide), by dsimp only; omega, Nat.mod_lt _ (by decide), Nat.mod_lt _ (by decide)⟩, h5⟩
  · exact ⟨⟨h1, by dsimp only; omega, Nat.mod_lt _ (by decide), Nat.mod_lt _ (by decide)⟩, h5⟩

theorem keep_sclkEdge (h : Keep l a s) (hl : Covers l [.regs, .time]) : Keep l a (sclkEdge s) :=
  keep_checkTrigger (keep_ppsEdge (keep_mk (m := [.time]) rfl h (hl.mono rfl)
    (h13 := fun ht => Time.wf_advance ht ht.2.2)) (hl.mono rfl)) (hl.mono rfl)

theorem keep_afterEdge (h : Keep l a s) (hl : Covers l [.regs, .chans, .rings, .book, .cellar, .ports, .presses, .fabric, .time, .aux, .power, .pmu]) :
    Keep l a (afterEdge s) := by
  unfold afterEdge
  repeat' first
    | with_reducible assumption | exact hl.mono rfl | with_reducible apply keep_applyChange
    | with_reducible apply keep_foldl | dsimp only | refine keep_mk (m := [.time]) rfl ?_ (hl.mono rfl)
    | (intro _; intros)

theorem keep_portTurn (h : Keep l a s) (hl : Covers l turnParts) : Keep l a (portTurn s) := by
  unfold portTurn
  exact keep_ite h (keep_afterEdge (keep_mk (m := [.time]) rfl h (hl.mono rfl) (h13 := fun ht => ht)) (hl.mono rfl))

theorem keep_execGateCommit (h : Keep l a (portTurn s)) (hl : Covers l [.regs, .ports]) :
    KeepOut l a (execGateCommit b s) := by
  unfold execGateCommit
  repeat' first
    | with_reducible assumption | exact hl.mono rfl | with_reducible apply keep_gateCommit
    | with_reducible apply keepOut_ite | with_reducible apply keep_ite | with_reducible apply keepOut_next

theorem keep_execTimeIncrWrite (h : Keep l a s) (hl : Covers l [.regs, .time]) :
    KeepOut l a (execTimeIncrWrite b s) := by
  unfold execTimeIncrWrite
  repeat' first
    | with_reducible assumption | exact hl.mono rfl | with_reducible apply keep_timeIncr
    | with_reducible apply keepOut_ite | with_reducible apply keep_ite | with_reducible apply keepOut_next

theorem keep_execTimeCaptureRead (h : Keep l a (portTurn s)) (hl : Covers l [.rdata, .time]) :
    KeepOut l a (execTimeCaptureRead s) := by
  unfold execTimeCaptureRead
  repeat' first
    | with_reducible assumption | exact hl.mono rfl | with_reducible apply keep_timeCapture
    | with_reducible apply keepOut_ite | with_reducible apply keep_ite | with_reducible apply keepOut_next
    | with_reducible exact keepOut_fault | split | dsimp only | refine keep_mk (m := [.rdata]) rfl ?_ (hl.mono rfl)

theorem keep_execTimeLoad (h : Keep l a s) (hl : Covers l [.time]) : KeepOut l a (execTimeLoad s) := by
  unfold execTimeLoad
  repeat' first
    | with_reducible assumption | exact hl.mono rfl | with_reducible apply keep_settle
    | with_reducible apply keep_timeLoad | with_reducible apply keepOut_ite | with_reducible apply keep_ite
    | with_reducible apply keepOut_next

theorem keep_execTimeStep (h : Keep l a s) (hl : Covers l [.regs, .time]) : KeepOut l a (execTimeStep b s) := by
  unfold execTimeStep
  repeat' first
    | with_reducible assumption | exact hl.mono rfl | with_reducible apply keep_settle
    | with_reducible apply keep_timeStep | with_reducible apply keepOut_ite | with_reducible apply keep_ite
    | with_reducible apply keepOut_next

theorem keep_ppsCapture (h : Keep l a s) (hl : Covers l [.regs]) : Keep l a (ppsCapture s) := by
  unfold ppsCapture
  repeat' first
    | with_reducible assumption | exact hl.mono rfl | with_reducible apply keep_raiseSource
    | with_reducible apply keep_fset | with_reducible apply keep_ite

theorem keep_execPpsInEdge (h : Keep l a s) (hl : Covers l [.regs]) : KeepOut l a (execPpsInEdge b s) := by
  unfold execPpsInEdge
  repeat' first
    | with_reducible assumption | exact hl.mono rfl | with_reducible apply keep_ppsCapture
    | with_reducible apply keepOut_ite | with_reducible apply keep_ite | with_reducible apply keepOut_next

theorem keep_captureSecRead (h : Keep l a s) (hl : Covers l [.rdata, .time]) : Keep l a (captureSecRead s) := by
  unfold captureSecRead
  repeat' first
    | with_reducible assumption | exact hl.mono rfl | dsimp only
    | refine keep_mk (m := [.rdata, .time]) rfl ?_ (hl.mono rfl)

theorem keep_captureRead (h : Keep l a s) (hl : Covers l [.regs, .rdata, .time]) : Keep l a (captureRead s) := by
  unfold captureRead
  repeat' first
    | with_reducible assumption | exact hl.mono rfl | with_reducible apply keep_fset | dsimp only
    | refine keep_mk (m := [.rdata, .time]) rfl ?_ (hl.mono rfl)

theorem keep_execCaptureRead (h : Keep l a (portTurn s)) (hl : Covers l [.regs, .rdata, .time]) :
    KeepOut l a (execCaptureRead s) := by
  unfold execCaptureRead
  repeat' first
    | with_reducible assumption | exact hl.mono rfl | with_reducible apply keep_captureRead
    | with_reducible apply keepOut_ite | with_reducible apply keep_ite | with_reducible apply keepOut_next
    | with_reducible exact keepOut_fault | split | dsimp only | refine keep_mk (m := [.rdata]) rfl ?_ (hl.mono rfl)

theorem keep_execPpsOutPulse (h : Keep l a s) (hl : Covers l [.time]) : KeepOut l a (execPpsOutPulse s) := by
  unfold execPpsOutPulse
  repeat' first
    | with_reducible assumption | exact hl.mono rfl | with_reducible apply keep_ppsEdge
    | with_reducible apply keepOut_ite | with_reducible apply keep_ite | with_reducible apply keepOut_next

theorem keep_execPpsWidthEnd (h : Keep l a s) (hl : Covers l [.time]) : KeepOut l a (execPpsWidthEnd s) := by
  unfold execPpsWidthEnd
  repeat' first
    | with_reducible assumption | exact hl.mono rfl | with_reducible apply keepOut_ite | with_reducible apply keep_ite
    | with_reducible apply keepOut_next | with_reducible exact keepOut_fault | split | dsimp only
    | refine keep_mk (m := [.time]) rfl ?_ (hl.mono rfl)

theorem keep_writeTrigger (h : Keep l a s) (hl : Covers l [.regs, .time]) : Keep l a (writeTrigger b s) := by
  unfold writeTrigger
  repeat' first
    | with_reducible assumption | exact hl.mono rfl | with_reducible apply keep_fset | with_reducible apply keep_ite
    | split | dsimp only | refine keep_mk (m := [.time]) rfl ?_ (hl.mono rfl)

theorem keep_execTriggerArm (h : Keep l a (portTurn s)) (hl : Covers l [.regs, .time]) : KeepOut l a (execTriggerArm b s) := by
  unfold execTriggerArm
  repeat' first
    | with_reducible assumption | exact hl.mono rfl | with_reducible apply keep_writeTrigger
    | with_reducible apply keepOut_ite | with_reducible apply keep_ite | with_reducible apply keepOut_next

theorem keep_execTriggerFire (h : Keep l a s) (hl : Covers l [.regs, .time]) : KeepOut l a (execTriggerFire s) := by
  unfold execTriggerFire
  repeat' first
    | with_reducible assumption | exact hl.mono rfl | with_reducible apply keep_checkTrigger
    | with_reducible apply keepOut_ite | with_reducible apply keep_ite | with_reducible apply keepOut_next

theorem keep_execTriggerWidthEnd (h : Keep l a s) (hl : Covers l [.time]) : KeepOut l a (execTriggerWidthEnd s) := by
  unfold execTriggerWidthEnd
  repeat' first
    | with_reducible assumption | exact hl.mono rfl | with_reducible apply keepOut_ite | with_reducible apply keep_ite
    | with_reducible apply keepOut_next | with_reducible exact keepOut_fault | split | dsimp only
    | refine keep_mk (m := [.time]) rfl ?_ (hl.mono rfl)

end Sys2Proof.Machine
end

