-- ==== Sys2Proof/Laws/KeepHost.lean ====
section
/-!
SUPPORT. What each operation keeps and changes (functions, power, dormancy and cages): the invariant
of the machine, and the parts outside the list that its lemma names.
-/

set_option Elab.async false

namespace Sys2Proof.Machine

variable {l : List Part} {a s t : State}

/-! ### Machine/Functions.lean -/

theorem keep_quiesceReqs (h : Keep l a s) (hl : Covers l [.fabric]) : Keep l a (quiesceReqs b s) := by
  unfold quiesceReqs
  repeat' first
    | with_reducible assumption | exact hl.mono rfl | with_reducible apply keep_submitRead
    | with_reducible apply keep_discardReqs | with_reducible apply keep_ite | with_reducible apply keep_foldl | split
    | with_reducible refine keep_fst (by assumption) ?_ | with_reducible refine keep_snd (by assumption) ?_
    | dsimp only | refine keep_mk (m := [.fabric]) rfl ?_ (hl.mono rfl) | (intro _; intros)

theorem keep_flushChain (h : Keep l a s) (hl : Covers l [.chans, .cellar, .ports, .presses, .fabric]) :
    Keep l a (flushChain b c s) := by
  unfold flushChain
  repeat' first
    | with_reducible assumption | exact hl.mono rfl | with_reducible apply keep_forgetCopies
    | with_reducible apply keep_syncChan | with_reducible apply keep_modChain | with_reducible apply keep_discardReqs
    | dsimp only | refine keep_mk (m := [.cellar]) rfl ?_ (hl.mono rfl)

theorem keep_flushChains (h : Keep l a s) (hl : Covers l [.regs, .chans, .rings, .book, .cellar, .ports, .presses, .fabric, .aux, .power, .pmu]) :
    Keep l a (flushChains b s) := by
  unfold flushChains
  repeat' first
    | with_reducible assumption | exact hl.mono rfl | with_reducible apply keep_settleHeads
    | with_reducible apply keep_flushChain | with_reducible apply keep_foldl | split
    | with_reducible refine keep_fst (by assumption) ?_ | with_reducible refine keep_snd (by assumption) ?_
    | dsimp only | (intro _; intros)

theorem keep_quiesceChan (h : Keep l a s) (hl : Covers l [.regs, .chans, .rings, .book, .cellar, .ports, .presses, .fabric, .aux, .power, .pmu]) :
    Keep l a (quiesceChan b c d s) := by
  unfold quiesceChan
  repeat' first
    | with_reducible assumption | exact hl.mono rfl | with_reducible apply keep_modLog | with_reducible apply keep_modChan
    | with_reducible apply keep_unwriteChan | with_reducible apply keep_discardUnlaunched
    | with_reducible apply keep_dropQueued | with_reducible apply keep_rejectStart
    | with_reducible apply keep_flushChains | with_reducible apply keep_discardFetches | with_reducible apply keep_ite
    | split

theorem keep_quiesceEvents (h : Keep l a s) (hl : Covers l [.events]) : Keep l a (quiesceEvents b c s) := by
  unfold quiesceEvents
  repeat' first
    | with_reducible assumption | exact hl.mono rfl | with_reducible apply keep_ite | split | dsimp only
    | refine keep_mk (m := [.events]) rfl ?_ (hl.mono rfl)

theorem keep_drainAssigned (h : Keep l a s) (hl : Covers l [.chans, .rings, .book, .cellar, .fabric, .aux, .power, .pmu]) :
    Keep l a (drainAssigned b c s) := by
  unfold drainAssigned
  repeat' first
    | with_reducible assumption | exact hl.mono rfl | with_reducible apply keep_modRx
    | with_reducible apply keep_discardReqs | with_reducible apply keep_deliver

theorem keep_quarantineFunc (h : Keep l a s) (hl : Covers l [.fabric]) : Keep l a (quarantineFunc b s) := by
  unfold quarantineFunc
  repeat' first
    | with_reducible assumption | exact hl.mono rfl | with_reducible apply keep_keepReq
    | with_reducible apply keep_dropReq | with_reducible apply keep_ite | with_reducible apply keep_foldl | split
    | dsimp only | refine keep_mk (m := [.fabric]) rfl ?_ (hl.mono rfl) | (intro _; intros)

theorem keep_resumeChan (h : Keep l a s) (hl : Covers l [.regs, .chans, .rings, .book, .cellar, .ports, .presses, .fabric, .aux, .power, .pmu]) :
    Keep l a (resumeChan b s) := by
  unfold resumeChan
  repeat' first
    | with_reducible assumption | exact hl.mono rfl | with_reducible apply keep_flushIndex
    | with_reducible apply keep_readTxProd | with_reducible apply keep_rewriteAssigned
    | with_reducible apply keep_readRxProd | with_reducible apply keep_setChan | with_reducible apply keep_progress
    | with_reducible apply keep_drainOrAsk | with_reducible apply keep_flushBook | with_reducible apply keep_ite

theorem keep_endWriteBack (h : Keep l a s) (hl : Covers l [.chans, .fabric]) : Keep l a (endWriteBack b s) := by
  unfold endWriteBack
  repeat' first
    | with_reducible assumption | exact hl.mono rfl | with_reducible apply keep_setChan
    | with_reducible apply keep_writeBack | with_reducible apply keep_ite

theorem keep_flushRings (h : Keep l a s) (hl : Covers l [.rings, .fabric]) : Keep l a (flushRings b s) := by
  unfold flushRings
  repeat' first
    | with_reducible assumption | exact hl.mono rfl | with_reducible apply keep_flushRing
    | with_reducible apply keep_ite | with_reducible apply keep_foldl | split | dsimp only | (intro _; intros)

theorem keep_endQuiesce (h : Keep l a s) (hl : Covers l [.regs, .chans, .rings, .book, .cellar, .ports, .presses, .fabric, .funcs, .aux, .power, .pmu]) :
    Keep l a (endQuiesce b s) := by
  unfold endQuiesce
  repeat' first
    | with_reducible assumption | exact hl.mono rfl | with_reducible apply keep_modFunc
    | with_reducible apply keep_resumeChan | with_reducible apply keep_endWriteBack
    | with_reducible apply keep_flushRings | with_reducible apply keep_ite | with_reducible apply keep_foldl | split
    | dsimp only | (intro _; intros)

theorem keep_quiesceCheck (h : Keep l a s) (hl : Covers l [.regs, .chans, .rings, .book, .cellar, .ports, .presses, .fabric, .funcs, .aux, .power, .pmu]) :
    Keep l a (quiesceCheck b s) := by
  unfold quiesceCheck
  repeat' first
    | with_reducible assumption | exact hl.mono rfl | with_reducible apply keep_endQuiesce
    | with_reducible apply keep_ite

theorem keep_drainEnd (h : Keep l a s) (hl : Covers l [.regs, .chans, .rings, .book, .cellar, .ports, .presses, .fabric, .funcs, .events, .aux, .power, .pmu]) :
    Keep l a (drainEnd b c s) := by
  unfold drainEnd
  extract_lets s0 s1 flr e s3 s4 s5 s6
  have h1 : Keep l a s1 := keep_ite (keep_raiseSource (keep_modFunc (keep_foldl (keep_quarantineFunc h (hl.mono rfl))
    fun _ _ hu => keep_ringSettled hu (hl.mono rfl)) (hl.mono rfl))) h
  clear_value s1
  have h3 : Keep l a s3 := keep_ite (keep_mk (m := [.events]) rfl h1 (hl.mono rfl)) h1
  clear_value s3
  have h5 : Keep l a s5 := keep_modFunc (keep_foldl h3 fun _ _ hu => keep_drainAssigned hu (hl.mono rfl)) (hl.mono rfl)
  exact keep_quiesceCheck (keep_foldl h5 fun _ _ hu => keep_stopCheck hu (hl.mono rfl)) (hl.mono rfl)

theorem keep_drainCheck (h : Keep l a s) (hl : Covers l [.regs, .chans, .rings, .book, .cellar, .ports, .presses, .fabric, .funcs, .events, .aux, .power, .pmu]) :
    Keep l a (drainCheck b s) := by
  unfold drainCheck
  repeat' first
    | with_reducible assumption | exact hl.mono rfl | with_reducible apply keep_drainEnd
    | with_reducible apply keep_ite

theorem keep_startQuiesce (h : Keep l a s) (hl : Covers l [.regs, .chans, .rings, .book, .cellar, .ports, .presses, .fabric, .funcs, .events, .aux, .power, .pmu]) :
    Keep l a (startQuiesce b c s) := by
  unfold startQuiesce
  repeat' first
    | with_reducible assumption | exact hl.mono rfl | with_reducible apply keep_quiesceEvents
    | with_reducible apply keep_modFunc | with_reducible apply keep_quiesceReqs
    | with_reducible apply keep_quiesceChan | with_reducible apply keep_drainCheck | with_reducible apply keep_foldl
    | dsimp only | (intro _; intros)

theorem keep_flrSets (h : Keep l a s) (hl : Covers l [.regs, .chans, .rings, .book, .cellar, .ports, .presses, .fabric, .funcs, .events, .aux, .power, .pmu]) :
    Keep l a (flrSets b s) := by
  unfold flrSets
  repeat' first
    | with_reducible assumption | exact hl.mono rfl | with_reducible apply keep_quiesceEvents
    | with_reducible apply keep_setFunc | with_reducible apply keep_startQuiesce
    | with_reducible apply keep_drainCheck | with_reducible apply keep_ite | split
    | with_reducible refine keep_fst (by assumption) ?_ | with_reducible refine keep_snd (by assumption) ?_
    | dsimp only

theorem keep_bmeClears (h : Keep l a s) (hl : Covers l [.regs, .chans, .rings, .book, .cellar, .ports, .presses, .fabric, .funcs, .events, .aux, .power, .pmu]) :
    Keep l a (bmeClears b s) := by
  unfold bmeClears
  repeat' first
    | with_reducible assumption | exact hl.mono rfl | with_reducible apply keep_startQuiesce
    | with_reducible apply keep_ite

theorem keep_linkLost (h : Keep l a s) (hl : Covers l [.regs, .chans, .rings, .book, .cellar, .ports, .presses, .fabric, .funcs, .events, .aux, .power, .pmu]) :
    Keep l a (linkLost b s) := by
  unfold linkLost
  repeat' first
    | with_reducible assumption | exact hl.mono rfl | with_reducible apply keep_quiesceEvents
    | with_reducible apply keep_setFunc | with_reducible apply keep_startQuiesce | with_reducible apply keep_ite

theorem keep_clearIntx (h : Keep l a s) (hl : Covers l [.funcs]) : Keep l a (clearIntx b s) := by
  unfold clearIntx
  repeat' first
    | with_reducible assumption | exact hl.mono rfl | with_reducible apply keep_modFunc
    | with_reducible apply keep_addEvent | with_reducible apply keep_ite

theorem keep_funcUpdate (h : Keep l a s) (hl : Covers l [.regs, .chans, .rings, .book, .cellar, .ports, .presses, .fabric, .funcs, .events, .aux, .power, .pmu]) :
    Keep l a (funcUpdate b c s) := by
  unfold funcUpdate
  repeat' first
    | with_reducible assumption | exact hl.mono rfl | with_reducible apply keep_setFunc
    | with_reducible apply keep_clearIntx | with_reducible apply keep_quiesceCheck
    | with_reducible apply keep_bmeClears | with_reducible apply keep_flrSets | with_reducible apply keep_ite

theorem keep_hostLink (h : Keep l a s) (hl : Covers l [.regs, .chans, .rings, .book, .cellar, .ports, .presses, .fabric, .funcs, .events, .aux, .power, .pmu]) :
    Keep l a (hostLink b s) := by
  unfold hostLink
  repeat' first
    | with_reducible assumption | exact hl.mono rfl | with_reducible apply keep_fadd
    | with_reducible apply keep_raiseSource | with_reducible apply keep_quiesceCheck | with_reducible apply keep_fset
    | with_reducible apply keep_linkLost | with_reducible apply keep_ite | with_reducible apply keep_foldl | split
    | dsimp only | refine keep_mk (m := [.fabric]) rfl ?_ (hl.mono rfl) | (intro _; intros)

theorem keep_execFunctionStateUpdate (h : Keep l a s) (hl : Covers l [.regs, .chans, .rings, .book, .cellar, .ports, .presses, .fabric, .funcs, .events, .aux, .power, .pmu]) :
    KeepOut l a (execFunctionStateUpdate b c s) := by
  unfold execFunctionStateUpdate
  repeat' first
    | with_reducible assumption | exact hl.mono rfl | with_reducible apply keep_hostLink | with_reducible apply keep_settle
    | with_reducible apply keep_funcUpdate | with_reducible apply keepOut_ite | with_reducible apply keep_ite
    | with_reducible apply keepOut_next | split | with_reducible refine keep_fst (by assumption) ?_ | dsimp only

theorem keep_execHostLinkChange (h : Keep l a s) (hl : Covers l [.regs, .chans, .rings, .book, .cellar, .ports, .presses, .fabric, .funcs, .events, .aux, .power, .pmu]) :
    KeepOut l a (execHostLinkChange b s) := by
  unfold execHostLinkChange
  repeat' first
    | with_reducible assumption | exact hl.mono rfl | with_reducible apply keep_settle
    | with_reducible apply keep_hostLink | with_reducible apply keepOut_ite | with_reducible apply keep_ite
    | with_reducible apply keepOut_next | with_reducible exact keepOut_fault | split | dsimp only
    | refine keep_mk (m := [.fabric]) rfl ?_ (hl.mono rfl)

theorem keep_execQuiesceDrainTimeout (h : Keep l a s) (hl : Covers l [.regs, .chans, .rings, .book, .cellar, .ports, .presses, .fabric, .funcs, .events, .aux, .power, .pmu]) :
    KeepOut l a (execQuiesceDrainTimeout b s) := by
  unfold execQuiesceDrainTimeout
  repeat' first
    | with_reducible assumption | exact hl.mono rfl | with_reducible apply keep_settle
    | with_reducible apply keep_drainEnd | with_reducible apply keepOut_ite | with_reducible apply keep_ite
    | with_reducible apply keepOut_next

theorem keep_execResetDrainTimeout (h : Keep l a s) (hl : Covers l [.chans, .fabric]) :
    KeepOut l a (execResetDrainTimeout b s) := by
  unfold execResetDrainTimeout
  repeat' first
    | with_reducible assumption | exact hl.mono rfl | with_reducible apply keep_setChan | with_reducible apply keep_settle
    | with_reducible apply keep_writeBack | with_reducible apply keepOut_ite | with_reducible apply keep_ite
    | with_reducible apply keepOut_next

theorem keep_discardHeld (h : Keep l a s) (hl : Covers l [.chans, .rings, .book, .fabric]) :
    Keep l a (discardHeld b s) := by
  unfold discardHeld
  repeat' first
    | with_reducible assumption | exact hl.mono rfl | with_reducible apply keep_modChan
    | with_reducible apply keep_unwriteChan | with_reducible apply keep_modRing
    | with_reducible apply keep_discardReqs | with_reducible apply keep_ite | with_reducible apply keep_foldl | split
    | with_reducible refine keep_fst (by assumption) ?_ | with_reducible refine keep_snd (by assumption) ?_
    | dsimp only | (intro _; intros)

theorem keep_abandonChan (h : Keep l a s) (hl : Covers l [.chans, .rings, .book, .cellar, .ports, .presses, .fabric, .aux, .power, .pmu]) :
    Keep l a (abandonChan b s) := by
  unfold abandonChan
  extract_lets n s1 s2 s3 s4 x s5 s6 s7
  have h1 : Keep l a s1 := keep_endTags (keep_discardHeld h (hl.mono rfl)) (hl.mono rfl)
  clear_value s1
  have h2 : Keep l a s2 := keep_foldl h1 fun _ _ hu => keep_discardChain hu (hl.mono rfl)
  clear_value s2
  have h3 : Keep l a s3 := keep_foldl (keep_modRx h2 (hl.mono rfl)) fun _ _ hu => keep_discardRef (keep_endTags
    (keep_releasePlace hu (hl.mono rfl)) (hl.mono rfl)) (hl.mono rfl)
  clear_value s3
  have h4 : Keep l a s4 := keep_foldl h3 fun _ _ hu => keep_releasePlace hu (hl.mono rfl)
  clear_value s4
  have h5 : Keep l a s5 := keep_mk (m := [.book]) rfl h4 (hl.mono rfl)
  clear_value s5
  have h6 : Keep l a s6 := keep_modChan h5 (hl.mono rfl)
  clear_value s6
  exact keep_flushRing (keep_drainOrAsk (keep_modChan (keep_setPoints h6 (hl.mono rfl)) (hl.mono rfl)) (hl.mono rfl))
    (hl.mono rfl)

theorem keep_abandon (h : Keep l a s) (hl : Covers l [.chans, .rings, .book, .cellar, .ports, .presses, .fabric, .funcs, .aux, .power, .pmu]) :
    Keep l a (abandon b s) := by
  unfold abandon
  repeat' first
    | with_reducible assumption | exact hl.mono rfl | with_reducible apply keep_modFunc
    | with_reducible apply keep_abandonChan | with_reducible apply keep_ite | with_reducible apply keep_foldl | split
    | dsimp only | (intro _; intros)

theorem keep_execFunctionAbandon (h : Keep l a s) (hl : Covers l [.chans, .rings, .book, .cellar, .ports, .presses, .fabric, .funcs, .aux, .power, .pmu]) :
    KeepOut l a (execFunctionAbandon s) := by
  unfold execFunctionAbandon
  repeat' first
    | with_reducible assumption | exact hl.mono rfl | with_reducible apply keep_settle
    | with_reducible apply keep_abandon | with_reducible apply keepOut_ite | with_reducible apply keep_ite
    | with_reducible apply keepOut_next

theorem keep_restorePort (h : Keep l a s) (hl : Covers l [.fabric]) : Keep l a (restorePort b s) := by
  unfold restorePort
  repeat' first
    | with_reducible assumption | exact hl.mono rfl | with_reducible apply keep_ite | split | dsimp only
    | refine keep_mk (m := [.fabric]) rfl ?_ (hl.mono rfl)

theorem keep_execFabricPortRestore (h : Keep l a s) (hl : Covers l [.fabric]) :
    KeepOut l a (execFabricPortRestore b s) := by
  unfold execFabricPortRestore
  repeat' first
    | with_reducible assumption | exact hl.mono rfl | with_reducible apply keep_settle
    | with_reducible apply keep_restorePort | with_reducible apply keepOut_ite | with_reducible apply keep_ite
    | with_reducible apply keepOut_next

theorem keep_putEvent (h : Keep l a s) (hl : Covers l [.regs, .events]) : Keep l a (putEvent b c s) := by
  unfold putEvent
  repeat' first
    | with_reducible assumption | exact hl.mono rfl | with_reducible apply keep_fadd | with_reducible apply keep_count
    | with_reducible apply keep_ite | split | dsimp only | refine keep_mk (m := [.events]) rfl ?_ (hl.mono rfl)

theorem keep_leaveEvent (h : Keep l a s) (hl : Covers l [.rings, .events, .pmu]) : Keep l a (leaveEvent b s) := by
  unfold leaveEvent
  repeat' first
    | with_reducible assumption | exact hl.mono rfl | with_reducible apply keep_modSampleRing | with_reducible apply keep_modRing
    | with_reducible apply keep_ite | split | with_reducible refine keep_fst (by assumption) ?_
    | with_reducible refine keep_snd (by assumption) ?_ | dsimp only
    | refine keep_mk (m := [.events]) rfl ?_ (hl.mono rfl)

theorem keep_emitEvent (h : Keep l a s) (hl : Covers l [.regs, .rings, .funcs, .events, .pmu]) :
    Keep l a (emitEvent b s) := by
  unfold emitEvent
  repeat' first
    | with_reducible assumption | exact hl.mono rfl | with_reducible apply keep_putEvent
    | with_reducible apply keep_modFunc | with_reducible apply keep_leaveEvent | with_reducible apply keep_ite

theorem keep_execEventEmit (h : Keep l a s) (hl : Covers l [.regs, .rings, .funcs, .events, .pmu]) :
    KeepOut l a (execEventEmit b s) := by
  unfold execEventEmit
  repeat' first
    | with_reducible assumption | exact hl.mono rfl | with_reducible apply keep_emitEvent
    | with_reducible apply keepOut_ite | with_reducible apply keep_ite | with_reducible apply keepOut_next
    | with_reducible exact keepOut_fault | split | with_reducible refine keep_fst (by assumption) ?_
    | with_reducible refine keep_snd (by assumption) ?_ | dsimp only
    | refine keep_mk (m := [.events]) rfl ?_ (hl.mono rfl)

theorem keep_ackIntx (h : Keep l a s) (hl : Covers l [.regs, .rings, .funcs, .events, .pmu]) :
    Keep l a (ackIntx b c s) := by
  unfold ackIntx
  repeat' first
    | with_reducible assumption | exact hl.mono rfl | with_reducible apply keep_emitEvent
    | with_reducible apply keep_clearIntx | with_reducible apply keep_ite | split

theorem keep_execIntxAck (h : Keep l a s) (hl : Covers l [.regs, .rings, .funcs, .events, .pmu]) :
    KeepOut l a (execIntxAck b c s) := by
  unfold execIntxAck
  repeat' first
    | with_reducible assumption | exact hl.mono rfl | with_reducible apply keep_ackIntx
    | with_reducible apply keep_fset | with_reducible apply keepOut_ite | with_reducible apply keep_ite
    | with_reducible apply keepOut_next

theorem keep_forceEvent (h : Keep l a s) (hl : Covers l [.regs]) : Keep l a (forceEvent b c s) := by
  unfold forceEvent
  repeat' first
    | with_reducible assumption | exact hl.mono rfl | with_reducible apply keep_fset
    | with_reducible apply keep_addEvent

theorem keep_execEventForce (h : Keep l a s) (hl : Covers l [.regs]) : KeepOut l a (execEventForce b c s) := by
  unfold execEventForce
  repeat' first
    | with_reducible assumption | exact hl.mono rfl | with_reducible apply keep_forceEvent
    | with_reducible apply keepOut_ite | with_reducible apply keep_ite | with_reducible apply keepOut_next

theorem keep_execBlockEventGap (h : Keep l a s) (hl : Covers l [.events]) : KeepOut l a (execBlockEventGap b s) := by
  unfold execBlockEventGap
  repeat' first
    | with_reducible assumption | exact hl.mono rfl | with_reducible apply keepOut_ite | with_reducible apply keep_ite
    | with_reducible apply keepOut_next | with_reducible exact keepOut_fault | split | dsimp only
    | refine keep_mk (m := [.events]) rfl ?_ (hl.mono rfl)

/-! ### Machine/Power.lean -/

theorem wf_unwriteAll (h : s.wf) : (unwriteAll s).wf :=
  (keep_unwriteAll (l := [.chans, .rings, .book, .fabric]) Keep.refl Covers.refl h).1

theorem keep_coreLost (h : Keep l a s) (hl : Covers l [.regs, .pairHeld, .pairCap, .chans, .rings, .book, .cellar, .rows, .ports, .presses, .replicas, .engine, .fabric, .funcs, .events, .time, .cvTest, .aux, .power, .errors, .racking, .cm, .mgmt, .pmu]) :
    Keep l a (coreLost s) :=
  h.step fun hs => (keep_mk (m := [.regs, .pairHeld, .pairCap, .chans, .rings, .book, .cellar, .rows, .ports, .presses, .replicas, .engine, .fabric, .funcs, .events, .time, .cvTest, .aux, .power, .errors, .racking, .cm, .mgmt, .pmu]) rfl Keep.refl hl (h1 := mrising_filter)
    (h2 := fun _ => canonical_nil) (h3 := fun _ => canonical_nil)
    (h4 := fun _ => by
      split
      · exact (wf_unwriteAll hs).2.2.2.1
      · exact canonical_nil)
    (h5 := fun _ => ⟨canonical_nil, rfl⟩) (h6 := fun _ => canonical_nil) (h7 := fun hp => canonical_trim hp.1 fun _ => rfl)
    (h8 := fun _ => canonical_nil) (h9 := fun _ => ⟨canonical_nil, rfl⟩) (h10 := fun _ => ⟨List.Pairwise.nil, by simp⟩)
    (h11 := fun _ => canonical_nil) (h12 := fun _ => List.Pairwise.nil) (h13 := fun _ => by simp [Time.wf])
    (h14 := fun _ => ⟨by simp, by simp⟩) (h15 := fun _ => ⟨by simp [State.reset], rfl, by simp [State.reset]⟩)
    (h16 := fun _ => canonical_nil) (h19 := fun _ => canonical_nil) : Keep l s (coreLost s)) hs

theorem keep_execPowerOnResetAssert (h : Keep l a s) (hl : Covers l [.regs, .pairHeld, .pairCap, .chans, .rings, .book, .cellar, .rows, .ports, .presses, .replicas, .engine, .fabric, .funcs, .events, .time, .cvTest, .aux, .power, .errors, .racking, .cm, .mgmt, .pmu]) :
    KeepOut l a (execPowerOnResetAssert s) := by
  unfold execPowerOnResetAssert
  repeat' first
    | with_reducible assumption | exact hl.mono rfl | with_reducible apply keep_coreLost
    | with_reducible apply keepOut_ite | with_reducible apply keep_ite | with_reducible apply keepOut_next

theorem keep_imageLost (h : Keep l a s) (hl : Covers l [.aux, .power]) : Keep l a (imageLost s) := by
  unfold imageLost
  repeat' first
    | with_reducible assumption | exact hl.mono rfl | with_reducible apply keep_ite | split | dsimp only
    | refine keep_mk (m := [.aux, .power]) rfl ?_ (hl.mono rfl)

theorem keep_vddLost (h : Keep l a s) (hl : Covers l [.regs]) : Keep l a (vddLost s) := by
  unfold vddLost
  repeat' first
    | with_reducible assumption | exact hl.mono rfl | with_reducible apply keep_fadd | with_reducible apply keep_fset
    | with_reducible apply keep_ite

theorem keep_supplyChange (h : Keep l a s) (hl : Covers l [.regs, .pairHeld, .pairCap, .chans, .rings, .book, .cellar, .rows, .ports, .presses, .replicas, .engine, .fabric, .funcs, .events, .time, .cvTest, .aux, .power, .errors, .racking, .cm, .mgmt, .pmu]) :
    Keep l a (supplyChange b c s) := by
  unfold supplyChange
  repeat' first
    | with_reducible assumption | exact hl.mono rfl | with_reducible apply keep_coreLost
    | with_reducible apply keep_vddLost | with_reducible apply keep_imageLost | split
    | with_reducible refine keep_fst (by assumption) ?_ | with_reducible refine keep_snd (by assumption) ?_
    | dsimp only | refine keep_mk (m := [.aux, .power]) rfl ?_ (hl.mono rfl)

theorem keep_vauxLoss (h : Keep l a s) (hl : Covers l [.regs, .aux, .errors]) : Keep l a (vauxLoss s) := by
  unfold vauxLoss
  repeat' first
    | with_reducible assumption | exact hl.mono rfl | with_reducible apply keep_postError
    | with_reducible apply keep_fset | with_reducible apply keep_ite | split | dsimp only
    | refine keep_mk (m := [.aux]) rfl ?_ (hl.mono rfl)

theorem keep_execVauxLoss (h : Keep l a s) (hl : Covers l [.regs, .aux, .errors]) : KeepOut l a (execVauxLoss s) := by
  unfold execVauxLoss
  repeat' first
    | with_reducible assumption | exact hl.mono rfl | with_reducible apply keep_vauxLoss
    | with_reducible apply keepOut_next

theorem keep_vauxRestore (h : Keep l a s) (hl : Covers l [.regs, .aux]) : Keep l a (vauxRestore s) := by
  unfold vauxRestore
  split
  · exact h
  · exact keep_mk (m := [.regs, .aux]) rfl h hl (h1 := mrising_filter) (h17 := fun _ => ⟨canonical_nil, rfl⟩)
      (h18 := fun _ => canonical_nil)

theorem keep_execVauxRestore (h : Keep l a s) (hl : Covers l [.regs, .aux]) : KeepOut l a (execVauxRestore s) := by
  unfold execVauxRestore
  repeat' first
    | with_reducible assumption | exact hl.mono rfl | with_reducible apply keep_vauxRestore
    | with_reducible apply keepOut_next

theorem canonical_prepareBook (h : s.wf) : canonical {} (prepareBook b s).points := by
  unfold prepareBook
  obtain ⟨-, -, -, h4, -, -, -, -, -, -, -, -, -, -, -, -, h17, -⟩ := h
  split
  · exact h4
  · exact h17.1
  · exact canonical_nil

theorem canonical_prepareRings (h : s.wf) : canonical {} (prepareRings b s) := by
  unfold prepareRings
  obtain ⟨-, -, -, -, -, -, -, -, -, -, -, -, -, -, -, -, h17, -⟩ := h
  split
  · exact canonical_trim h17.2 fun _ => rfl
  · exact canonical_nil

theorem keep_powerOn (h : Keep l a s) (hl : Covers l [.regs, .pairHeld, .pairCap, .chans, .rings, .book, .cellar, .rows, .ports, .presses, .replicas, .engine, .fabric, .funcs, .events, .time, .cvTest, .aux, .power, .errors, .racking, .cm, .mgmt, .pmu, .freeCount]) :
    Keep l a (powerOn s) :=
  h.step fun hs => (keep_mk (m := [.book, .rings, .engine, .freeCount, .aux, .power]) rfl
    (keep_coreLost Keep.refl (hl.mono rfl)) (hl.mono rfl) (h3 := fun _ => canonical_prepareRings hs)
    (h4 := fun _ => canonical_prepareBook hs) (h14 := fun _ => ⟨by simp, by simp⟩) : Keep l s (powerOn s)) hs

theorem keep_softResetState (h : Keep l a s) (hl : Covers l [.regs, .pairHeld, .pairCap, .chans, .rings, .book, .cellar, .rows, .ports, .presses, .engine, .fabric, .funcs, .events, .time, .cvTest, .power, .errors, .racking, .cm, .mgmt, .pmu]) :
    Keep l a (softResetState b s) := by
  unfold softResetState
  have hu := keep_unwriteAll h (hl.mono rfl)
  generalize unwriteAll s = u at hu
  exact keep_fset (keep_fset (keep_mk (m := [.regs, .pairHeld, .pairCap, .chans, .rings, .book, .cellar, .rows, .ports, .presses, .engine, .fabric, .funcs, .events, .time, .cvTest, .power, .errors, .racking, .cm, .mgmt, .pmu]) rfl hu hl (h1 := mrising_filter)
    (h3 := fun hr => canonical_trim (mrising_filter hr.1) fun _ => rfl) (h5 := fun _ => ⟨canonical_nil, rfl⟩)
    (h7 := fun hp => canonical_trim hp.1 fun _ => rfl) (h8 := fun _ => canonical_nil)
    (h10 := fun hf => Fabric.wf_map (Fabric.wf_filter hf) fun _ => rfl) (h12 := fun _ => List.Pairwise.nil)
    (h13 := fun ht => ⟨ht.1, by simp⟩) (h15 := fun _ => ⟨by simp, rfl, by simp⟩)
    (h16 := fun _ => canonical_nil)) (hl.mono rfl)) (hl.mono rfl)

theorem keep_softResetEnd (h : Keep l a s) (hl : Covers l [.regs, .pairHeld, .pairCap, .chans, .rings, .book, .cellar, .rows, .ports, .presses, .engine, .fabric, .funcs, .events, .time, .cvTest, .aux, .power, .errors, .racking, .cm, .mgmt, .pmu]) :
    Keep l a (softResetEnd b s) := by
  unfold softResetEnd
  repeat' first
    | with_reducible assumption | exact hl.mono rfl | with_reducible apply keep_softResetState
    | with_reducible apply keep_portTurn
    | with_reducible apply keep_postError | with_reducible apply keep_ite | split

theorem keep_softReset (h : Keep l a s) (hl : Covers l [.regs, .chans, .rings, .cellar, .presses, .fabric, .aux, .power, .racking, .pmu]) :
    Keep l a (softReset b s) := by
  unfold softReset
  repeat' first
    | with_reducible assumption | exact hl.mono rfl | with_reducible apply keep_fset
    | with_reducible apply keep_startSoftReset | with_reducible apply keep_ite

theorem keep_execSoftReset (h : Keep l a (portTurn s)) (hl : Covers l [.regs, .chans, .rings, .cellar, .presses, .fabric, .aux, .power, .racking, .pmu]) :
    KeepOut l a (execSoftReset b s) := by
  unfold execSoftReset
  repeat' first
    | with_reducible assumption | exact hl.mono rfl | with_reducible apply keep_settle
    | with_reducible apply keep_softReset | with_reducible apply keepOut_ite | with_reducible apply keep_ite
    | with_reducible apply keepOut_next

theorem keep_writeImage (h : Keep l a s) (hl : Covers l [.aux, .power]) : Keep l a (writeImage s) :=
  h.step fun hs => (keep_mk (m := [.aux, .power]) rfl Keep.refl hl (h17 := fun _ => ⟨(wf_unwriteAll hs).2.2.2.1,
    (canonical_trim (g := fun e => (e.1, e.2.prod)) (wf_unwriteAll hs).2.2.1.1 fun _ => rfl).1⟩) :
    Keep l s (writeImage s)) hs

theorem keep_drainDone (h : Keep l a s) (hl : Covers l [.regs, .pairHeld, .pairCap, .chans, .rings, .book, .cellar, .rows, .ports, .presses, .engine, .fabric, .funcs, .events, .time, .cvTest, .aux, .power, .errors, .racking, .cm, .mgmt, .pmu]) :
    Keep l a (drainDone b s) := by
  unfold drainDone
  repeat' first
    | with_reducible assumption | exact hl.mono rfl | with_reducible apply keep_softResetEnd
    | with_reducible apply keep_postError | with_reducible apply keep_writeImage | with_reducible apply keep_ite
    | split | with_reducible refine keep_fst (by assumption) ?_ | with_reducible refine keep_snd (by assumption) ?_
    | dsimp only | refine keep_mk (m := [.power]) rfl ?_ (hl.mono rfl)

theorem keep_execDrainComplete (h : Keep l a s) (hl : Covers l [.regs, .pairHeld, .pairCap, .chans, .rings, .book, .cellar, .rows, .ports, .presses, .engine, .fabric, .funcs, .events, .time, .cvTest, .aux, .power, .errors, .racking, .cm, .mgmt, .pmu]) :
    KeepOut l a (execDrainComplete s) := by
  unfold execDrainComplete
  repeat' first
    | with_reducible assumption | exact hl.mono rfl | with_reducible apply keep_drainDone
    | with_reducible apply keepOut_ite | with_reducible apply keep_ite | with_reducible apply keepOut_next
    | with_reducible exact keepOut_fault | split

theorem keep_powerFail (h : Keep l a s) (hl : Covers l [.regs, .chans, .rings, .cellar, .fabric, .aux, .power, .pmu]) :
    Keep l a (powerFail s) := by
  unfold powerFail
  have h1 : Keep l a (fset AUX_BOOK_STAT.pfail_seen 1 s) := keep_fset h (hl.mono rfl)
  generalize fset AUX_BOOK_STAT.pfail_seen 1 s = u at h1
  dsimp only
  split
  · exact keep_mk (m := [.power]) rfl h1 (hl.mono rfl)
  · split
    · exact keep_mk (m := [.power]) rfl h1 (hl.mono rfl)
    · exact keep_startDrain (keep_mk (m := [.power]) rfl h1 (hl.mono rfl)) (hl.mono rfl)

theorem keep_execPowerFailWarning (h : Keep l a s) (hl : Covers l [.regs, .chans, .rings, .cellar, .fabric, .aux, .power, .pmu]) :
    KeepOut l a (execPowerFailWarning s) := by
  unfold execPowerFailWarning
  repeat' first
    | with_reducible assumption | exact hl.mono rfl | with_reducible apply keep_settle
    | with_reducible apply keep_powerFail | with_reducible apply keepOut_ite | with_reducible apply keep_ite
    | with_reducible apply keepOut_next

theorem keep_throttleWindow (h : Keep l a s) (hl : Covers l [.regs, .presses]) : Keep l a (throttleWindow b s) := by
  unfold throttleWindow
  repeat' first
    | with_reducible assumption | exact hl.mono rfl | with_reducible apply keep_triggerUp
    | with_reducible apply keep_setDiv | with_reducible apply keep_modPress | with_reducible apply keep_fset
    | with_reducible apply keep_ite

theorem keep_execThrottleWindowEnd (h : Keep l a s) (hl : Covers l [.regs, .presses]) :
    KeepOut l a (execThrottleWindowEnd b s) := by
  unfold execThrottleWindowEnd
  repeat' first
    | with_reducible assumption | exact hl.mono rfl | with_reducible apply keep_throttleWindow
    | with_reducible apply keepOut_ite | with_reducible apply keep_ite | with_reducible apply keepOut_next

theorem keep_execPressClockSwitch (h : Keep l a s) (hl : Covers l [.regs, .presses]) :
    KeepOut l a (execPressClockSwitch b s) := by
  unfold execPressClockSwitch
  repeat' first
    | with_reducible assumption | exact hl.mono rfl | with_reducible apply keep_fadd
    | with_reducible apply keep_setDiv | with_reducible apply keepOut_ite | with_reducible apply keep_ite
    | with_reducible apply keepOut_next

/-! ### Machine/Dormancy.lean -/

theorem keep_dormEnter (h : Keep l a s) (hl : Covers l [.regs, .power]) : Keep l a (dormEnter s) := by
  unfold dormEnter
  repeat' first
    | with_reducible assumption | exact hl.mono rfl | with_reducible apply keep_fset | split
    | with_reducible refine keep_fst (by assumption) ?_ | with_reducible refine keep_snd (by assumption) ?_
    | dsimp only | refine keep_mk (m := [.power]) rfl ?_ (hl.mono rfl)

theorem keep_dormFields (h : Keep l a s) (hl : Covers l [.regs]) : Keep l a (dormFields b s) := by
  unfold dormFields
  repeat' first | with_reducible assumption | exact hl.mono rfl | with_reducible apply keep_fset

theorem keep_execDormancyEnter (h : Keep l a s) (hl : Covers l [.regs, .power]) :
    KeepOut l a (execDormancyEnter b s) := by
  unfold execDormancyEnter
  repeat' first
    | with_reducible assumption | exact hl.mono rfl | with_reducible apply keep_dormFields
    | with_reducible apply keep_dormEnter | with_reducible apply keepOut_ite | with_reducible apply keep_ite
    | with_reducible apply keepOut_next

theorem keep_discardFrames (h : Keep l a s) (hl : Covers l [.regs, .cellar, .ports, .presses, .fabric, .cm, .pmu]) :
    Keep l a (discardFrames s) := by
  unfold discardFrames
  extract_lets n u v
  have hu : Keep l a u := keep_foldl (keep_fadd h (hl.mono rfl)) fun _ _ hx => keep_endFrame hx (hl.mono rfl)
  clear_value u
  exact keep_evalXoff (keep_mk (m := [.cellar, .ports, .presses, .cm]) rfl hu (hl.mono rfl)
    (h5 := fun hc => ⟨canonical_trim hc.1.1 fun _ => rfl, rfl⟩)) (hl.mono rfl)

theorem keep_dormSleep (h : Keep l a s) (hl : Covers l [.regs, .aux, .power, .errors]) : Keep l a (dormSleep s) := by
  unfold dormSleep
  repeat' first
    | with_reducible assumption | exact hl.mono rfl | with_reducible apply keep_postError
    | with_reducible apply keep_writeImage | with_reducible apply keep_ite | split | dsimp only
    | refine keep_mk (m := [.aux, .power]) rfl ?_ (hl.mono rfl)

theorem keep_execDormancyQuiesceEnd (h : Keep l a s) (hl : Covers l [.regs, .cellar, .rows, .ports, .presses, .fabric, .aux, .power, .errors, .cm, .pmu]) :
    KeepOut l a (execDormancyQuiesceEnd s) := by
  unfold execDormancyQuiesceEnd
  repeat' first
    | with_reducible assumption | exact hl.mono rfl | with_reducible apply keep_discardFrames
    | with_reducible apply keep_admitArrivals | with_reducible apply keep_dormSleep | with_reducible apply keepOut_ite
    | with_reducible apply keep_ite | with_reducible apply keepOut_next

theorem keep_wakeRows (h : Keep l a s) (hl : Covers l [.regs, .rows, .ports]) : Keep l a (wakeRows s) := by
  unfold wakeRows
  repeat' first
    | with_reducible assumption | exact hl.mono rfl | with_reducible apply keep_enableRow
    | with_reducible apply keep_ite | with_reducible apply keep_foldl | split | dsimp only | (intro _; intros)

theorem keep_wakePresses (h : Keep l a s) (hl : Covers l [.regs, .presses]) : Keep l a (wakePresses s) := by
  unfold wakePresses
  repeat' first
    | with_reducible assumption | exact hl.mono rfl | with_reducible apply keep_restartWindow
    | with_reducible apply keep_modPress | with_reducible apply keep_applyDivs | with_reducible apply keep_foldl
    | dsimp only | (intro _; intros)

theorem keep_wakeEnd (h : Keep l a s) (hl : Covers l [.regs, .rows, .ports, .presses, .power]) :
    Keep l a (wakeEnd s) := by
  unfold wakeEnd
  repeat' first
    | with_reducible assumption | exact hl.mono rfl | with_reducible apply keep_raiseSource
    | with_reducible apply keep_wakePresses | with_reducible apply keep_wakeRows | dsimp only
    | refine keep_mk (m := [.power]) rfl ?_ (hl.mono rfl)

theorem keep_wake (h : Keep l a s) (hl : Covers l [.regs, .rows, .ports, .presses, .aux, .power]) :
    Keep l a (wake s) := by
  unfold wake
  repeat' first
    | with_reducible assumption | exact hl.mono rfl | with_reducible apply keep_raiseSource
    | with_reducible apply keep_wakeEnd | with_reducible apply keep_ite | split | dsimp only
    | refine keep_mk (m := [.aux, .power]) rfl ?_ (hl.mono rfl)

theorem keep_recordWake (h : Keep l a s) (hl : Covers l [.regs, .aux]) : Keep l a (recordWake b c s) := by
  unfold recordWake
  repeat' first
    | with_reducible assumption | exact hl.mono rfl | with_reducible apply keep_fset | split
    | with_reducible refine keep_fst (by assumption) ?_ | with_reducible refine keep_snd (by assumption) ?_
    | dsimp only | refine keep_mk (m := [.aux]) rfl ?_ (hl.mono rfl)

theorem keep_wakeEvent (h : Keep l a s) (hl : Covers l [.regs, .rows, .ports, .presses, .aux, .power]) :
    Keep l a (wakeEvent b s) := by
  unfold wakeEvent
  repeat' first
    | with_reducible assumption | exact hl.mono rfl | with_reducible apply keep_recordWake
    | with_reducible apply keep_wake | with_reducible apply keep_ite | split

theorem keep_hostWake (h : Keep l a s) (hl : Covers l [.regs, .rows, .ports, .presses, .aux, .power]) :
    Keep l a (hostWake s) := by
  unfold hostWake
  repeat' first
    | with_reducible assumption | exact hl.mono rfl | with_reducible apply keep_wakeEvent
    | with_reducible apply keep_ite

theorem keep_execHostWake (h : Keep l a s) (hl : Covers l [.regs, .rows, .ports, .presses, .aux, .power]) :
    KeepOut l a (execHostWake s) := by
  unfold execHostWake
  repeat' first
    | with_reducible assumption | exact hl.mono rfl | with_reducible apply keep_settle
    | with_reducible apply keep_hostWake | with_reducible apply keepOut_next

theorem keep_execWakeTimer (h : Keep l a s) (hl : Covers l [.regs, .rows, .ports, .presses, .aux, .power]) :
    KeepOut l a (execWakeTimer s) := by
  unfold execWakeTimer
  repeat' first
    | with_reducible assumption | exact hl.mono rfl | with_reducible apply keep_settle
    | with_reducible apply keep_wakeEvent | with_reducible apply keepOut_ite | with_reducible apply keep_ite
    | with_reducible apply keepOut_next

theorem keep_execWakeVddsReturn (h : Keep l a s) (hl : Covers l [.regs, .rows, .ports, .presses, .aux, .power]) :
    KeepOut l a (execWakeVddsReturn s) := by
  unfold execWakeVddsReturn
  repeat' first
    | with_reducible assumption | exact hl.mono rfl | with_reducible apply keep_settle
    | with_reducible apply keep_fset | with_reducible apply keep_wakeEnd | with_reducible apply keepOut_ite
    | with_reducible apply keep_ite | with_reducible apply keepOut_next | with_reducible exact keepOut_fault | split
    | dsimp only | refine keep_mk (m := [.aux]) rfl ?_ (hl.mono rfl)

theorem keep_supplyStep (h : Keep l a s) (hl : Covers l [.regs, .pairHeld, .pairCap, .chans, .rings, .book, .cellar, .rows, .ports, .presses, .replicas, .engine, .fabric, .funcs, .events, .time, .cvTest, .aux, .power, .errors, .racking, .cm, .mgmt, .pmu]) :
    Keep l a (supplyStep b c s) := by
  unfold supplyStep
  repeat' first
    | with_reducible assumption | exact hl.mono rfl | with_reducible apply keep_settle
    | with_reducible apply keep_supplyChange | with_reducible apply keep_wakeEnd | with_reducible apply keep_ite

theorem keep_capture (h : Keep l a s) (hl : Covers l [.aux]) : Keep l a (capture b c s) := by
  unfold capture
  repeat' first
    | with_reducible assumption | exact hl.mono rfl | dsimp only | refine keep_mk (m := [.aux]) rfl ?_ (hl.mono rfl)

theorem keep_sentinelTakes (h : Keep l a s) (hl : Covers l [.regs, .aux]) : Keep l a (sentinelTakes b c d s) := by
  unfold sentinelTakes
  repeat' first
    | with_reducible assumption | exact hl.mono rfl | with_reducible apply keep_fadd
    | with_reducible apply keep_capture | with_reducible apply keep_ite

theorem keep_execSentinelFrame (h : Keep l a s) (hl : Covers l [.regs, .aux]) :
    KeepOut l a (execSentinelFrame b c s) := by
  unfold execSentinelFrame
  repeat' first
    | with_reducible assumption | exact hl.mono rfl | with_reducible apply keep_sentinelTakes
    | with_reducible apply keep_missFrame | with_reducible apply keepOut_ite | with_reducible apply keep_ite
    | with_reducible apply keepOut_next | with_reducible exact keepOut_fault | split

theorem keep_patternMatch (h : Keep l a s) (hl : Covers l [.regs, .rows, .ports, .presses, .aux, .power]) :
    Keep l a (patternMatch b s) := by
  unfold patternMatch
  repeat' first
    | with_reducible assumption | exact hl.mono rfl | with_reducible apply keep_fset
    | with_reducible apply keep_wakeEvent | with_reducible apply keep_ite | split
    | with_reducible refine keep_fst (by assumption) ?_ | with_reducible refine keep_snd (by assumption) ?_
    | dsimp only | refine keep_mk (m := [.aux]) rfl ?_ (hl.mono rfl)

theorem keep_execPatternMatch (h : Keep l a s) (hl : Covers l [.regs, .rows, .ports, .presses, .aux, .power]) :
    KeepOut l a (execPatternMatch b s) := by
  unfold execPatternMatch
  repeat' first
    | with_reducible assumption | exact hl.mono rfl | with_reducible apply keep_patternMatch
    | with_reducible apply keep_settle | with_reducible apply keepOut_ite | with_reducible apply keep_ite
    | with_reducible apply keepOut_next

/-! ### Machine/Cages.lean -/

theorem keep_setCage (h : Keep l a s) (hl : Covers l [.aux]) : Keep l a (setCage b c s) := by
  unfold setCage
  repeat' first
    | with_reducible assumption | exact hl.mono rfl | dsimp only | refine keep_mk (m := [.aux]) rfl ?_ (hl.mono rfl)

theorem keep_cageEvent (h : Keep l a s) (hl : Covers l [.regs]) : Keep l a (cageEvent b c s) := by
  unfold cageEvent
  repeat' first
    | with_reducible assumption | exact hl.mono rfl | with_reducible apply keep_setReg
    | with_reducible apply keep_raiseSource | with_reducible apply keep_ite

theorem keep_cageFault (h : Keep l a s) (hl : Covers l [.regs, .aux]) : Keep l a (cageFault b c s) := by
  unfold cageFault
  repeat' first
    | with_reducible assumption | exact hl.mono rfl | with_reducible apply keep_cageEvent
    | with_reducible apply keep_setCage

theorem keep_cagePresence (h : Keep l a s) (hl : Covers l [.regs, .aux]) : Keep l a (cagePresence b c s) := by
  unfold cagePresence
  repeat' first
    | with_reducible assumption | exact hl.mono rfl | with_reducible apply keep_cageEvent
    | with_reducible apply keep_setCage | with_reducible apply keep_fset | with_reducible apply keep_ite

theorem keep_cageInput (h : Keep l a s) (hl : Covers l [.aux]) (hd : ∀ u, Keep l a u → Keep l a (d u)) :
    KeepOut l a (cageInput b c d s) := by
  unfold cageInput
  exact keepOut_ite (keepOut_next h) (keepOut_ite (keepOut_next (keep_settle (hd _ h)))
    (keepOut_next (keep_setCage h (hl.mono rfl))))

theorem keep_execCagePresenceChange (h : Keep l a s) (hl : Covers l [.regs, .aux]) :
    KeepOut l a (execCagePresenceChange b c s) := by
  unfold execCagePresenceChange
  repeat' first
    | with_reducible assumption | exact hl.mono rfl | with_reducible apply keep_cagePresence
    | with_reducible apply keep_cageInput | with_reducible apply keepOut_next | with_reducible exact keepOut_fault
    | dsimp only | (intro _; intros)

theorem keep_powerCage (h : Keep l a s) (hl : Covers l [.regs, .aux]) : Keep l a (powerCage b s) := by
  unfold powerCage
  repeat' first
    | with_reducible assumption | exact hl.mono rfl | with_reducible apply keep_setCage
    | with_reducible apply keep_fset | with_reducible apply keep_ite

theorem keep_unpowerCage (h : Keep l a s) (hl : Covers l [.regs, .aux]) : Keep l a (unpowerCage b s) := by
  unfold unpowerCage
  repeat' first
    | with_reducible assumption | exact hl.mono rfl | with_reducible apply keep_setCage
    | with_reducible apply keep_fset | with_reducible apply keep_ite

theorem keep_execCagePowerEnable (h : Keep l a s) (hl : Covers l [.regs, .aux]) :
    KeepOut l a (execCagePowerEnable b s) := by
  unfold execCagePowerEnable
  repeat' first
    | with_reducible assumption | exact hl.mono rfl | with_reducible apply keep_powerCage
    | with_reducible apply keepOut_ite | with_reducible apply keep_ite | with_reducible apply keepOut_next

theorem keep_execCagePowerDisable (h : Keep l a s) (hl : Covers l [.regs, .aux]) :
    KeepOut l a (execCagePowerDisable b s) := by
  unfold execCagePowerDisable
  repeat' first
    | with_reducible assumption | exact hl.mono rfl | with_reducible apply keep_unpowerCage
    | with_reducible apply keepOut_ite | with_reducible apply keep_ite | with_reducible apply keepOut_next

theorem keep_powerGood (h : Keep l a s) (hl : Covers l [.regs, .aux]) : Keep l a (powerGood b s) := by
  unfold powerGood
  repeat' first
    | with_reducible assumption | exact hl.mono rfl | with_reducible apply keep_cageEvent
    | with_reducible apply keep_setCage | with_reducible apply keep_ite

theorem keep_execCagePowerGood (h : Keep l a s) (hl : Covers l [.regs, .aux]) :
    KeepOut l a (execCagePowerGood b s) := by
  unfold execCagePowerGood
  repeat' first
    | with_reducible assumption | exact hl.mono rfl | with_reducible apply keep_powerGood
    | with_reducible apply keep_cageInput | with_reducible apply keepOut_next | with_reducible exact keepOut_fault
    | dsimp only | (intro _; intros)

theorem keep_execCagePgTimeout (h : Keep l a s) (hl : Covers l [.regs, .aux]) :
    KeepOut l a (execCagePgTimeout b s) := by
  unfold execCagePgTimeout
  repeat' first
    | with_reducible assumption | exact hl.mono rfl | with_reducible apply keep_cageFault
    | with_reducible apply keepOut_ite | with_reducible apply keep_ite | with_reducible apply keepOut_next

theorem keep_powerFaultInput (h : Keep l a s) (hl : Covers l [.regs, .aux]) : Keep l a (powerFaultInput b c s) := by
  unfold powerFaultInput
  repeat' first
    | with_reducible assumption | exact hl.mono rfl | with_reducible apply keep_setCage
    | with_reducible apply keep_cageFault | with_reducible apply keep_ite

theorem keep_execCagePowerFault (h : Keep l a s) (hl : Covers l [.regs, .aux]) :
    KeepOut l a (execCagePowerFault b c s) := by
  unfold execCagePowerFault
  repeat' first
    | with_reducible assumption | exact hl.mono rfl | with_reducible apply keep_powerFaultInput
    | with_reducible apply keep_cageInput | with_reducible apply keepOut_next | with_reducible exact keepOut_fault
    | dsimp only | (intro _; intros)

theorem keep_powerGoodLost (h : Keep l a s) (hl : Covers l [.regs, .aux]) : Keep l a (powerGoodLost b s) := by
  unfold powerGoodLost
  repeat' first
    | with_reducible assumption | exact hl.mono rfl | with_reducible apply keep_setCage
    | with_reducible apply keep_cageFault | with_reducible apply keep_ite

theorem keep_execCagePowerGoodLost (h : Keep l a s) (hl : Covers l [.regs, .aux]) :
    KeepOut l a (execCagePowerGoodLost b s) := by
  unfold execCagePowerGoodLost
  repeat' first
    | with_reducible assumption | exact hl.mono rfl | with_reducible apply keep_powerGoodLost
    | with_reducible apply keep_cageInput | with_reducible apply keepOut_next | with_reducible exact keepOut_fault
    | dsimp only | (intro _; intros)

theorem keep_buttonPress (h : Keep l a s) (hl : Covers l [.regs, .rows, .ports, .presses, .aux, .power]) :
    Keep l a (buttonPress b s) := by
  unfold buttonPress
  have h1 := keep_cageEvent (b := b) (c := 3) h (hl.mono rfl)
  exact keep_ite h (keep_ite (keep_wakeEvent h1 (hl.mono rfl)) h1)

theorem keep_execCageButton (h : Keep l a s) (hl : Covers l [.regs, .rows, .ports, .presses, .aux, .power]) :
    KeepOut l a (execCageButton b s) := by
  unfold execCageButton
  repeat' first
    | with_reducible assumption | exact hl.mono rfl | with_reducible apply keep_buttonPress
    | with_reducible apply keep_cageInput | with_reducible apply keepOut_next | with_reducible exact keepOut_fault
    | dsimp only | (intro _; intros)

theorem keep_latched (h : Keep l a s) (hl : Covers l [.regs, .rows, .ports, .presses, .aux, .power]) :
    Keep l a (latched s b) := by
  unfold latched
  extract_lets x s1 s2 s3 s4
  have h1 : Keep l a s1 := keep_setCage h (hl.mono rfl)
  have h2 : Keep l a s2 := keep_ite (keep_cageFault h1 (hl.mono rfl)) h1
  clear_value s1 s2
  have h3 : Keep l a s3 := by
    unfold s3
    split
    · exact h2
    · exact keep_cagePresence (keep_ite (keep_cagePresence h2 (hl.mono rfl)) h2) (hl.mono rfl)
  clear_value s3
  have h4 : Keep l a s4 := keep_ite (keep_ite (keep_powerGood h3 (hl.mono rfl)) h3)
    (keep_ite (keep_powerGoodLost h3 (hl.mono rfl)) h3)
  clear_value s4
  exact keep_ite (keep_buttonPress h4 (hl.mono rfl)) h4

theorem keep_rclkReturns (h : Keep l a s) (hl : Covers l [.regs, .rows, .ports, .presses, .aux, .power]) :
    Keep l a (rclkReturns s) := by
  unfold rclkReturns
  extract_lets x t
  have ht : Keep l a t := keep_mk (m := [.aux]) rfl h (hl.mono rfl)
  clear_value t
  exact keep_ite ht (keep_foldl ht fun _ _ hu => keep_latched hu (hl.mono rfl))

theorem keep_rclkStops (h : Keep l a s) (hl : Covers l [.aux]) : Keep l a (rclkStops b s) := by
  unfold rclkStops
  repeat' first
    | with_reducible assumption | exact hl.mono rfl | with_reducible apply keep_ite | split | dsimp only
    | refine keep_mk (m := [.aux]) rfl ?_ (hl.mono rfl)

theorem keep_supplyAndClock (h : Keep l a s) (hl : Covers l [.regs, .pairHeld, .pairCap, .chans, .rings, .book, .cellar, .rows, .ports, .presses, .replicas, .engine, .fabric, .funcs, .events, .time, .cvTest, .aux, .power, .errors, .racking, .cm, .mgmt, .pmu]) :
    Keep l a (supplyAndClock b c d s) := by
  unfold supplyAndClock
  have ht := keep_supplyStep (b := b) (c := c) h (hl.mono rfl)
  exact keep_ite ht (keep_ite (keep_rclkReturns ht (hl.mono rfl)) (keep_rclkStops ht (hl.mono rfl)))

theorem keep_execSupplyLoss (h : Keep l a s) (hl : Covers l [.regs, .pairHeld, .pairCap, .chans, .rings, .book, .cellar, .rows, .ports, .presses, .replicas, .engine, .fabric, .funcs, .events, .time, .cvTest, .aux, .power, .errors, .racking, .cm, .mgmt, .pmu]) :
    KeepOut l a (execSupplyLoss b c d s) := by
  unfold execSupplyLoss
  repeat' first
    | with_reducible assumption | exact hl.mono rfl | with_reducible apply keep_supplyAndClock
    | with_reducible apply keepOut_next

theorem keep_releaseReset (h : Keep l a s) (hl : Covers l [.regs, .pairHeld, .pairCap, .chans, .rings, .book, .cellar, .rows, .ports, .presses, .replicas, .engine, .fabric, .funcs, .events, .time, .cvTest, .aux, .power, .errors, .racking, .cm, .mgmt, .pmu, .freeCount]) :
    Keep l a (releaseReset b s) := by
  unfold releaseReset
  have ht := keep_powerOn (keep_rclkReturns h (hl.mono rfl)) (hl.mono rfl)
  exact keep_ite (keep_readBook ht (hl.mono rfl)) ht

theorem keep_execPowerOnReset (h : Keep l a s) (hl : Covers l [.regs, .pairHeld, .pairCap, .chans, .rings, .book, .cellar, .rows, .ports, .presses, .replicas, .engine, .fabric, .funcs, .events, .time, .cvTest, .aux, .power, .errors, .racking, .cm, .mgmt, .pmu, .freeCount]) :
    KeepOut l a (execPowerOnReset b s) := by
  unfold execPowerOnReset
  repeat' first
    | with_reducible assumption | exact hl.mono rfl | with_reducible apply keep_releaseReset
    | with_reducible apply keepOut_ite | with_reducible apply keep_ite | with_reducible apply keepOut_next

end Sys2Proof.Machine
end

