-- ==== Sys2Proof/Laws/KeepManage.lean ====
section
/-!
SUPPORT. What each operation keeps and changes (racking, the cellarmaster and management): the invariant
of the machine, and the parts outside the list that its lemma names.
-/

set_option Elab.async false

namespace Sys2Proof.Machine

variable {l : List Part} {a s t : State}

/-! ### Machine/Faults.lean -/

theorem keep_execErrorPop (h : Keep l a s) (hl : Covers l [.errors]) : KeepOut l a (execErrorPop b s) := by
  unfold execErrorPop
  repeat' first
    | with_reducible assumption | exact hl.mono rfl | with_reducible apply keep_popErrors
    | with_reducible apply keepOut_ite | with_reducible apply keep_ite | with_reducible apply keepOut_next

theorem keep_rackCmd (h : Keep l a s) (hl : Covers l [.regs, .presses, .racking]) : Keep l a (rackCmd b c s).1 := by
  unfold rackCmd
  repeat' first
    | with_reducible assumption | exact hl.mono rfl | with_reducible apply keep_requestRack
    | with_reducible apply keep_fst_ite

theorem keep_execRack (h : Keep l a s) (hl : Covers l [.regs, .presses, .racking]) :
    KeepOut l a (execRack b c s) := by
  unfold execRack
  repeat' first
    | with_reducible assumption | exact hl.mono rfl | with_reducible apply keep_rackCmd
    | with_reducible apply keep_settle | with_reducible apply keepOut_ite | with_reducible apply keep_ite
    | with_reducible apply keepOut_next

theorem keep_startCutover (h : Keep l a s) (hl : Covers l [.presses, .engine, .racking]) :
    Keep l a (startCutover s) := by
  unfold startCutover
  repeat' first
    | with_reducible assumption | exact hl.mono rfl | with_reducible apply keep_raiseSource
    | with_reducible apply keep_modPress | dsimp only | refine keep_mk (m := [.engine, .racking]) rfl ?_ (hl.mono rfl)

theorem keep_execRackPrepareTest (h : Keep l a s) (hl : Covers l [.presses, .engine, .racking]) :
    KeepOut l a (execRackPrepareTest s) := by
  unfold execRackPrepareTest
  repeat' first
    | with_reducible assumption | exact hl.mono rfl | with_reducible apply keep_startCutover
    | with_reducible apply keepOut_ite | with_reducible apply keep_ite | with_reducible apply keepOut_next

theorem keep_prepareTimeout (h : Keep l a s) (hl : Covers l [.regs, .chans, .rings, .book, .cellar, .ports, .presses, .fabric, .time, .aux, .power, .errors, .racking, .pmu]) :
    Keep l a (prepareTimeout s) := by
  unfold prepareTimeout
  repeat' first
    | with_reducible assumption | exact hl.mono rfl | with_reducible apply keep_portTurn | with_reducible apply keep_escalate
    | with_reducible apply keep_abortRacking | with_reducible apply keep_ite | dsimp only

theorem keep_execRackPrepareTimeout (h : Keep l a s) (hl : Covers l [.regs, .chans, .rings, .book, .cellar, .ports, .presses, .fabric, .time, .aux, .power, .errors, .racking, .pmu]) :
    KeepOut l a (execRackPrepareTimeout s) := by
  unfold execRackPrepareTimeout
  repeat' first
    | with_reducible assumption | exact hl.mono rfl | with_reducible apply keep_settle
    | with_reducible apply keep_prepareTimeout | with_reducible apply keepOut_ite | with_reducible apply keep_ite
    | with_reducible apply keepOut_next

theorem keep_abortCmd (h : Keep l a s) (hl : Covers l [.regs, .chans, .presses, .racking]) : Keep l a (abortCmd s).1 := by
  unfold abortCmd
  repeat' first
    | with_reducible assumption | exact hl.mono rfl | with_reducible apply keep_abortRacking
    | with_reducible apply keep_fst_ite

theorem keep_execAbortRack (h : Keep l a s) (hl : Covers l [.regs, .chans, .presses, .racking]) :
    KeepOut l a (execAbortRack s) := by
  unfold execAbortRack
  repeat' first
    | with_reducible assumption | exact hl.mono rfl | with_reducible apply keep_abortCmd
    | with_reducible apply keepOut_ite | with_reducible apply keep_ite | with_reducible apply keepOut_next

theorem keep_handOver (h : Keep l a s) (hl : Covers l [.presses, .pmu]) : Keep l a (handOver s) := by
  unfold handOver
  repeat' first
    | with_reducible assumption | exact hl.mono rfl | with_reducible apply keep_modPress
    | with_reducible apply keep_discardResult | with_reducible apply keep_slotDiscarded
    | with_reducible apply keep_ite | with_reducible apply keep_foldl | split | dsimp only | (intro _; intros)

theorem keep_execRackHandover (h : Keep l a s) (hl : Covers l [.presses, .pmu]) :
    KeepOut l a (execRackHandover s) := by
  unfold execRackHandover
  repeat' first
    | with_reducible assumption | exact hl.mono rfl | with_reducible apply keep_handOver
    | with_reducible apply keepOut_ite | with_reducible apply keep_ite | with_reducible apply keepOut_next

theorem keep_copyPolicers (h : Keep l a s) (hl : Covers l [.presses]) : Keep l a (copyPolicers b c s) := by
  unfold copyPolicers
  repeat' first
    | with_reducible assumption | exact hl.mono rfl | with_reducible apply keep_setPolicer
    | with_reducible apply keep_foldl | dsimp only | (intro _; intros)

theorem keep_moveRows (h : Keep l a s) (hl : Covers l [.regs]) : Keep l a (moveRows b c s) := by
  unfold moveRows
  repeat' first
    | with_reducible assumption | exact hl.mono rfl | with_reducible apply keep_fset | with_reducible apply keep_ite

theorem keep_cutoverEnd (h : Keep l a s) (hl : Covers l [.regs, .chans, .rings, .book, .cellar, .ports, .presses, .engine, .fabric, .time, .aux, .power, .racking, .pmu]) :
    Keep l a (cutoverEnd b s) := by
  unfold cutoverEnd
  extract_lets src dst s1 w s2 s3 iso e r s4 s5 s6
  have h3 : Keep l a s3 := keep_modPress (keep_moveRows (keep_modPress (keep_copyPolicers (keep_handOver h (hl.mono rfl))
    (hl.mono rfl)) (hl.mono rfl)) (hl.mono rfl)) (hl.mono rfl)
  have h5 : Keep l a s5 := keep_repeatLookups (keep_raiseSource (keep_backlogCheck (keep_applyDivs (keep_ite
    (keep_setIsolated (keep_mk (m := [.engine, .racking]) rfl h3 (hl.mono rfl)) (hl.mono rfl))
    (keep_mk (m := [.engine, .racking]) rfl h3 (hl.mono rfl))) (hl.mono rfl)) (hl.mono rfl))) (hl.mono rfl)
  split
  · exact keep_startSoftReset (keep_mk (m := [.power]) rfl (keep_portTurn h5 (hl.mono rfl)) (hl.mono rfl)) (hl.mono rfl)
  · exact h5

theorem keep_execRackCutoverEnd (h : Keep l a s) (hl : Covers l [.regs, .chans, .rings, .book, .cellar, .ports, .presses, .engine, .fabric, .time, .aux, .power, .racking, .pmu]) :
    KeepOut l a (execRackCutoverEnd b s) := by
  unfold execRackCutoverEnd
  repeat' first
    | with_reducible assumption | exact hl.mono rfl | with_reducible apply keep_settle
    | with_reducible apply keep_cutoverEnd | with_reducible apply keepOut_ite | with_reducible apply keep_ite
    | with_reducible apply keepOut_next

theorem keep_execPressLogicFault (h : Keep l a s) (hl : Covers l [.regs, .chans, .rings, .cellar, .presses, .fabric, .aux, .power, .errors, .racking, .pmu]) :
    KeepOut l a (execPressLogicFault b s) := by
  unfold execPressLogicFault
  repeat' first
    | with_reducible assumption | exact hl.mono rfl | with_reducible apply keep_pressError
    | with_reducible apply keep_settle | with_reducible apply keepOut_ite | with_reducible apply keep_ite
    | with_reducible apply keepOut_next

theorem keep_declareSlow (h : Keep l a s) (hl : Covers l [.regs, .presses, .errors, .racking]) :
    Keep l a (declareSlow b s) := by
  unfold declareSlow
  repeat' first
    | with_reducible assumption | exact hl.mono rfl | with_reducible apply keep_fadd
    | with_reducible apply keep_fsetBit | with_reducible apply keep_requestRack
    | with_reducible apply keep_raiseSource | with_reducible apply keep_postError | with_reducible apply keep_ite

theorem keep_slowWindow (h : Keep l a s) (hl : Covers l [.regs, .presses, .errors, .racking]) :
    Keep l a (slowWindow b s) := by
  unfold slowWindow
  repeat' first
    | with_reducible assumption | exact hl.mono rfl | with_reducible apply keep_modPress
    | with_reducible apply keep_fset | with_reducible apply keep_declareSlow | with_reducible apply keep_ite

theorem keep_execSlowWindowEnd (h : Keep l a s) (hl : Covers l [.regs, .presses, .errors, .racking]) :
    KeepOut l a (execSlowWindowEnd b s) := by
  unfold execSlowWindowEnd
  repeat' first
    | with_reducible assumption | exact hl.mono rfl | with_reducible apply keep_settle
    | with_reducible apply keep_slowWindow | with_reducible apply keepOut_ite | with_reducible apply keep_ite
    | with_reducible apply keepOut_next

theorem keep_learnModeCmd (h : Keep l a s) (hl : Covers l [.regs, .presses, .engine]) :
    Keep l a (learnModeCmd b s).1 := by
  unfold learnModeCmd
  repeat' first
    | with_reducible assumption | exact hl.mono rfl | with_reducible apply keep_setLearnMode
    | with_reducible apply keep_fset | with_reducible apply keep_fst_ite

theorem keep_execSetLearnMode (h : Keep l a s) (hl : Covers l [.regs, .presses, .engine]) :
    KeepOut l a (execSetLearnMode b s) := by
  unfold execSetLearnMode
  repeat' first
    | with_reducible assumption | exact hl.mono rfl | with_reducible apply keep_learnModeCmd
    | with_reducible apply keepOut_ite | with_reducible apply keep_ite | with_reducible apply keepOut_next

theorem keep_spareCmd (h : Keep l a s) (hl : Covers l [.cellar]) : Keep l a (spareCmd b s).1 := by
  unfold spareCmd
  repeat' first
    | with_reducible assumption | exact hl.mono rfl | with_reducible apply keep_startSpare
    | with_reducible apply keep_fst_ite | with_reducible apply keep_ite | split

theorem keep_execSpareBank (h : Keep l a s) (hl : Covers l [.cellar]) : KeepOut l a (execSpareBank b s) := by
  unfold execSpareBank
  repeat' first
    | with_reducible assumption | exact hl.mono rfl | with_reducible apply keep_spareCmd
    | with_reducible apply keepOut_ite | with_reducible apply keep_ite | with_reducible apply keepOut_next

theorem keep_execRetentionSpareDone (h : Keep l a s) (hl : Covers l [.book]) :
    KeepOut l a (execRetentionSpareDone s) := by
  unfold execRetentionSpareDone
  repeat' first
    | with_reducible assumption | exact hl.mono rfl | with_reducible apply keepOut_ite | with_reducible apply keep_ite
    | with_reducible apply keepOut_next | with_reducible exact keepOut_fault | split | dsimp only
    | refine keep_mk (m := [.book]) rfl ?_ (hl.mono rfl)

theorem keep_restoreCmd (h : Keep l a s) (hl : Covers l [.presses]) : Keep l a (restoreCmd b s).1 := by
  unfold restoreCmd
  repeat' first
    | with_reducible assumption | exact hl.mono rfl | with_reducible apply keep_modPress
    | with_reducible apply keep_fst_ite

theorem keep_execRestorePress (h : Keep l a s) (hl : Covers l [.presses]) : KeepOut l a (execRestorePress b s) := by
  unfold execRestorePress
  repeat' first
    | with_reducible assumption | exact hl.mono rfl | with_reducible apply keep_restoreCmd
    | with_reducible apply keepOut_ite | with_reducible apply keep_ite | with_reducible apply keepOut_next

theorem keep_selfTestDone (h : Keep l a s) (hl : Covers l [.regs, .presses, .errors, .racking]) :
    Keep l a (selfTestDone b c s) := by
  unfold selfTestDone
  repeat' first
    | with_reducible assumption | exact hl.mono rfl | with_reducible apply keep_raiseSource
    | with_reducible apply keep_postError | with_reducible apply keep_setIsolated | with_reducible apply keep_modPress
    | with_reducible apply keep_ite

theorem keep_execPressSelfTestDone (h : Keep l a s) (hl : Covers l [.regs, .presses, .errors, .racking]) :
    KeepOut l a (execPressSelfTestDone b c s) := by
  unfold execPressSelfTestDone
  repeat' first
    | with_reducible assumption | exact hl.mono rfl | with_reducible apply keep_selfTestDone
    | with_reducible apply keepOut_ite | with_reducible apply keep_ite | with_reducible apply keepOut_next

theorem keep_counterReset (h : Keep l a s) (hl : Covers l [.pmu]) : Keep l a (counterReset b s) := by
  unfold counterReset
  repeat' first
    | with_reducible assumption | exact hl.mono rfl | with_reducible apply keep_addCount
    | with_reducible apply keep_ite | with_reducible apply keep_foldl | split | dsimp only
    | refine keep_mk (m := [.pmu]) rfl ?_ (hl.mono rfl) | (intro _; intros)

theorem keep_execCounterReset (h : Keep l a s) (hl : Covers l [.pmu]) : KeepOut l a (execCounterReset b s) := by
  unfold execCounterReset
  repeat' first
    | with_reducible assumption | exact hl.mono rfl | with_reducible apply keep_counterReset
    | with_reducible apply keepOut_ite | with_reducible apply keep_ite | with_reducible apply keepOut_next

/-! ### Machine/Mgmt.lean -/

theorem keep_moveSlowQueue (h : Keep l a s) (hl : Covers l [.regs, .chans, .cellar, .fabric, .cm, .pmu]) :
    Keep l a (moveSlowQueue s) := by
  unfold moveSlowQueue
  repeat' first
    | with_reducible assumption | exact hl.mono rfl | with_reducible apply keep_queueFrame
    | with_reducible apply keep_foldl | dsimp only | refine keep_mk (m := [.cm]) rfl ?_ (hl.mono rfl)
    | (intro _; intros)

theorem keep_dropPass (h : Keep l a s) (hl : Covers l [.fabric]) : Keep l a (dropPass s) := by
  unfold dropPass
  repeat' first | with_reducible assumption | exact hl.mono rfl | with_reducible apply keep_discardReqs

theorem keep_dropWaits (h : Keep l a s) (hl : Covers l [.engine]) : Keep l a (dropWaits s) := by
  unfold dropWaits
  repeat' first
    | with_reducible assumption | exact hl.mono rfl | dsimp only
    | refine keep_mk (m := [.engine]) rfl ?_ (hl.mono rfl)

theorem keep_failover (h : Keep l a s) (hl : Covers l [.regs, .chans, .cellar, .fabric, .cm, .pmu]) :
    Keep l a (failover s) := by
  unfold failover
  repeat' first
    | with_reducible assumption | exact hl.mono rfl | with_reducible apply keep_moveSlowQueue
    | with_reducible apply keep_raiseSource | with_reducible apply keep_fset | with_reducible apply keep_ite
    | with_reducible apply keep_foldl | split | dsimp only | (intro _; intros)

theorem keep_haltCm (h : Keep l a s) (hl : Covers l [.regs, .chans, .cellar, .engine, .fabric, .cm, .pmu]) :
    Keep l a (haltCm s) := by
  unfold haltCm
  repeat' first
    | with_reducible assumption | exact hl.mono rfl | with_reducible apply keep_failover
    | with_reducible apply keep_dropWaits | with_reducible apply keep_dropPass | dsimp only
    | refine keep_mk (m := [.cm]) rfl ?_ (hl.mono rfl)

theorem keep_cmFault (h : Keep l a s) (hl : Covers l [.regs, .chans, .cellar, .engine, .fabric, .errors, .cm, .pmu]) :
    Keep l a (cmFault s) := by
  unfold cmFault
  repeat' first
    | with_reducible assumption | exact hl.mono rfl | with_reducible apply keep_postError
    | with_reducible apply keep_dropWaits | with_reducible apply keep_haltCm | with_reducible apply keep_ite | split
    | dsimp only | refine keep_mk (m := [.cm]) rfl ?_ (hl.mono rfl)

theorem keep_execWatchdogExpiry (h : Keep l a s) (hl : Covers l [.regs, .chans, .cellar, .engine, .fabric, .errors, .cm, .pmu]) :
    KeepOut l a (execWatchdogExpiry b s) := by
  unfold execWatchdogExpiry
  repeat' first
    | with_reducible assumption | exact hl.mono rfl | with_reducible apply keep_settle
    | with_reducible apply keep_cmFault | with_reducible apply keep_fset | with_reducible apply keepOut_ite
    | with_reducible apply keep_ite | with_reducible apply keepOut_next

theorem keep_execLocalSramUncorrectable (h : Keep l a s) (hl : Covers l [.regs, .chans, .cellar, .engine, .fabric, .errors, .cm, .pmu]) :
    KeepOut l a (execLocalSramUncorrectable b s) := by
  unfold execLocalSramUncorrectable
  repeat' first
    | with_reducible assumption | exact hl.mono rfl | with_reducible apply keep_settle
    | with_reducible apply keep_cmFault | with_reducible apply keepOut_ite | with_reducible apply keep_ite
    | with_reducible apply keepOut_next | with_reducible exact keepOut_fault | split
    | with_reducible refine keep_fst (by assumption) ?_ | with_reducible refine keep_snd (by assumption) ?_
    | dsimp only | refine keep_mk (m := [.cm]) rfl ?_ (hl.mono rfl)

theorem keep_restartCm (h : Keep l a s) (hl : Covers l [.engine, .cm]) : Keep l a (restartCm s) := by
  unfold restartCm
  repeat' first
    | with_reducible assumption | exact hl.mono rfl | with_reducible apply keep_raiseSource
    | with_reducible apply keep_dropWaits | with_reducible apply keep_ite | split | dsimp only
    | refine keep_mk (m := [.cm]) rfl ?_ (hl.mono rfl)

theorem keep_execCmRestart (h : Keep l a s) (hl : Covers l [.engine, .cm]) : KeepOut l a (execCmRestart s) := by
  unfold execCmRestart
  repeat' first
    | with_reducible assumption | exact hl.mono rfl | with_reducible apply keep_restartCm
    | with_reducible apply keepOut_ite | with_reducible apply keep_ite | with_reducible apply keepOut_next

theorem keep_execCmHalt (h : Keep l a s) (hl : Covers l [.regs, .chans, .cellar, .engine, .fabric, .cm, .pmu]) :
    KeepOut l a (execCmHalt s) := by
  unfold execCmHalt
  repeat' first
    | with_reducible assumption | exact hl.mono rfl | with_reducible apply keep_settle
    | with_reducible apply keep_haltCm | with_reducible apply keepOut_ite | with_reducible apply keep_ite
    | with_reducible apply keepOut_next

theorem keep_cmToPort (h : Keep l a s) (hl : Covers l [.regs, .cellar, .ports, .fabric, .pmu, .serial]) :
    Keep l a (cmToPort b c d e i j k s) := by
  unfold cmToPort
  repeat' first
    | with_reducible assumption | exact hl.mono rfl | with_reducible apply keep_addRefs
    | with_reducible apply keep_pushFwd | with_reducible apply keep_takeSerial | with_reducible apply keep_foldl
    | with_reducible refine keep_fst (by assumption) ?_ | with_reducible refine keep_snd (by assumption) ?_
    | dsimp only | (intro _; intros)

theorem keep_sendSlow (h : Keep l a s) (hl : Covers l [.regs, .chans, .cellar, .ports, .fabric, .pmu, .serial]) :
    Keep l a (sendSlow b c s) := by
  unfold sendSlow
  repeat' first
    | with_reducible assumption | exact hl.mono rfl | with_reducible apply keep_cmToPort
    | with_reducible apply keep_discardRef | with_reducible apply keep_queueFrame | split

theorem keep_endSlow (h : Keep l a s) (hl : Covers l [.regs, .chans, .cellar, .ports, .fabric, .errors, .cm, .pmu, .serial]) :
    Keep l a (endSlow b c d s) := by
  unfold endSlow
  repeat' first
    | with_reducible assumption | exact hl.mono rfl | with_reducible apply keep_readCells
    | with_reducible apply keep_sendSlow | with_reducible apply keep_discardRef | with_reducible apply keep_count
    | with_reducible apply keep_ite | split | with_reducible refine keep_fst (by assumption) ?_
    | with_reducible refine keep_snd (by assumption) ?_ | dsimp only
    | refine keep_mk (m := [.cm]) rfl ?_ (hl.mono rfl)

theorem keep_sendBuilt (h : Keep l a s) (hl : Covers l [.regs, .chans, .cellar, .ports, .fabric, .pmu, .serial]) :
    Keep l a (sendBuilt b c s) := by
  unfold sendBuilt
  repeat' first
    | with_reducible assumption | exact hl.mono rfl | with_reducible apply keep_cmToPort
    | with_reducible apply keep_setFrame | with_reducible apply keep_discardRef | with_reducible apply keep_queueFrame
    | with_reducible apply keep_ite | split | with_reducible refine keep_fst (by assumption) ?_
    | with_reducible refine keep_snd (by assumption) ?_ | dsimp only
    | refine keep_mk (m := [.cellar]) rfl ?_ (hl.mono rfl)

theorem keep_slowPathEnd (h : Keep l a s) (hl : Covers l [.regs, .chans, .cellar, .ports, .fabric, .errors, .cm, .pmu, .serial]) :
    Keep l a (slowPathEnd b c s) := by
  unfold slowPathEnd
  repeat' first
    | with_reducible assumption | exact hl.mono rfl | with_reducible apply keep_endSlow
    | with_reducible apply keep_sendBuilt | split | with_reducible refine keep_fst (by assumption) ?_
    | with_reducible refine keep_snd (by assumption) ?_ | dsimp only
    | refine keep_mk (m := [.cm]) rfl ?_ (hl.mono rfl)

theorem keep_execCmSlowPathEnd (h : Keep l a s) (hl : Covers l [.regs, .chans, .cellar, .ports, .fabric, .errors, .cm, .pmu, .serial]) :
    KeepOut l a (execCmSlowPathEnd b c s) := by
  unfold execCmSlowPathEnd
  repeat' first
    | with_reducible assumption | exact hl.mono rfl | with_reducible apply keep_settle
    | with_reducible apply keep_slowPathEnd | with_reducible apply keepOut_ite | with_reducible apply keep_ite
    | with_reducible apply keepOut_next

theorem keep_startPass (h : Keep l a s) (hl : Covers l [.fabric]) : Keep l a (startPass s) := by
  unfold startPass
  repeat' first
    | with_reducible assumption | exact hl.mono rfl | with_reducible apply keep_submitRead
    | with_reducible apply keep_ite | with_reducible apply keep_foldl | split | dsimp only | (intro _; intros)

theorem keep_activateCmd (h : Keep l a s) (hl : Covers l [.fabric, .cm]) : Keep l a (activateCmd b c s).1 := by
  unfold activateCmd
  repeat' first
    | with_reducible assumption | exact hl.mono rfl | with_reducible apply keep_startPass
    | with_reducible apply keep_fst_ite | with_reducible apply keep_ite | split | dsimp only
    | refine keep_mk (m := [.cm]) rfl ?_ (hl.mono rfl)

theorem keep_setSession (h : Keep l a s) (hl : Covers l [.mgmt]) : Keep l a (setSession b c s) := by
  unfold setSession
  repeat' first
    | with_reducible assumption | exact hl.mono rfl | dsimp only | refine keep_mk (m := [.mgmt]) rfl ?_ (hl.mono rfl)

theorem keep_execActivateFw (h : Keep l a s) (hl : Covers l [.fabric, .cm]) : KeepOut l a (execActivateFw b c s) := by
  unfold execActivateFw
  repeat' first
    | with_reducible assumption | exact hl.mono rfl | with_reducible apply keep_settle
    | with_reducible apply keep_activateCmd | with_reducible apply keepOut_ite | with_reducible apply keep_ite
    | with_reducible apply keepOut_next

theorem keep_verifyDone (h : Keep l a s) (hl : Covers l [.regs, .errors, .cm]) : Keep l a (verifyDone b s) := by
  unfold verifyDone
  repeat' first
    | with_reducible assumption | exact hl.mono rfl | with_reducible apply keep_raiseSource
    | with_reducible apply keep_postError | with_reducible apply keep_fset | with_reducible apply keep_ite | split
    | dsimp only | refine keep_mk (m := [.cm]) rfl ?_ (hl.mono rfl)

theorem keep_loadDone (h : Keep l a s) (hl : Covers l [.regs, .chans, .cellar, .engine, .fabric, .errors, .cm, .pmu]) :
    Keep l a (loadDone b s) := by
  unfold loadDone
  repeat' first
    | with_reducible assumption | exact hl.mono rfl | with_reducible apply keep_raiseSource
    | with_reducible apply keep_postError | with_reducible apply keep_haltCm | split
    | with_reducible refine keep_fst (by assumption) ?_ | with_reducible refine keep_snd (by assumption) ?_
    | dsimp only | refine keep_mk (m := [.cm]) rfl ?_ (hl.mono rfl)

theorem keep_passFails (h : Keep l a s) (hl : Covers l [.regs, .chans, .cellar, .engine, .fabric, .errors, .cm, .pmu]) :
    Keep l a (passFails s) := by
  unfold passFails
  repeat' first
    | with_reducible assumption | exact hl.mono rfl | with_reducible apply keep_loadDone
    | with_reducible apply keep_verifyDone | with_reducible apply keep_dropPass | split
    | with_reducible refine keep_fst (by assumption) ?_ | with_reducible refine keep_snd (by assumption) ?_
    | dsimp only

theorem keep_setKeySlot (h : Keep l a s) (hl : Covers l [.aux]) : Keep l a (setKeySlot b c s) := by
  unfold setKeySlot
  repeat' first
    | with_reducible assumption | exact hl.mono rfl | dsimp only | refine keep_mk (m := [.aux]) rfl ?_ (hl.mono rfl)

theorem keep_execKeyWord (h : Keep l a s) (hl : Covers l [.aux]) : KeepOut l a (execKeyWord b c d s) := by
  unfold execKeyWord
  repeat' first
    | with_reducible assumption | exact hl.mono rfl | with_reducible apply keep_setKeySlot
    | with_reducible apply keepOut_ite | with_reducible apply keep_ite | with_reducible apply keepOut_next

theorem keep_execKeyCommit (h : Keep l a s) (hl : Covers l [.aux]) : KeepOut l a (execKeyCommit b s) := by
  unfold execKeyCommit
  repeat' first
    | with_reducible assumption | exact hl.mono rfl | with_reducible apply keep_setKeySlot
    | with_reducible apply keepOut_ite | with_reducible apply keep_ite | with_reducible apply keepOut_next

theorem keep_execKeyLock (h : Keep l a s) (hl : Covers l [.aux]) : KeepOut l a (execKeyLock s) := by
  unfold execKeyLock
  repeat' first
    | with_reducible assumption | exact hl.mono rfl | with_reducible apply keepOut_ite | with_reducible apply keep_ite
    | with_reducible apply keepOut_next | with_reducible exact keepOut_fault | split | dsimp only
    | refine keep_mk (m := [.aux]) rfl ?_ (hl.mono rfl)

theorem keep_closeSlot (h : Keep l a s) (hl : Covers l [.mgmt]) : Keep l a (closeSlot b s) := by
  unfold closeSlot
  repeat' first
    | with_reducible assumption | exact hl.mono rfl | with_reducible apply keep_ite | split | dsimp only
    | refine keep_mk (m := [.mgmt]) rfl ?_ (hl.mono rfl)

theorem keep_retireCmd (h : Keep l a s) (hl : Covers l [.aux]) : Keep l a (retireCmd b s).1 := by
  unfold retireCmd
  repeat' first
    | with_reducible assumption | exact hl.mono rfl | with_reducible apply keep_setKeySlot
    | with_reducible apply keep_fst_ite

theorem keep_execRetireKey (h : Keep l a s) (hl : Covers l [.aux, .mgmt]) : KeepOut l a (execRetireKey b s) := by
  unfold execRetireKey
  repeat' first
    | with_reducible assumption | exact hl.mono rfl | with_reducible apply keep_closeSlot
    | with_reducible apply keep_retireCmd | with_reducible apply keepOut_ite | with_reducible apply keep_ite
    | with_reducible apply keepOut_next

theorem keep_reply (h : Keep l a s) (hl : Covers l [.regs, .cellar, .ports, .fabric, .mgmt, .pmu, .serial]) :
    Keep l a (reply b c s) := by
  unfold reply
  repeat' first
    | with_reducible assumption | exact hl.mono rfl | with_reducible apply keep_pushFwd
    | with_reducible apply keep_raiseSource | with_reducible apply keep_takeSerial | with_reducible apply keep_ite
    | split | with_reducible refine keep_fst (by assumption) ?_ | with_reducible refine keep_snd (by assumption) ?_
    | dsimp only | refine keep_mk (m := [.mgmt]) rfl ?_ (hl.mono rfl)

theorem keep_handled (h : Keep l a s) (hl : Covers l [.mgmt]) : Keep l a (handled b s) := by
  unfold handled
  repeat' first
    | with_reducible assumption | exact hl.mono rfl | split | with_reducible refine keep_fst (by assumption) ?_
    | with_reducible refine keep_snd (by assumption) ?_ | dsimp only
    | refine keep_mk (m := [.mgmt]) rfl ?_ (hl.mono rfl)

theorem keep_onMessage (h :
    Keep l a s) (hl : Covers l [.regs, .cellar, .ports, .fabric, .mgmt, .pmu, .serial]) (hf : ∀ m u, Keep l a u → Keep l a (d m u)) :
    KeepOut l a (onMessage b c d s) := by
  unfold onMessage
  split
  · exact keepOut_ite (keepOut_next (keep_settle (keep_reply h (hl.mono rfl))))
      (keepOut_ite (keepOut_next (keep_settle (hf _ _ h))) (keepOut_next h))
  · exact keepOut_next h

theorem keep_openReq (h : Keep l a s) (hl : Covers l [.regs, .cellar, .ports, .fabric, .mgmt, .pmu, .freeCount, .serial]) :
    Keep l a (openReq b c s) := by
  unfold openReq
  repeat' first
    | with_reducible assumption | exact hl.mono rfl | with_reducible apply keep_setSession
    | with_reducible apply keep_reply | with_reducible apply keep_ite | split
    | with_reducible refine keep_fst (by assumption) ?_ | with_reducible refine keep_snd (by assumption) ?_
    | dsimp only | refine keep_mk (m := [.freeCount]) rfl ?_ (hl.mono rfl)

theorem keep_execOpenReq (h : Keep l a s) (hl : Covers l [.regs, .cellar, .ports, .fabric, .mgmt, .pmu, .freeCount, .serial]) :
    KeepOut l a (execOpenReq b s) := by
  unfold execOpenReq
  repeat' first
    | with_reducible assumption | exact hl.mono rfl | with_reducible apply keep_onMessage
    | with_reducible apply keep_openReq | with_reducible apply keepOut_next | with_reducible exact keepOut_fault
    | dsimp only | (intro _; intros)

theorem keep_strayError (h : Keep l a s) (hl : Covers l [.regs, .cellar, .ports, .fabric, .mgmt, .pmu, .freeCount, .serial]) :
    Keep l a (strayError b c s) := by
  unfold strayError
  repeat' first
    | with_reducible assumption | exact hl.mono rfl | with_reducible apply keep_reply | dsimp only
    | refine keep_mk (m := [.freeCount]) rfl ?_ (hl.mono rfl)

theorem keep_wrongProof (h : Keep l a s) (hl : Covers l [.aux]) : Keep l a (wrongProof b s) := by
  unfold wrongProof
  repeat' first | with_reducible assumption | exact hl.mono rfl | with_reducible apply keep_setKeySlot

theorem keep_proof (h : Keep l a s) (hl : Covers l [.regs, .cellar, .ports, .fabric, .aux, .mgmt, .pmu, .freeCount, .serial]) :
    Keep l a (proof b c s) := by
  unfold proof
  repeat' first
    | with_reducible assumption | exact hl.mono rfl | with_reducible apply keep_wrongProof
    | with_reducible apply keep_setSession | with_reducible apply keep_strayError | with_reducible apply keep_reply
    | with_reducible apply keep_setKeySlot | with_reducible apply keep_count | with_reducible apply keep_ite | split
    | with_reducible refine keep_fst (by assumption) ?_ | with_reducible refine keep_snd (by assumption) ?_
    | dsimp only

theorem keep_execProof (h : Keep l a s) (hl : Covers l [.regs, .cellar, .ports, .fabric, .aux, .mgmt, .pmu, .freeCount, .serial]) :
    KeepOut l a (execProof b s) := by
  unfold execProof
  repeat' first
    | with_reducible assumption | exact hl.mono rfl | with_reducible apply keep_proof
    | with_reducible apply keep_onMessage | with_reducible apply keepOut_next | with_reducible exact keepOut_fault
    | dsimp only | (intro _; intros)

theorem keep_steward (h : Keep l a s) (hl : Covers l [.regs, .chans, .cellar, .presses, .engine, .fabric, .aux, .racking, .cm, .pmu]) :
    Keep l a (steward b c d s).1 := by
  unfold steward
  repeat' first
    | with_reducible assumption | exact hl.mono rfl | with_reducible apply keep_rackCmd
    | with_reducible apply keep_learnModeCmd | with_reducible apply keep_activateCmd
    | with_reducible apply keep_spareCmd | with_reducible apply keep_counterReset
    | with_reducible apply keep_retireCmd | with_reducible apply keep_restoreCmd | with_reducible apply keep_abortCmd
    | split

theorem keep_runCommand (h : Keep l a s) (hl : Covers l [.regs, .chans, .cellar, .ports, .presses, .engine, .fabric, .aux, .racking, .cm, .mgmt, .pmu, .freeCount, .serial]) :
    Keep l a (runCommand b c d e s) := by
  unfold runCommand
  repeat' first
    | with_reducible assumption | exact hl.mono rfl | with_reducible apply keep_steward
    | with_reducible apply keep_closeSlot | with_reducible apply keep_setSession | with_reducible apply keep_reply
    | with_reducible apply keep_ite | split | with_reducible refine keep_fst (by assumption) ?_
    | with_reducible refine keep_snd (by assumption) ?_ | dsimp only
    | refine keep_mk (m := [.freeCount]) rfl ?_ (hl.mono rfl)

theorem keep_command (h : Keep l a s) (hl : Covers l [.regs, .chans, .cellar, .ports, .presses, .engine, .fabric, .aux, .racking, .cm, .mgmt, .pmu, .freeCount, .serial]) :
    Keep l a (command b c s) := by
  unfold command
  repeat' first
    | with_reducible assumption | exact hl.mono rfl | with_reducible apply keep_runCommand
    | with_reducible apply keep_setSession | with_reducible apply keep_strayError | with_reducible apply keep_reply
    | with_reducible apply keep_ite

theorem keep_execCommand (h : Keep l a s) (hl : Covers l [.regs, .chans, .cellar, .ports, .presses, .engine, .fabric, .aux, .racking, .cm, .mgmt, .pmu, .freeCount, .serial]) :
    KeepOut l a (execCommand b s) := by
  unfold execCommand
  repeat' first
    | with_reducible assumption | exact hl.mono rfl | with_reducible apply keep_command
    | with_reducible apply keep_onMessage | with_reducible apply keepOut_next | with_reducible exact keepOut_fault
    | dsimp only | (intro _; intros)

theorem keep_closeMsg (h : Keep l a s) (hl : Covers l [.regs, .cellar, .ports, .fabric, .mgmt, .pmu, .freeCount, .serial]) :
    Keep l a (closeMsg b c s) := by
  unfold closeMsg
  repeat' first
    | with_reducible assumption | exact hl.mono rfl | with_reducible apply keep_handled
    | with_reducible apply keep_setSession | with_reducible apply keep_strayError | with_reducible apply keep_reply
    | with_reducible apply keep_ite

theorem keep_execClose (h : Keep l a s) (hl : Covers l [.regs, .cellar, .ports, .fabric, .mgmt, .pmu, .freeCount, .serial]) :
    KeepOut l a (execClose b s) := by
  unfold execClose
  repeat' first
    | with_reducible assumption | exact hl.mono rfl | with_reducible apply keep_closeMsg
    | with_reducible apply keep_onMessage | with_reducible apply keepOut_next | with_reducible exact keepOut_fault
    | dsimp only | (intro _; intros)

theorem keep_execChallengeTimeout (h : Keep l a s) (hl : Covers l [.mgmt]) :
    KeepOut l a (execChallengeTimeout b s) := by
  unfold execChallengeTimeout
  repeat' first
    | with_reducible assumption | exact hl.mono rfl | with_reducible apply keep_setSession
    | with_reducible apply keepOut_ite | with_reducible apply keep_ite | with_reducible apply keepOut_next

theorem keep_execSessionIdleTimeout (h : Keep l a s) (hl : Covers l [.mgmt]) :
    KeepOut l a (execSessionIdleTimeout b s) := by
  unfold execSessionIdleTimeout
  repeat' first
    | with_reducible assumption | exact hl.mono rfl | with_reducible apply keep_setSession
    | with_reducible apply keepOut_ite | with_reducible apply keep_ite | with_reducible apply keepOut_next

theorem keep_execKeyLockoutEnd (h : Keep l a s) (hl : Covers l [.aux]) : KeepOut l a (execKeyLockoutEnd b s) := by
  unfold execKeyLockoutEnd
  repeat' first
    | with_reducible assumption | exact hl.mono rfl | with_reducible apply keep_setKeySlot
    | with_reducible apply keepOut_next

theorem keep_mboxStore (h : Keep l a s) (hl : Covers l [.mgmt]) : Keep l a (mboxStore b s) := by
  unfold mboxStore
  repeat' first
    | with_reducible assumption | exact hl.mono rfl | dsimp only | refine keep_mk (m := [.mgmt]) rfl ?_ (hl.mono rfl)

theorem keep_execMboxStorePart (h : Keep l a s) (hl : Covers l [.regs, .mgmt]) :
    KeepOut l a (execMboxStorePart b s) := by
  unfold execMboxStorePart
  repeat' first
    | with_reducible assumption | exact hl.mono rfl | with_reducible apply keep_mboxStore
    | with_reducible apply keep_fset | with_reducible apply keepOut_ite | with_reducible apply keep_ite
    | with_reducible apply keepOut_next

theorem keep_mboxSend (h : Keep l a s) (hl : Covers l [.regs, .mgmt]) : Keep l a (mboxSend b s) := by
  unfold mboxSend
  repeat' first
    | with_reducible assumption | exact hl.mono rfl | with_reducible apply keep_fset | with_reducible apply keep_ite
    | split | dsimp only | refine keep_mk (m := [.mgmt]) rfl ?_ (hl.mono rfl)

theorem keep_execMboxSend (h : Keep l a s) (hl : Covers l [.regs, .mgmt]) : KeepOut l a (execMboxSend b s) := by
  unfold execMboxSend
  repeat' first
    | with_reducible assumption | exact hl.mono rfl | with_reducible apply keep_mboxSend
    | with_reducible apply keep_fset | with_reducible apply keepOut_ite | with_reducible apply keep_ite
    | with_reducible apply keepOut_next

theorem keep_mboxFetch (h : Keep l a s) (hl : Covers l [.regs, .freeCount]) : Keep l a (mboxFetch b s) := by
  unfold mboxFetch
  repeat' first
    | with_reducible assumption | exact hl.mono rfl | with_reducible apply keep_fset | with_reducible apply keep_ite
    | with_reducible apply keep_foldl | split | with_reducible refine keep_fst (by assumption) ?_
    | with_reducible refine keep_snd (by assumption) ?_ | dsimp only
    | refine keep_mk (m := [.freeCount]) rfl ?_ (hl.mono rfl) | (intro _; intros)

theorem keep_execMboxFetchPart (h : Keep l a s) (hl : Covers l [.regs, .freeCount]) :
    KeepOut l a (execMboxFetchPart b s) := by
  unfold execMboxFetchPart
  repeat' first
    | with_reducible assumption | exact hl.mono rfl | with_reducible apply keep_mboxFetch
    | with_reducible apply keep_fset | with_reducible apply keepOut_ite | with_reducible apply keep_ite
    | with_reducible apply keepOut_next

/-! ### Machine/Reply.lean -/

theorem keep_afterReq (h : Keep l a s) (hl : Covers l [.regs, .chans, .rings, .book, .cellar, .ports, .presses, .fabric, .funcs, .events, .aux, .power, .pmu]) :
    Keep l a (afterReq b s) := by
  unfold afterReq
  repeat' first
    | with_reducible assumption | exact hl.mono rfl | with_reducible apply keep_drainCheck
    | with_reducible apply keep_stopCheck | split

theorem keep_lateAnswer (h : Keep l a s) (hl : Covers l [.regs, .chans, .rings, .book, .cellar, .ports, .presses, .fabric, .funcs, .events, .aux, .power, .pmu]) :
    Keep l a (lateAnswer b s) := by
  unfold lateAnswer
  repeat' first
    | with_reducible assumption | exact hl.mono rfl | with_reducible apply keep_settle
    | with_reducible apply keep_releaseQuarantine | with_reducible apply keep_lateCount
    | with_reducible apply keep_drainCheck | split

theorem keep_readReply (h :
    Keep l a s) (hl : Covers l [.regs, .chans, .rings, .book, .cellar, .ports, .presses, .fabric, .funcs, .events, .aux, .power, .pmu])
    (hok : ∀ r bs u, Keep l a u → Keep l a (e r bs u)) (herr : ∀ r u, Keep l a u → Keep l a (i r u)) :
    KeepOut l a (readReply b c d e i s) := by
  unfold readReply
  refine keepOut_ite (keepOut_next h) ?_
  split
  · exact keepOut_next (keep_lateAnswer h (hl.mono rfl))
  · refine keepOut_ite (keepOut_next h) ?_
    extract_lets t
    have ht : Keep l a t := keep_dropReq h (hl.mono rfl)
    clear_value t
    split
    · have hu := keep_errResponse (b := ‹Req›) ht (hl.mono rfl)
      exact keepOut_next (keep_settle (keep_afterReq (keep_ite hu (herr _ _ hu)) (hl.mono rfl)))
    · exact keepOut_ite keepOut_fault
        (keepOut_next (keep_settle (keep_afterReq (keep_ite ht (hok _ _ _ ht)) (hl.mono rfl))))

end Sys2Proof.Machine
end

