-- ==== Sys2Proof/Laws/KeepTables.lean ====
section
/-!
SUPPORT. What each operation keeps and changes (the table engine and performance monitoring): the invariant
of the machine, and the parts outside the list that its lemma names.
-/

set_option Elab.async false

namespace Sys2Proof.Machine

variable {l : List Part} {a s t : State}

/-! ### Machine/Engine.lean -/

theorem keep_readCmdProd (h : Keep l a s) (hl : Covers l [.engine, .fabric]) : Keep l a (readCmdProd s) := by
  unfold readCmdProd
  repeat' first
    | with_reducible assumption | exact hl.mono rfl | with_reducible apply keep_submitRead
    | with_reducible apply keep_ite | split | dsimp only | refine keep_mk (m := [.engine]) rfl ?_ (hl.mono rfl)

theorem keep_execTableCommandDoorbell (h : Keep l a s) (hl : Covers l [.engine, .fabric]) :
    KeepOut l a (execTableCommandDoorbell s) := by
  unfold execTableCommandDoorbell
  repeat' first
    | with_reducible assumption | exact hl.mono rfl | with_reducible apply keep_settle
    | with_reducible apply keep_readCmdProd | with_reducible apply keepOut_ite | with_reducible apply keep_ite
    | with_reducible apply keepOut_next

theorem keep_ringFault (h : Keep l a s) (hl : Covers l [.regs, .engine]) : Keep l a (ringFault s) := by
  unfold ringFault
  repeat' first
    | with_reducible assumption | exact hl.mono rfl | with_reducible apply keep_raiseSource
    | with_reducible apply keep_fset | dsimp only | refine keep_mk (m := [.engine]) rfl ?_ (hl.mono rfl)

theorem keep_readData (h : Keep l a s) (hl : Covers l [.fabric]) : Keep l a (readData b c s) := by
  unfold readData
  repeat' first
    | with_reducible assumption | exact hl.mono rfl | with_reducible apply keep_submitRead | split | dsimp only

theorem keep_fetchCm (h : Keep l a s) (hl : Covers l [.engine, .fabric]) : Keep l a (fetchCm s) := by
  unfold fetchCm
  split
  · exact keep_ite h (keep_readData (keep_mk (m := [.engine]) rfl h (hl.mono rfl)) (hl.mono rfl))
  · exact h

theorem keep_cmDataRead (h : Keep l a s) (hl : Covers l [.engine, .fabric]) : Keep l a (cmDataRead b s) := by
  unfold cmDataRead
  extract_lets got e s1
  have h1 : Keep l a s1 := keep_mk (m := [.engine]) rfl h (hl.mono rfl)
  clear_value s1
  split
  · exact keep_fetchCm (keep_mk (m := [.engine]) rfl h1 (hl.mono rfl)) (hl.mono rfl)
  · exact h1

theorem keep_fetchCmd (h : Keep l a s) (hl : Covers l [.engine, .fabric]) : Keep l a (fetchCmd s) := by
  unfold fetchCmd
  repeat' first
    | with_reducible assumption | exact hl.mono rfl | with_reducible apply keep_readData | with_reducible apply keep_submitRead
    | with_reducible apply keep_ite | split | with_reducible refine keep_fst (by assumption) ?_
    | with_reducible refine keep_snd (by assumption) ?_ | dsimp only
    | refine keep_mk (m := [.engine]) rfl ?_ (hl.mono rfl)

theorem keep_queueCmd (h : Keep l a s) (hl : Covers l [.engine, .fabric]) : Keep l a (queueCmd b s) := by
  unfold queueCmd
  repeat' first
    | with_reducible assumption | exact hl.mono rfl | with_reducible apply keep_fetchCmd
    | with_reducible apply keep_ite | split | dsimp only | refine keep_mk (m := [.engine]) rfl ?_ (hl.mono rfl)

theorem keep_headDone (h : Keep l a s) (hl : Covers l [.regs, .engine, .fabric]) : Keep l a (headDone b s) := by
  unfold headDone
  repeat' first
    | with_reducible assumption | exact hl.mono rfl | with_reducible apply keep_readCmdProd
    | with_reducible apply keep_ringFault | with_reducible apply keep_fetchCmd | with_reducible apply keep_ite | split
    | with_reducible refine keep_fst (by assumption) ?_ | with_reducible refine keep_snd (by assumption) ?_
    | dsimp only | refine keep_mk (m := [.engine]) rfl ?_ (hl.mono rfl)

theorem keep_ringRead (h : Keep l a s) (hl : Covers l [.regs, .engine, .fabric]) : Keep l a (ringRead b c s) := by
  unfold ringRead
  repeat' first
    | with_reducible assumption | exact hl.mono rfl | with_reducible apply keep_cmDataRead | with_reducible apply keep_queueCmd
    | with_reducible apply keep_headDone | with_reducible apply keep_ite | split
    | with_reducible refine keep_fst (by assumption) ?_ | with_reducible refine keep_snd (by assumption) ?_
    | dsimp only | refine keep_mk (m := [.engine]) rfl ?_ (hl.mono rfl)

theorem keep_ringReadFailed (h : Keep l a s) (hl : Covers l [.regs, .engine, .fabric]) :
    Keep l a (ringReadFailed b s) := by
  unfold ringReadFailed
  repeat' first
    | with_reducible assumption | exact hl.mono rfl | with_reducible apply keep_cmDataRead | with_reducible apply keep_ringFault
    | with_reducible apply keep_queueCmd | split | with_reducible refine keep_fst (by assumption) ?_
    | with_reducible refine keep_snd (by assumption) ?_ | dsimp only
    | refine keep_mk (m := [.engine]) rfl ?_ (hl.mono rfl)

theorem keep_tableCtl (h : Keep l a s) (hl : Covers l [.regs, .engine, .fabric]) : Keep l a (tableCtl b s) := by
  unfold tableCtl
  repeat' first
    | with_reducible assumption | exact hl.mono rfl | with_reducible apply keep_setReg
    | with_reducible apply keep_readCmdProd | with_reducible apply keep_discardReqs | with_reducible apply keep_ite
    | split | with_reducible refine keep_fst (by assumption) ?_ | with_reducible refine keep_snd (by assumption) ?_
    | dsimp only | refine keep_mk (m := [.engine]) rfl ?_ (hl.mono rfl)

theorem keep_takeCmd (h : Keep l a s) (hl : Covers l [.engine]) : Keep l a (takeCmd b s) := by
  unfold takeCmd
  repeat' first
    | with_reducible assumption | exact hl.mono rfl | with_reducible apply keep_ite | split | dsimp only
    | refine keep_mk (m := [.engine]) rfl ?_ (hl.mono rfl)

theorem keep_answer (h : Keep l a s) (hl : Covers l [.engine, .fabric]) : Keep l a (answer b c s) := by
  unfold answer
  exact keep_ite (keep_submitWrite (keep_mk (m := [.engine]) rfl h (hl.mono rfl)) (hl.mono rfl))
    (keep_mk (m := [.engine]) rfl h (hl.mono rfl))

theorem keep_setWait (h : Keep l a s) (hl : Covers l [.engine]) : Keep l a (setWait b c s) :=
  keep_mk (m := [.engine]) rfl h hl

theorem keep_finish (h : Keep l a s) (hl : Covers l [.engine, .fabric]) : Keep l a (finish b c s) := by
  unfold finish
  extract_lets s1 w
  have h1 : Keep l a s1 := keep_count h
  exact keep_ite (keep_answer h1 hl) (keep_setWait (keep_submitData h1 (hl.mono rfl)) (hl.mono rfl))

theorem keep_tblDataAcked (h : Keep l a s) (hl : Covers l [.engine, .fabric]) : Keep l a (tblDataAcked b c s) := by
  unfold tblDataAcked
  split
  · exact h
  · exact keep_ite (keep_answer h hl) (keep_setWait h (hl.mono rfl))

theorem keep_tblResultAcked (h : Keep l a s) (hl : Covers l [.regs, .engine, .fabric]) :
    Keep l a (tblResultAcked b s) := by
  unfold tblResultAcked
  repeat' first
    | with_reducible assumption | exact hl.mono rfl | with_reducible apply keep_submitWrite
    | with_reducible apply keep_ringFault | with_reducible apply keep_ite | split | dsimp only
    | refine keep_mk (m := [.engine]) rfl ?_ (hl.mono rfl)

theorem keep_applyTo (h : Keep l a s) (hl : Covers l [.replicas]) : Keep l a (applyTo b c d s) := by
  unfold applyTo
  repeat' first
    | with_reducible assumption | exact hl.mono rfl | with_reducible apply keep_changeShadowed
    | with_reducible apply keep_modReplica | with_reducible apply keep_ite

theorem keep_takeVintage (h : Keep l a s) (hl : Covers l [.engine]) : Keep l a (takeVintage b s) := by
  unfold takeVintage
  repeat' first
    | with_reducible assumption | exact hl.mono rfl | with_reducible apply keep_ite | split | dsimp only
    | refine keep_mk (m := [.engine]) rfl ?_ (hl.mono rfl)

theorem keep_placeIn (h : Keep l a s) (hl : Covers l [.regs, .presses, .replicas]) :
    Keep l a (placeIn b c d e s) := by
  unfold placeIn
  repeat' first
    | with_reducible assumption | exact hl.mono rfl | with_reducible apply keep_countEvict
    | with_reducible apply keep_unfilter | with_reducible apply keep_applyTo | with_reducible apply keep_ite

theorem keep_setLock (h : Keep l a s) (hl : Covers l [.engine]) : Keep l a (setLock b c s) := by
  unfold setLock
  repeat' first
    | with_reducible assumption | exact hl.mono rfl | dsimp only
    | refine keep_mk (m := [.engine]) rfl ?_ (hl.mono rfl)

theorem keep_runLock (h : Keep l a s) (hl : Covers l [.engine, .freeCount]) : Keep l a (runLock b s).1 := by
  unfold runLock
  repeat' first
    | with_reducible assumption | exact hl.mono rfl | with_reducible apply keep_setLock
    | with_reducible apply keep_fst_ite | with_reducible apply keep_ite | split
    | with_reducible refine keep_fst (by assumption) ?_ | with_reducible refine keep_snd (by assumption) ?_
    | dsimp only | refine keep_mk (m := [.freeCount]) rfl ?_ (hl.mono rfl)

theorem keep_emWrite {r : State × TblRes} (h :
    Keep l a s) (hl : Covers l [.regs, .presses, .replicas, .engine, .freeCount]) (he : emWrite b c d e s = .ok r) :
    Keep l a r.1 := by
  unfold emWrite at he
  extract_lets at he
  split at he
  · cases he
  · cases he
    have h1 := keep_advanceLfsr h (hl.mono rfl)
    exact keep_foldl (keep_ite (keep_fset (keep_ite h h1) (hl.mono rfl)) (keep_ite h h1))
      fun _ _ hu => keep_placeIn hu (hl.mono rfl)

theorem keep_emDelete {r : State × TblRes} (h :
    Keep l a s) (hl : Covers l [.presses, .replicas]) (he : emDelete b c d e s = .ok r) :
    Keep l a r.1 := by
  unfold emDelete at he
  extract_lets at he
  split at he
  · cases he
  · split at he
    · cases he
    · split at he
      · cases he
      · cases he
        exact keep_foldl (keep_foldl h fun _ _ hu => keep_applyTo hu (hl.mono rfl)) fun _ _ hu =>
          keep_unfilter hu (hl.mono rfl)

theorem keep_runStaged (h : Keep l a s) (hl : Covers l [.regs, .presses, .replicas, .engine, .freeCount]) (he : runStaged b c s = .ok t) :
    Keep l a t := by
  unfold runStaged at he
  split at he
  · cases hx : emWrite false b.all ‹_› b.replicas s with
    | error => rw [hx] at he; cases he
    | ok r => rw [hx] at he; cases he; exact keep_emWrite h (hl.mono rfl) hx
  · cases hx : emDelete b.all ‹_› ‹_› b.replicas s with
    | error => rw [hx] at he; cases he
    | ok r => rw [hx] at he; cases he; exact keep_emDelete h (hl.mono rfl) hx

theorem keep_runAllStaged (h : Keep l a s) (hl : Covers l [.regs, .presses, .replicas, .engine, .freeCount]) (he : runAllStaged b c d s = .ok t) :
    Keep l a t := by
  induction d generalizing c s with
  | nil => cases he; exact h
  | cons x xs ih =>
    rw [runAllStaged] at he
    split at he
    · cases he
    · exact ih (keep_runStaged h (hl.mono rfl) ‹_›) he

theorem keep_runUnlock (h : Keep l a s) (hl : Covers l [.regs, .presses, .replicas, .engine, .freeCount]) :
    Keep l a (runUnlock b s).1 := by
  unfold runUnlock
  refine keep_fst_ite h ?_
  split
  · exact h
  · have h1 := keep_setLock (b := b.slot) (c := (lockOf b.slot s).release false) h (hl.mono rfl)
    refine keep_fst_ite h1 (keep_fst_ite h1 ?_)
    split
    · exact keep_runAllStaged (keep_takeVintage h1 (hl.mono rfl)) (hl.mono rfl) ‹_›
    · exact h1

theorem keep_stage (h : Keep l a s) (hl : Covers l [.engine]) : Keep l a (stage b c d s).1 := by
  unfold stage
  repeat' first
    | with_reducible assumption | exact hl.mono rfl | with_reducible apply keep_setLock
    | with_reducible apply keep_fst_ite | with_reducible apply keep_ite | split

theorem keep_stagedView (h : Keep l a s) (hl : Covers l [.regs, .presses, .replicas, .engine, .freeCount]) :
    Keep l a (stagedView b s) :=
  keep_foldl h fun _ _ hu => by
    split
    · exact keep_runStaged hu (hl.mono rfl) ‹_›
    · exact hu

theorem keep_writeLpm (h : Keep l a s) (hl : Covers l [.replicas, .engine, .freeCount]) :
    Keep l a (writeLpm b c s).1 := by
  unfold writeLpm
  repeat' first
    | with_reducible assumption | exact hl.mono rfl | with_reducible apply keep_takeVintage
    | with_reducible apply keep_applyTo | with_reducible apply keep_fst_ite | with_reducible apply keep_ite
    | with_reducible apply keep_foldl | split | dsimp only | refine keep_mk (m := [.freeCount]) rfl ?_ (hl.mono rfl)
    | (intro _; intros)

theorem keep_writeEm (h : Keep l a s) (hl : Covers l [.regs, .presses, .replicas, .engine, .freeCount]) :
    Keep l a (writeEm b c s).1 := by
  unfold writeEm
  refine keep_fst_ite (keep_stage h (hl.mono rfl)) (keep_fst_ite h ?_)
  split
  · exact keep_emWrite (keep_takeVintage h (hl.mono rfl)) (hl.mono rfl) ‹_›
  · exact h

theorem keep_writeIndexed (h : Keep l a s) (hl : Covers l [.replicas, .engine]) : Keep l a (writeIndexed b s).1 := by
  unfold writeIndexed
  repeat' first
    | with_reducible assumption | exact hl.mono rfl | with_reducible apply keep_takeVintage
    | with_reducible apply keep_applyTo | with_reducible apply keep_fst_ite | with_reducible apply keep_ite
    | with_reducible apply keep_foldl | split | with_reducible refine keep_fst (by assumption) ?_
    | with_reducible refine keep_snd (by assumption) ?_ | dsimp only | (intro _; intros)

theorem keep_runWrite (h : Keep l a s) (hl : Covers l [.regs, .presses, .replicas, .engine, .freeCount]) :
    Keep l a (runWrite b c s).1 := by
  unfold runWrite
  repeat' first
    | with_reducible assumption | exact hl.mono rfl | with_reducible apply keep_writeIndexed
    | with_reducible apply keep_writeEm | with_reducible apply keep_writeLpm | with_reducible apply keep_fst_ite
    | with_reducible apply keep_ite | split

theorem keep_deleteLpm (h : Keep l a s) (hl : Covers l [.replicas, .engine]) : Keep l a (deleteLpm b c s).1 := by
  unfold deleteLpm
  repeat' first
    | with_reducible assumption | exact hl.mono rfl | with_reducible apply keep_takeVintage
    | with_reducible apply keep_applyTo | with_reducible apply keep_fst_ite | with_reducible apply keep_ite
    | with_reducible apply keep_foldl | split | with_reducible refine keep_fst (by assumption) ?_
    | with_reducible refine keep_snd (by assumption) ?_ | dsimp only | (intro _; intros)

theorem keep_deleteEm (h : Keep l a s) (hl : Covers l [.presses, .replicas, .engine]) :
    Keep l a (deleteEm b c s).1 := by
  unfold deleteEm
  refine keep_fst_ite (keep_stage h (hl.mono rfl)) ?_
  split
  · exact h
  · exact keep_fst_ite h (keep_emDelete (keep_takeVintage h (hl.mono rfl)) (hl.mono rfl) ‹_›)

theorem keep_runDelete (h : Keep l a s) (hl : Covers l [.presses, .replicas, .engine]) :
    Keep l a (runDelete b c s).1 := by
  unfold runDelete
  repeat' first
    | with_reducible assumption | exact hl.mono rfl | with_reducible apply keep_deleteEm
    | with_reducible apply keep_deleteLpm | with_reducible apply keep_fst_ite | with_reducible apply keep_ite | split

theorem keep_runMove (h : Keep l a s) (hl : Covers l [.engine]) : Keep l a (runMove b c s).1 := by
  unfold runMove
  repeat' first
    | with_reducible assumption | exact hl.mono rfl | with_reducible apply keep_fst_ite
    | with_reducible apply keep_ite | with_reducible apply keep_foldl | split
    | with_reducible refine keep_fst (by assumption) ?_ | with_reducible refine keep_snd (by assumption) ?_
    | dsimp only | refine keep_mk (m := [.engine]) rfl ?_ (hl.mono rfl)

theorem keep_moveDone (h : Keep l a s) (hl : Covers l [.replicas, .engine, .fabric, .freeCount]) :
    Keep l a (moveDone b s) := by
  unfold moveDone
  repeat' first
    | with_reducible assumption | exact hl.mono rfl | with_reducible apply keep_finish
    | with_reducible apply keep_takeVintage | with_reducible apply keep_applyTo | with_reducible apply keep_foldl
    | dsimp only | refine keep_mk (m := [.engine, .freeCount]) rfl ?_ (hl.mono rfl) | (intro _; intros)

theorem keep_runCopy (h : Keep l a s) (hl : Covers l [.engine]) : Keep l a (runCopy b c s).1 := by
  unfold runCopy
  repeat' first
    | with_reducible assumption | exact hl.mono rfl | with_reducible apply keep_fst_ite
    | with_reducible apply keep_ite | split | with_reducible refine keep_fst (by assumption) ?_
    | with_reducible refine keep_snd (by assumption) ?_ | dsimp only
    | refine keep_mk (m := [.engine]) rfl ?_ (hl.mono rfl)

theorem keep_copyDone (h : Keep l a s) (hl : Covers l [.regs, .replicas, .engine, .fabric]) :
    Keep l a (copyDone b s) := by
  unfold copyDone
  repeat' first
    | with_reducible assumption | exact hl.mono rfl | with_reducible apply keep_finish
    | with_reducible apply keep_fset | with_reducible apply keep_setReplica | with_reducible apply keep_ite
    | with_reducible apply keep_foldl | split | dsimp only | refine keep_mk (m := [.engine]) rfl ?_ (hl.mono rfl)
    | (intro _; intros)

theorem keep_runSweep (h : Keep l a s) (hl : Covers l [.engine]) : Keep l a (runSweep b c s).1 := by
  unfold runSweep
  repeat' first
    | with_reducible assumption | exact hl.mono rfl | with_reducible apply keep_fst_ite
    | with_reducible apply keep_ite | split | dsimp only | refine keep_mk (m := [.engine]) rfl ?_ (hl.mono rfl)

theorem keep_agedEvent (h : Keep l a s) (hl : Covers l [.freeCount]) : Keep l a (agedEvent b c d s).2 := by
  unfold agedEvent
  repeat' first
    | with_reducible assumption | exact hl.mono rfl | split | with_reducible refine keep_fst (by assumption) ?_
    | with_reducible refine keep_snd (by assumption) ?_ | dsimp only
    | refine keep_mk (m := [.freeCount]) rfl ?_ (hl.mono rfl)

theorem keep_ageOut (h : Keep l a s) (hl : Covers l [.regs, .replicas, .engine, .fabric, .cm, .freeCount]) :
    Keep l a (ageOut b s) := by
  unfold ageOut
  repeat' first
    | with_reducible assumption | exact hl.mono rfl | with_reducible apply keep_agedEvent
    | with_reducible apply keep_changeShadowed | with_reducible apply keep_notifyLearn
    | with_reducible apply keep_postLearn | with_reducible apply keep_ite | with_reducible apply keep_foldl | split
    | with_reducible refine keep_fst (by assumption) ?_ | with_reducible refine keep_snd (by assumption) ?_
    | dsimp only | (intro _; intros)

theorem keep_sweepDone (h : Keep l a s) (hl : Covers l [.regs, .replicas, .engine, .fabric, .cm, .freeCount]) :
    Keep l a (sweepDone b s) := by
  unfold sweepDone
  repeat' first
    | with_reducible assumption | exact hl.mono rfl | with_reducible apply keep_finish
    | with_reducible apply keep_modReplica | with_reducible apply keep_ageOut | with_reducible apply keep_ite
    | with_reducible apply keep_foldl | split | dsimp only | refine keep_mk (m := [.engine]) rfl ?_ (hl.mono rfl)
    | (intro _; intros)

theorem keep_runCmd (h : Keep l a s) (hl : Covers l [.regs, .presses, .replicas, .engine, .fabric, .freeCount]) :
    Keep l a (runCmd b s) := by
  unfold runCmd
  repeat' first
    | with_reducible assumption | exact hl.mono rfl | with_reducible apply keep_runMove
    | with_reducible apply keep_finish | with_reducible apply keep_runDelete | with_reducible apply keep_runLock
    | with_reducible apply keep_runUnlock | with_reducible apply keep_runSweep | with_reducible apply keep_runCopy
    | with_reducible apply keep_runWrite | with_reducible apply keep_ite | split
    | with_reducible refine keep_fst (by assumption) ?_ | with_reducible refine keep_snd (by assumption) ?_
    | dsimp only

theorem keep_runUnknown (h : Keep l a s) (hl : Covers l [.regs, .presses, .replicas, .engine, .fabric, .freeCount]) :
    Keep l a (runUnknown b s) := by
  induction b generalizing s with
  | zero => exact h
  | succ n ih =>
    unfold runUnknown
    repeat' first
      | with_reducible apply ih | with_reducible assumption | exact hl.mono rfl | with_reducible apply keep_runCmd
      | with_reducible apply keep_takeCmd | with_reducible apply keep_ite | split

theorem keep_postCmd (h : Keep l a s) (hl : Covers l [.engine, .cm]) : Keep l a (postCmd b s) := by
  unfold postCmd
  repeat' first
    | with_reducible assumption | exact hl.mono rfl | with_reducible apply keep_ite | split
    | with_reducible refine keep_fst (by assumption) ?_ | with_reducible refine keep_snd (by assumption) ?_
    | dsimp only | refine keep_mk (m := [.engine, .cm]) rfl ?_ (hl.mono rfl)

theorem keep_serveCmd (h : Keep l a s) (hl : Covers l [.regs, .presses, .replicas, .engine, .fabric, .cm, .freeCount]) :
    KeepOut l a (serveCmd b c s) := by
  unfold serveCmd
  repeat' first
    | with_reducible assumption | exact hl.mono rfl | with_reducible apply keep_fetchCm | with_reducible apply keep_runCmd
    | with_reducible apply keep_settle | with_reducible apply keep_runUnknown | with_reducible apply keep_takeCmd
    | with_reducible apply keep_postCmd | with_reducible apply keepOut_ite | with_reducible apply keep_ite
    | with_reducible apply keepOut_next | with_reducible exact keepOut_fault | split
    | with_reducible refine keep_fst (by assumption) ?_ | with_reducible refine keep_snd (by assumption) ?_
    | dsimp only

theorem keep_execLock (h : Keep l a s) (hl : Covers l [.regs, .presses, .replicas, .engine, .fabric, .cm, .freeCount]) :
    KeepOut l a (execLock b s) := by
  unfold execLock
  repeat' first | with_reducible assumption | exact hl.mono rfl | with_reducible apply keep_serveCmd

theorem keep_execUnlock (h : Keep l a s) (hl : Covers l [.regs, .presses, .replicas, .engine, .fabric, .cm, .freeCount]) :
    KeepOut l a (execUnlock b s) := by
  unfold execUnlock
  repeat' first | with_reducible assumption | exact hl.mono rfl | with_reducible apply keep_serveCmd

theorem keep_execTblRead (h : Keep l a s) (hl : Covers l [.regs, .presses, .replicas, .engine, .fabric, .cm, .freeCount]) :
    KeepOut l a (execTblRead b s) := by
  unfold execTblRead
  repeat' first | with_reducible assumption | exact hl.mono rfl | with_reducible apply keep_serveCmd

theorem keep_execTblWrite (h : Keep l a s) (hl : Covers l [.regs, .presses, .replicas, .engine, .fabric, .cm, .freeCount]) :
    KeepOut l a (execTblWrite b s) := by
  unfold execTblWrite
  repeat' first | with_reducible assumption | exact hl.mono rfl | with_reducible apply keep_serveCmd

theorem keep_execTblDelete (h : Keep l a s) (hl : Covers l [.regs, .presses, .replicas, .engine, .fabric, .cm, .freeCount]) :
    KeepOut l a (execTblDelete b s) := by
  unfold execTblDelete
  repeat' first | with_reducible assumption | exact hl.mono rfl | with_reducible apply keep_serveCmd

theorem keep_execZoneMove (h : Keep l a s) (hl : Covers l [.regs, .presses, .replicas, .engine, .fabric, .cm, .freeCount]) :
    KeepOut l a (execZoneMove b s) := by
  unfold execZoneMove
  repeat' first | with_reducible assumption | exact hl.mono rfl | with_reducible apply keep_serveCmd

theorem keep_execReplicaCopy (h : Keep l a s) (hl : Covers l [.regs, .presses, .replicas, .engine, .fabric, .cm, .freeCount]) :
    KeepOut l a (execReplicaCopy b s) := by
  unfold execReplicaCopy
  repeat' first | with_reducible assumption | exact hl.mono rfl | with_reducible apply keep_serveCmd

theorem keep_execAgeSweep (h : Keep l a s) (hl : Covers l [.regs, .presses, .replicas, .engine, .fabric, .cm, .freeCount]) :
    KeepOut l a (execAgeSweep b s) := by
  unfold execAgeSweep
  repeat' first | with_reducible assumption | exact hl.mono rfl | with_reducible apply keep_serveCmd

theorem keep_execDump (h : Keep l a s) (hl : Covers l [.regs, .presses, .replicas, .engine, .fabric, .cm, .freeCount]) :
    KeepOut l a (execDump b s) := by
  unfold execDump
  repeat' first | with_reducible assumption | exact hl.mono rfl | with_reducible apply keep_serveCmd

theorem keep_jobEnds (h : Keep l a s) (hf : ∀ j u, Keep l a u → Keep l a (c j u)) : KeepOut l a (jobEnds b c s) := by
  unfold jobEnds
  split
  · exact keepOut_next (keep_settle (hf _ _ h))
  · exact keepOut_next h

theorem keep_execZoneMoveDone (h : Keep l a s) (hl : Covers l [.replicas, .engine, .fabric, .freeCount]) :
    KeepOut l a (execZoneMoveDone s) := by
  unfold execZoneMoveDone
  repeat' first
    | with_reducible assumption | exact hl.mono rfl | with_reducible apply keep_moveDone
    | with_reducible apply keep_jobEnds | with_reducible apply keepOut_next | with_reducible exact keepOut_fault
    | dsimp only | (intro _; intros)

theorem keep_execReplicaCopyDone (h : Keep l a s) (hl : Covers l [.regs, .replicas, .engine, .fabric]) :
    KeepOut l a (execReplicaCopyDone s) := by
  unfold execReplicaCopyDone
  repeat' first
    | with_reducible assumption | exact hl.mono rfl | with_reducible apply keep_copyDone
    | with_reducible apply keep_jobEnds | with_reducible apply keepOut_next | with_reducible exact keepOut_fault
    | dsimp only | (intro _; intros)

theorem keep_execAgeSweepDone (h : Keep l a s) (hl : Covers l [.regs, .replicas, .engine, .fabric, .cm, .freeCount]) :
    KeepOut l a (execAgeSweepDone s) := by
  unfold execAgeSweepDone
  repeat' first
    | with_reducible assumption | exact hl.mono rfl | with_reducible apply keep_sweepDone
    | with_reducible apply keep_jobEnds | with_reducible apply keepOut_next | with_reducible exact keepOut_fault
    | dsimp only | (intro _; intros)

theorem keep_execTableCmdReadComplete (h : Keep l a s) (hl : Covers l [.regs, .chans, .rings, .book, .cellar, .ports, .presses, .engine, .fabric, .funcs, .events, .aux, .power, .pmu]) :
    KeepOut l a (execTableCmdReadComplete b c s) := by
  unfold execTableCmdReadComplete
  repeat' first
    | with_reducible assumption | exact hl.mono rfl | with_reducible apply keep_ringRead
    | with_reducible apply keep_ringReadFailed | with_reducible apply keep_readReply
    | with_reducible apply keepOut_next | with_reducible exact keepOut_fault | dsimp only | (intro _; intros)

theorem keep_lockTimeout (h : Keep l a s) (hl : Covers l [.regs, .engine, .errors]) : Keep l a (lockTimeout b s) := by
  unfold lockTimeout
  repeat' first
    | with_reducible assumption | exact hl.mono rfl | with_reducible apply keep_raiseSource
    | with_reducible apply keep_postError | with_reducible apply keep_setLock | with_reducible apply keep_fset

theorem keep_execLockTimeout (h : Keep l a s) (hl : Covers l [.regs, .engine, .errors]) :
    KeepOut l a (execLockTimeout b s) := by
  unfold execLockTimeout
  repeat' first
    | with_reducible assumption | exact hl.mono rfl | with_reducible apply keep_settle
    | with_reducible apply keep_lockTimeout | with_reducible apply keepOut_ite | with_reducible apply keep_ite
    | with_reducible apply keepOut_next

theorem keep_ageTick (h : Keep l a s) (hl : Covers l [.regs, .engine]) : Keep l a (ageTick s) := by
  unfold ageTick
  repeat' first
    | with_reducible assumption | exact hl.mono rfl | with_reducible apply keep_fadd
    | with_reducible apply keep_raiseSource | with_reducible apply keep_ite | split | dsimp only
    | refine keep_mk (m := [.engine]) rfl ?_ (hl.mono rfl)

theorem keep_execAgeTick (h : Keep l a s) (hl : Covers l [.regs, .engine]) : KeepOut l a (execAgeTick s) := by
  unfold execAgeTick
  repeat' first
    | with_reducible assumption | exact hl.mono rfl | with_reducible apply keep_ageTick
    | with_reducible apply keepOut_ite | with_reducible apply keep_ite | with_reducible apply keepOut_next

theorem keep_execLearnFilterHoldoff (h : Keep l a s) (hl : Covers l [.presses]) :
    KeepOut l a (execLearnFilterHoldoff b c d s) := by
  unfold execLearnFilterHoldoff
  repeat' first
    | with_reducible assumption | exact hl.mono rfl | with_reducible apply keep_unfilter
    | with_reducible apply keepOut_ite | with_reducible apply keep_ite | with_reducible apply keepOut_next

theorem keep_execLearnProdTimer (h : Keep l a s) (hl : Covers l [.engine, .fabric]) :
    KeepOut l a (execLearnProdTimer s) := by
  unfold execLearnProdTimer
  repeat' first
    | with_reducible assumption | exact hl.mono rfl | with_reducible apply keep_flushLearnProd
    | with_reducible apply keep_settle | with_reducible apply keepOut_ite | with_reducible apply keep_ite
    | with_reducible apply keepOut_next

theorem keep_learnCons (h : Keep l a s) (hl : Covers l [.regs, .engine]) : Keep l a (learnCons b s) := by
  unfold learnCons
  repeat' first
    | with_reducible assumption | exact hl.mono rfl | with_reducible apply keep_modLearn
    | with_reducible apply keep_raiseSource | with_reducible apply keep_fset | with_reducible apply keep_ite | split
    | dsimp only | refine keep_mk (m := [.engine]) rfl ?_ (hl.mono rfl)

theorem keep_learnFault (h : Keep l a s) (hl : Covers l [.regs]) : Keep l a (learnFault s) := by
  unfold learnFault
  repeat' first
    | with_reducible assumption | exact hl.mono rfl | with_reducible apply keep_raiseSource
    | with_reducible apply keep_fset

theorem keep_execLearnConsReadComplete (h : Keep l a s) (hl : Covers l [.regs, .chans, .rings, .book, .cellar, .ports, .presses, .engine, .fabric, .funcs, .events, .aux, .power, .pmu]) :
    KeepOut l a (execLearnConsReadComplete b c s) := by
  unfold execLearnConsReadComplete
  repeat' first
    | with_reducible assumption | exact hl.mono rfl | with_reducible apply keep_modLearn
    | with_reducible apply keep_learnFault | with_reducible apply keep_readReply | with_reducible apply keep_learnCons
    | with_reducible apply keepOut_next | with_reducible exact keepOut_fault | dsimp only | (intro _; intros)

theorem keep_learnCfg (h : Keep l a s) (hl : Covers l [.regs, .engine, .fabric]) : Keep l a (learnCfg b s) := by
  unfold learnCfg
  repeat' first
    | with_reducible assumption | exact hl.mono rfl | with_reducible apply keep_discardReqs | with_reducible apply keep_setReg
    | with_reducible apply keep_fset | with_reducible apply keep_ite | split | dsimp only
    | refine keep_mk (m := [.engine]) rfl ?_ (hl.mono rfl)

/-! ### Machine/Pmu.lean -/

theorem keep_winWrite (h : Keep l a s) (hl : Covers l [.pmu]) : Keep l a (winWrite b c s) := by
  unfold winWrite
  repeat' first
    | with_reducible assumption | exact hl.mono rfl | with_reducible apply keep_setCounter
    | with_reducible apply keep_ite

theorem keep_winSet (h : Keep l a s) (hl : Covers l [.pmu]) : Keep l a (winSet b c s) := by
  unfold winSet
  extract_lets n x u
  split
  · exact h
  · have hu : Keep l a u := keep_setCounter h hl
    exact keep_ite hu (keep_addCount hu)

theorem keep_freeze (h : Keep l a s) (hl : Covers l [.regs, .fabric, .pmu]) : Keep l a (freeze b s) := by
  unfold freeze
  repeat' first
    | with_reducible assumption | exact hl.mono rfl | with_reducible apply keep_submitWrite
    | with_reducible apply keep_fadd | with_reducible apply keep_ite | split | dsimp only
    | refine keep_mk (m := [.pmu]) rfl ?_ (hl.mono rfl)

theorem keep_execSnapshotTrigger (h : Keep l a (portTurn s)) (hl : Covers l [.regs, .fabric, .pmu]) :
    KeepOut l a (execSnapshotTrigger s) := by
  unfold execSnapshotTrigger
  repeat' first
    | with_reducible assumption | exact hl.mono rfl | with_reducible apply keep_settle
    | with_reducible apply keep_freeze | with_reducible apply keepOut_ite | with_reducible apply keep_ite
    | with_reducible apply keepOut_next

theorem keep_execSnapshotInterval (h : Keep l a s) (hl : Covers l [.regs, .fabric, .pmu]) :
    KeepOut l a (execSnapshotInterval s) := by
  unfold execSnapshotInterval
  repeat' first
    | with_reducible assumption | exact hl.mono rfl | with_reducible apply keep_settle
    | with_reducible apply keep_freeze | with_reducible apply keepOut_ite | with_reducible apply keep_ite
    | with_reducible apply keepOut_next

theorem keep_snapFail (h : Keep l a s) (hl : Covers l [.regs, .fabric, .pmu]) : Keep l a (snapFail b s) := by
  unfold snapFail
  repeat' first
    | with_reducible assumption | exact hl.mono rfl | with_reducible apply keep_discardReqs
    | with_reducible apply keep_fset | with_reducible apply keep_ite | split
    | with_reducible refine keep_fst (by assumption) ?_ | with_reducible refine keep_snd (by assumption) ?_
    | dsimp only | refine keep_mk (m := [.pmu]) rfl ?_ (hl.mono rfl)

theorem keep_snapAcked (h : Keep l a s) (hl : Covers l [.fabric, .pmu]) : Keep l a (snapAcked b s) := by
  unfold snapAcked
  repeat' first
    | with_reducible assumption | exact hl.mono rfl | with_reducible apply keep_submitWrite
    | with_reducible apply keep_submitData | with_reducible apply keep_ite | split
    | with_reducible refine keep_fst (by assumption) ?_ | with_reducible refine keep_snd (by assumption) ?_
    | dsimp only | refine keep_mk (m := [.pmu]) rfl ?_ (hl.mono rfl)

theorem keep_sampleFail (h : Keep l a s) (hl : Covers l [.regs, .pmu]) : Keep l a (sampleFail s) := by
  unfold sampleFail
  repeat' first
    | with_reducible assumption | exact hl.mono rfl | with_reducible apply keep_raiseSource
    | with_reducible apply keep_fset | dsimp only | refine keep_mk (m := [.pmu]) rfl ?_ (hl.mono rfl)

theorem keep_execSampleProdTimer (h : Keep l a s) (hl : Covers l [.fabric, .pmu]) :
    KeepOut l a (execSampleProdTimer s) := by
  unfold execSampleProdTimer
  repeat' first
    | with_reducible assumption | exact hl.mono rfl | with_reducible apply keep_flushSampleProd
    | with_reducible apply keep_settle | with_reducible apply keepOut_ite | with_reducible apply keep_ite
    | with_reducible apply keepOut_next

theorem keep_sampleCons (h : Keep l a s) (hl : Covers l [.regs, .pmu]) : Keep l a (sampleCons b s) := by
  unfold sampleCons
  repeat' first
    | with_reducible assumption | exact hl.mono rfl | with_reducible apply keep_modSampleRing
    | with_reducible apply keep_sampleFail | with_reducible apply keep_ite

theorem keep_execSampleConsReadComplete (h : Keep l a s) (hl : Covers l [.regs, .chans, .rings, .book, .cellar, .ports, .presses, .fabric, .funcs, .events, .aux, .power, .pmu]) :
    KeepOut l a (execSampleConsReadComplete b c s) := by
  unfold execSampleConsReadComplete
  repeat' first
    | with_reducible assumption | exact hl.mono rfl | with_reducible apply keep_modSampleRing
    | with_reducible apply keep_sampleFail | with_reducible apply keep_sampleCons
    | with_reducible apply keep_readReply | with_reducible apply keepOut_next | with_reducible exact keepOut_fault
    | dsimp only | (intro _; intros)

theorem keep_sampleCfg (h : Keep l a s) (hl : Covers l [.regs, .fabric, .pmu]) : Keep l a (sampleCfg b s) := by
  unfold sampleCfg
  repeat' first
    | with_reducible assumption | exact hl.mono rfl | with_reducible apply keep_discardReqs | with_reducible apply keep_setReg
    | with_reducible apply keep_fset | with_reducible apply keep_ite | split | dsimp only
    | refine keep_mk (m := [.pmu]) rfl ?_ (hl.mono rfl)

end Sys2Proof.Machine
end

