-- ==== Sys2Proof/Laws/KeepCommands.lean ====
section
/-!
SUPPORT. What each operation keeps and changes (answers of the host chip, the register port, the tick): the invariant
of the machine, and the parts outside the list that its lemma names.
-/

set_option Elab.async false

namespace Sys2Proof.Machine

variable {l : List Part} {a s t : State}

/-! ### Machine/Answers.lean -/

theorem keep_txDataFail (h : Keep l a s) (hl : Covers l [.regs, .chans, .rings, .book, .cellar, .ports, .presses, .fabric, .aux, .power, .errors, .pmu]) :
    Keep l a (txDataFail b c d e s) := by
  unfold txDataFail
  repeat' first
    | with_reducible assumption | exact hl.mono rfl | with_reducible apply keep_modLog
    | with_reducible apply keep_forgetCopies | with_reducible apply keep_syncChan | with_reducible apply keep_fence
    | with_reducible apply keep_modChain | with_reducible apply keep_discardReqs | with_reducible apply keep_progress
    | with_reducible apply keep_settleChain | with_reducible apply keep_ite | split
    | with_reducible refine keep_fst (by assumption) ?_ | with_reducible refine keep_snd (by assumption) ?_
    | dsimp only | refine keep_mk (m := [.cellar, .ports]) rfl ?_ (hl.mono rfl)

theorem keep_imageFailed (h : Keep l a s) (hl : Covers l [.regs, .rows, .ports, .fabric]) : Keep l a (imageFailed b s) := by
  unfold imageFailed
  exact keep_imageDone (keep_discardReqs h (hl.mono rfl)) (hl.mono rfl)

theorem keep_readFailed (h : Keep l a s) (hl : Covers l [.regs, .chans, .rings, .book, .cellar, .rows, .ports, .presses, .engine, .fabric, .aux, .power, .errors, .cm, .pmu]) :
    Keep l a (readFailed b s) := by
  unfold readFailed
  repeat' first
    | with_reducible assumption | exact hl.mono rfl | with_reducible apply keep_imageFailed | with_reducible apply keep_modLog
    | with_reducible apply keep_modLearn | with_reducible apply keep_imageDone
    | with_reducible apply keep_ringReadFailed | with_reducible apply keep_modSampleRing
    | with_reducible apply keep_sampleFail | with_reducible apply keep_fetchFail | with_reducible apply keep_modRing
    | with_reducible apply keep_fence | with_reducible apply keep_learnFault | with_reducible apply keep_invalFail
    | with_reducible apply keep_discardReqs | with_reducible apply keep_faultStart
    | with_reducible apply keep_fenceRing | with_reducible apply keep_txDataFail | with_reducible apply keep_passFails
    | split

theorem keep_execContextReadComplete (h : Keep l a s) (hl : Covers l [.regs, .chans, .rings, .book, .cellar, .rows, .ports, .presses, .engine, .fabric, .funcs, .events, .aux, .power, .errors, .cm, .pmu]) :
    KeepOut l a (execContextReadComplete b c s) := by
  unfold execContextReadComplete
  repeat' first
    | with_reducible assumption | exact hl.mono rfl | with_reducible apply keep_cringCtxDone
    | with_reducible apply keep_readFailed | with_reducible apply keep_readReply
    | with_reducible apply keep_chanCtxDone | with_reducible apply keepOut_next | with_reducible exact keepOut_fault
    | split | with_reducible refine keep_fst (by assumption) ?_ | with_reducible refine keep_snd (by assumption) ?_
    | dsimp only | (intro _; intros)

theorem keep_execCtxInvalReadComplete (h : Keep l a s) (hl : Covers l [.regs, .chans, .rings, .book, .cellar, .rows, .ports, .presses, .engine, .fabric, .funcs, .events, .aux, .power, .errors, .cm, .pmu]) :
    KeepOut l a (execCtxInvalReadComplete b c s) := by
  unfold execCtxInvalReadComplete
  repeat' first
    | with_reducible assumption | exact hl.mono rfl | with_reducible apply keep_readFailed
    | with_reducible apply keep_liveCringDone | with_reducible apply keep_readReply
    | with_reducible apply keep_liveChanDone | with_reducible apply keepOut_next | with_reducible exact keepOut_fault
    | split | with_reducible refine keep_fst (by assumption) ?_ | with_reducible refine keep_snd (by assumption) ?_
    | dsimp only | (intro _; intros)

theorem keep_execIndexBlockReadComplete (h : Keep l a s) (hl : Covers l [.regs, .chans, .rings, .book, .cellar, .rows, .ports, .presses, .engine, .fabric, .funcs, .events, .aux, .power, .errors, .cm, .pmu]) :
    KeepOut l a (execIndexBlockReadComplete b c s) := by
  unfold execIndexBlockReadComplete
  repeat' first
    | with_reducible assumption | exact hl.mono rfl | with_reducible apply keep_readFailed
    | with_reducible apply keep_readReply | with_reducible apply keep_txProdDone
    | with_reducible apply keep_startIndexDone | with_reducible apply keep_rxProdDone
    | with_reducible apply keepOut_next | with_reducible exact keepOut_fault | split
    | with_reducible refine keep_fst (by assumption) ?_ | with_reducible refine keep_snd (by assumption) ?_
    | dsimp only | (intro _; intros)

theorem keep_execDescriptorReadComplete (h : Keep l a s) (hl : Covers l [.regs, .chans, .rings, .book, .cellar, .rows, .ports, .presses, .engine, .fabric, .funcs, .events, .aux, .power, .errors, .cm, .pmu]) :
    KeepOut l a (execDescriptorReadComplete b c s) := by
  unfold execDescriptorReadComplete
  repeat' first
    | with_reducible assumption | exact hl.mono rfl | with_reducible apply keep_txDescDone
    | with_reducible apply keep_readFailed | with_reducible apply keep_readReply
    | with_reducible apply keep_rxDescDone | with_reducible apply keep_chainDescDone
    | with_reducible apply keepOut_next | with_reducible exact keepOut_fault | split
    | with_reducible refine keep_fst (by assumption) ?_ | with_reducible refine keep_snd (by assumption) ?_
    | dsimp only | (intro _; intros)

theorem keep_execTxDataReadComplete (h : Keep l a s) (hl : Covers l [.regs, .chans, .rings, .book, .cellar, .rows, .ports, .presses, .engine, .fabric, .funcs, .events, .cvTest, .aux, .power, .errors, .cm, .pmu]) :
    KeepOut l a (execTxDataReadComplete b c d s) := by
  unfold execTxDataReadComplete
  repeat' first
    | with_reducible assumption | exact hl.mono rfl | with_reducible apply keep_txDataDone
    | with_reducible apply keep_readFailed | with_reducible apply keep_readReply | with_reducible apply keepOut_next
    | with_reducible exact keepOut_fault | split | with_reducible refine keep_fst (by assumption) ?_
    | with_reducible refine keep_snd (by assumption) ?_ | dsimp only | (intro _; intros)

theorem keep_ringProgress (h : Keep l a s) (hl : Covers l [.regs, .chans, .rings, .book, .cellar, .ports, .presses, .fabric, .aux, .power, .pmu]) :
    Keep l a (ringProgress b s) := by
  unfold ringProgress
  repeat' first
    | with_reducible assumption | exact hl.mono rfl | with_reducible apply keep_progress
    | with_reducible apply keep_ite | with_reducible apply keep_foldl | split | dsimp only | (intro _; intros)

theorem keep_consDone (h : Keep l a s) (hl : Covers l [.regs, .chans, .rings, .book, .cellar, .ports, .presses, .fabric, .aux, .power, .errors, .pmu]) :
    Keep l a (consDone b c s) := by
  unfold consDone
  repeat' first
    | with_reducible assumption | exact hl.mono rfl | with_reducible apply keep_rereadSeen
    | with_reducible apply keep_ringProgress | with_reducible apply keep_setRing | with_reducible apply keep_modRing
    | with_reducible apply keep_stallCheck | with_reducible apply keep_drainPool | with_reducible apply keep_fenceRing
    | with_reducible apply keep_ite

theorem keep_execConsIndexReadComplete (h : Keep l a s) (hl : Covers l [.regs, .chans, .rings, .book, .cellar, .rows, .ports, .presses, .engine, .fabric, .funcs, .events, .aux, .power, .errors, .cm, .pmu]) :
    KeepOut l a (execConsIndexReadComplete b c s) := by
  unfold execConsIndexReadComplete
  repeat' first
    | with_reducible assumption | exact hl.mono rfl | with_reducible apply keep_readFailed
    | with_reducible apply keep_readReply | with_reducible apply keep_consDone | with_reducible apply keepOut_next
    | with_reducible exact keepOut_fault | split | with_reducible refine keep_fst (by assumption) ?_
    | with_reducible refine keep_snd (by assumption) ?_ | dsimp only | (intro _; intros)

theorem keep_logConsDone (h : Keep l a s) (hl : Covers l [.regs, .chans, .rings, .book, .cellar, .ports, .presses, .fabric, .aux, .power, .errors, .pmu]) :
    Keep l a (logConsDone b c s) := by
  unfold logConsDone
  repeat' first
    | with_reducible assumption | exact hl.mono rfl | with_reducible apply keep_modLog
    | with_reducible apply keep_fence | with_reducible apply keep_progress | with_reducible apply keep_ite

theorem keep_execCvlogConsReadComplete (h : Keep l a s) (hl : Covers l [.regs, .chans, .rings, .book, .cellar, .rows, .ports, .presses, .engine, .fabric, .funcs, .events, .aux, .power, .errors, .cm, .pmu]) :
    KeepOut l a (execCvlogConsReadComplete b c s) := by
  unfold execCvlogConsReadComplete
  repeat' first
    | with_reducible assumption | exact hl.mono rfl | with_reducible apply keep_logConsDone
    | with_reducible apply keep_readFailed | with_reducible apply keep_readReply | with_reducible apply keepOut_next
    | with_reducible exact keepOut_fault | split | with_reducible refine keep_fst (by assumption) ?_
    | with_reducible refine keep_snd (by assumption) ?_ | dsimp only | (intro _; intros)

theorem keep_dropImage (h : Keep l a s) (hl : Covers l [.regs, .chans, .rings, .book, .cellar, .ports, .presses, .fabric, .funcs, .events, .aux, .power, .pmu]) :
    Keep l a (dropImage b s) := by
  unfold dropImage
  repeat' first
    | with_reducible assumption | exact hl.mono rfl | with_reducible apply keep_afterReq
    | with_reducible apply keep_dropReq | with_reducible apply keep_ite | with_reducible apply keep_foldl | dsimp only
    | (intro _; intros)

theorem keep_imageReply (h :
    Keep l a s) (hl : Covers l [.regs, .chans, .rings, .book, .cellar, .ports, .presses, .fabric, .funcs, .events, .aux, .power, .pmu])
    (hok : ∀ bs u, Keep l a u → Keep l a (i bs u)) (herr : ∀ u, Keep l a u → Keep l a (f u)) :
    KeepOut l a (imageReply b c d e i f s) := by
  unfold imageReply
  dsimp only
  split
  · exact keepOut_ite (keepOut_next h) (keep_readReply h (hl.mono rfl) (fun _ _ _ hu => hu) fun _ u hu => herr u hu)
  · exact keepOut_ite (keepOut_next h) (keepOut_ite (keepOut_next (keep_settle (keep_dropImage h (hl.mono rfl))))
      (keepOut_ite (keepOut_next h) (keepOut_ite
        (keepOut_next (keep_settle (hok _ _ (keep_dropImage h (hl.mono rfl))))) keepOut_fault)))

theorem keep_execGateLoadComplete (h : Keep l a s) (hl : Covers l [.regs, .chans, .rings, .book, .cellar, .rows, .ports, .presses, .fabric, .funcs, .events, .aux, .power, .pmu]) :
    KeepOut l a (execGateLoadComplete b c s) :=
  keep_imageReply h (hl.mono rfl) (fun _ _ hu => keep_imageDone hu (hl.mono rfl))
    fun _ hu => keep_imageFailed hu (hl.mono rfl)

theorem keep_passEnds (h :
    Keep l a s) (hl : Covers l [.regs, .chans, .rings, .book, .cellar, .ports, .presses, .engine, .fabric, .funcs, .events, .aux, .power, .errors, .cm, .pmu])
    (hc : ∀ i u, Keep l a u → Keep l a (d i u)) : KeepOut l a (passEnds b c d s) := by
  unfold passEnds
  exact keepOut_ite (keepOut_next (keep_settle (hc _ _ h)))
    (keep_imageReply h (hl.mono rfl) (fun _ _ hu => hc _ _ hu) fun _ hu => keep_passFails hu (hl.mono rfl))

theorem keep_execFwVerifyDone (h : Keep l a s) (hl : Covers l [.regs, .chans, .rings, .book, .cellar, .ports, .presses, .engine, .fabric, .funcs, .events, .aux, .power, .errors, .cm, .pmu]) :
    KeepOut l a (execFwVerifyDone b s) :=
  keep_passEnds h hl fun _ _ hu => keep_verifyDone hu (hl.mono rfl)

theorem keep_execFwLoadDone (h : Keep l a s) (hl : Covers l [.regs, .chans, .rings, .book, .cellar, .ports, .presses, .engine, .fabric, .funcs, .events, .aux, .power, .errors, .cm, .pmu]) :
    KeepOut l a (execFwLoadDone b s) :=
  keep_passEnds h hl fun _ _ hu => keep_loadDone hu (hl.mono rfl)

theorem keep_rxDataAcked (h : Keep l a s) (hl : Covers l [.regs, .chans, .rings, .book, .cellar, .ports, .presses, .fabric, .aux, .power, .errors, .pmu]) :
    Keep l a (rxDataAcked b c d s) := by
  unfold rxDataAcked
  repeat' first
    | with_reducible assumption | exact hl.mono rfl | with_reducible apply keep_fence
    | with_reducible apply keep_modRx | with_reducible apply keep_progress | with_reducible apply keep_deliver
    | with_reducible apply keep_ite

theorem keep_endItem (h : Keep l a s) (hl : Covers l [.fabric, .pmu]) : Keep l a (endItem b c d s) := by
  unfold endItem
  repeat' first | with_reducible assumption | exact hl.mono rfl | with_reducible apply keep_endTags

theorem keep_failMark (h : Keep l a s) (hl : Covers l [.chans]) : Keep l a (failMark b c d s) := by
  unfold failMark
  exact keep_ite (keep_modRx h hl) (keep_modTx h hl)

theorem keep_entryAcked (h : Keep l a s) (hl : Covers l [.regs, .chans, .rings, .cellar, .fabric, .errors, .pmu]) :
    Keep l a (entryAcked b c d e i j s) := by
  unfold entryAcked
  repeat' first
    | with_reducible assumption | exact hl.mono rfl | with_reducible apply keep_failMark | with_reducible apply keep_endItem
    | with_reducible apply keep_modRing | with_reducible apply keep_fence
    | with_reducible apply keep_flushRing | with_reducible apply keep_ackDone | with_reducible apply keep_ite

theorem keep_writtenBack (h : Keep l a s) (hl : Covers l [.regs, .chans, .fabric]) :
    Keep l a (writtenBack b c s) := by
  unfold writtenBack
  repeat' first
    | with_reducible assumption | exact hl.mono rfl | with_reducible apply keep_setChan
    | with_reducible apply keep_fset | with_reducible apply keep_stopCheck | with_reducible apply keep_ite

theorem keep_indexAcked (h : Keep l a s) (hl : Covers l [.regs, .chans, .rings, .cellar, .fabric, .errors, .pmu]) :
    Keep l a (indexAcked b c d e s) := by
  unfold indexAcked
  repeat' first
    | with_reducible assumption | exact hl.mono rfl | with_reducible apply keep_flushIndex
    | with_reducible apply keep_modChan | with_reducible apply keep_fence | with_reducible apply keep_flushBook
    | with_reducible apply keep_ite

theorem keep_logAcked (h : Keep l a s) (hl : Covers l [.regs, .chans, .rings, .cellar, .fabric, .errors, .pmu]) :
    Keep l a (logAcked b c d s) := by
  unfold logAcked
  repeat' first
    | with_reducible assumption | exact hl.mono rfl | with_reducible apply keep_modLog
    | with_reducible apply keep_fence | with_reducible apply keep_flushLogProd | with_reducible apply keep_ite

theorem keep_learnAcked (h : Keep l a s) (hl : Covers l [.regs, .engine, .fabric]) : Keep l a (learnAcked b c s) := by
  unfold learnAcked
  repeat' first
    | with_reducible assumption | exact hl.mono rfl | with_reducible apply keep_modLearn
    | with_reducible apply keep_flushLearnProd | with_reducible apply keep_learnFault | with_reducible apply keep_ite

theorem keep_sampleAcked (h : Keep l a s) (hl : Covers l [.regs, .fabric, .pmu]) : Keep l a (sampleAcked b c s) := by
  unfold sampleAcked
  repeat' first
    | with_reducible assumption | exact hl.mono rfl | with_reducible apply keep_flushSampleProd
    | with_reducible apply keep_modSampleRing | with_reducible apply keep_sampleFail | with_reducible apply keep_ite

theorem keep_writeEnded (h : Keep l a s) (hl : Covers l [.regs, .chans, .rings, .book, .cellar, .ports, .presses, .engine, .fabric, .aux, .power, .errors, .pmu]) :
    Keep l a (writeEnded b c s) := by
  unfold writeEnded
  generalize b.purpose = p
  cases p with
  | startWrite => exact keep_ite (keep_startWriteDone h (hl.mono rfl)) (keep_faultStart h (hl.mono rfl))
  | ringResetWrite => exact keep_ringResetWritten h (hl.mono rfl)
  | rxData => exact keep_rxDataAcked h (hl.mono rfl)
  | entry => exact keep_entryAcked h (hl.mono rfl)
  | indexWrite => exact keep_indexAcked h (hl.mono rfl)
  | bookCopy => exact keep_indexAcked h (hl.mono rfl)
  | writeBack => exact keep_writtenBack h (hl.mono rfl)
  | ringProd =>
    dsimp -zeta only
    extract_lets u
    have h1 : Keep l a u := keep_modRing h (hl.mono rfl)
    clear_value u
    exact keep_ringSettled (keep_ite (keep_flushRing h1 (hl.mono rfl)) (keep_fenceRing h1 (hl.mono rfl))) (hl.mono rfl)
  | tblData => exact keep_tblDataAcked h (hl.mono rfl)
  | tblResult => exact keep_tblResultAcked h (hl.mono rfl)
  | tblDone => exact keep_ite h (keep_ringFault h (hl.mono rfl))
  | learnEvent => exact keep_learnAcked h (hl.mono rfl)
  | learnProd => exact keep_learnAcked h (hl.mono rfl)
  | logRecord => exact keep_logAcked h (hl.mono rfl)
  | logProd => exact keep_logAcked h (hl.mono rfl)
  | snapHeader => exact keep_ite (keep_snapAcked h (hl.mono rfl)) (keep_snapFail h (hl.mono rfl))
  | snapEntries => exact keep_ite (keep_snapAcked h (hl.mono rfl)) (keep_snapFail h (hl.mono rfl))
  | snapFinal => exact keep_ite (keep_snapAcked h (hl.mono rfl)) (keep_snapFail h (hl.mono rfl))
  | sample => exact keep_sampleAcked h (hl.mono rfl)
  | sampleProd => exact keep_sampleAcked h (hl.mono rfl)
  | _ => exact h

theorem keep_execFabricWriteAck (h : Keep l a s) (hl : Covers l [.regs, .chans, .rings, .book, .cellar, .ports, .presses, .engine, .fabric, .funcs, .events, .aux, .power, .errors, .pmu]) :
    KeepOut l a (execFabricWriteAck b c s) := by
  unfold execFabricWriteAck
  repeat' first
    | with_reducible assumption | exact hl.mono rfl | with_reducible apply keep_settle
    | with_reducible apply keep_lateAnswer | with_reducible apply keep_afterReq
    | with_reducible apply keep_errResponse | with_reducible apply keep_writeEnded | with_reducible apply keep_dropReq
    | with_reducible apply keepOut_ite | with_reducible apply keep_ite | with_reducible apply keepOut_next
    | with_reducible exact keepOut_fault | split

theorem keep_timeOut (h : Keep l a s) (hl : Covers l [.regs, .chans, .rings, .book, .cellar, .rows, .ports, .presses, .engine, .fabric, .funcs, .events, .aux, .power, .errors, .cm, .pmu]) :
    Keep l a (timeOut b s) := by
  unfold timeOut
  repeat' first
    | with_reducible assumption | exact hl.mono rfl | with_reducible apply keep_ringSettled | with_reducible apply keep_readFailed
    | with_reducible apply keep_afterReq | with_reducible apply keep_writeEnded | with_reducible apply keep_timeOutReq
    | with_reducible apply keep_ite | split | dsimp only

theorem keep_failPort (h : Keep l a s) (hl : Covers l [.regs, .chans, .rings, .book, .cellar, .rows, .ports, .presses, .engine, .fabric, .funcs, .events, .aux, .power, .errors, .cm, .pmu]) :
    Keep l a (failPort b s) := by
  unfold failPort
  repeat' first
    | with_reducible assumption | exact hl.mono rfl | with_reducible apply keep_timeOut
    | with_reducible apply keep_portFault | with_reducible apply keep_ite | with_reducible apply keep_foldl | split
    | dsimp only | (intro _; intros)

theorem keep_requestTimeout (h : Keep l a s) (hl : Covers l [.regs, .chans, .rings, .book, .cellar, .rows, .ports, .presses, .engine, .fabric, .funcs, .events, .aux, .power, .errors, .cm, .pmu]) :
    Keep l a (requestTimeout b c s) := by
  unfold requestTimeout
  repeat' first
    | with_reducible assumption | exact hl.mono rfl | with_reducible apply keep_timeOut
    | with_reducible apply keep_failPort | with_reducible apply keep_ite | split

theorem keep_execReadTimeout (h : Keep l a s) (hl : Covers l [.regs, .chans, .rings, .book, .cellar, .rows, .ports, .presses, .engine, .fabric, .funcs, .events, .aux, .power, .errors, .cm, .pmu]) :
    KeepOut l a (execReadTimeout b s) := by
  unfold execReadTimeout
  repeat' first
    | with_reducible assumption | exact hl.mono rfl | with_reducible apply keep_settle
    | with_reducible apply keep_requestTimeout | with_reducible apply keepOut_ite | with_reducible apply keep_ite
    | with_reducible apply keepOut_next

theorem keep_execWriteTimeout (h : Keep l a s) (hl : Covers l [.regs, .chans, .rings, .book, .cellar, .rows, .ports, .presses, .engine, .fabric, .funcs, .events, .aux, .power, .errors, .cm, .pmu]) :
    KeepOut l a (execWriteTimeout b s) := by
  unfold execWriteTimeout
  repeat' first
    | with_reducible assumption | exact hl.mono rfl | with_reducible apply keep_settle
    | with_reducible apply keep_requestTimeout | with_reducible apply keepOut_ite | with_reducible apply keep_ite
    | with_reducible apply keepOut_next

theorem keep_execLateCompletion (h : Keep l a s) (hl : Covers l [.regs, .chans, .rings, .book, .cellar, .ports, .presses, .fabric, .funcs, .events, .aux, .power, .pmu]) :
    KeepOut l a (execLateCompletion b s) := by
  unfold execLateCompletion
  repeat' first
    | with_reducible assumption | exact hl.mono rfl | with_reducible apply keep_lateAnswer
    | with_reducible apply keepOut_ite | with_reducible apply keep_ite | with_reducible apply keepOut_next

theorem keep_holdExpiry (h : Keep l a s) (hl : Covers l [.regs, .chans, .rings, .book, .cellar, .ports, .presses, .fabric, .funcs, .events, .aux, .power, .pmu]) :
    Keep l a (holdExpiry b c s) := by
  unfold holdExpiry
  repeat' first
    | with_reducible assumption | exact hl.mono rfl | with_reducible apply keep_releaseQuarantine
    | with_reducible apply keep_drainCheck | with_reducible apply keep_ite | split

theorem keep_execQuarantineExpiry (h : Keep l a s) (hl : Covers l [.regs, .chans, .rings, .book, .cellar, .ports, .presses, .fabric, .funcs, .events, .aux, .power, .pmu]) :
    KeepOut l a (execQuarantineExpiry b s) := by
  unfold execQuarantineExpiry
  repeat' first
    | with_reducible assumption | exact hl.mono rfl | with_reducible apply keep_settle
    | with_reducible apply keep_holdExpiry | with_reducible apply keepOut_ite | with_reducible apply keep_ite
    | with_reducible apply keepOut_next

theorem keep_execWriteHoldExpiry (h : Keep l a s) (hl : Covers l [.regs, .chans, .rings, .book, .cellar, .ports, .presses, .fabric, .funcs, .events, .aux, .power, .pmu]) :
    KeepOut l a (execWriteHoldExpiry b s) := by
  unfold execWriteHoldExpiry
  repeat' first
    | with_reducible assumption | exact hl.mono rfl | with_reducible apply keep_settle
    | with_reducible apply keep_holdExpiry | with_reducible apply keepOut_ite | with_reducible apply keep_ite
    | with_reducible apply keepOut_next

theorem keep_ierrHigh (h : Keep l a s) (hl : Covers l [.fabric]) : Keep l a (ierrHigh b s) := by
  unfold ierrHigh
  repeat' first
    | with_reducible assumption | exact hl.mono rfl | dsimp only
    | refine keep_mk (m := [.fabric]) rfl ?_ (hl.mono rfl)

theorem keep_ierrRise (h : Keep l a s) (hl : Covers l [.regs, .chans, .rings, .book, .cellar, .rows, .ports, .presses, .engine, .fabric, .funcs, .events, .aux, .power, .errors, .cm, .pmu]) :
    Keep l a (ierrRise b s) := by
  unfold ierrRise
  repeat' first
    | with_reducible assumption | exact hl.mono rfl | with_reducible apply keep_settle
    | with_reducible apply keep_ierrHigh | with_reducible apply keep_failPort | with_reducible apply keep_ite

theorem keep_execFabricPortIerr (h : Keep l a s) (hl : Covers l [.regs, .chans, .rings, .book, .cellar, .rows, .ports, .presses, .engine, .fabric, .funcs, .events, .aux, .power, .errors, .cm, .pmu]) :
    KeepOut l a (execFabricPortIerr b c s) := by
  unfold execFabricPortIerr
  repeat' first
    | with_reducible assumption | exact hl.mono rfl | with_reducible apply keep_ierrRise
    | with_reducible apply keepOut_ite | with_reducible apply keep_ite | with_reducible apply keepOut_next
    | with_reducible exact keepOut_fault | split | dsimp only | refine keep_mk (m := [.fabric]) rfl ?_ (hl.mono rfl)

theorem keep_execStallRereadTimer (h : Keep l a s) (hl : Covers l [.rings, .fabric]) :
    KeepOut l a (execStallRereadTimer b s) := by
  unfold execStallRereadTimer
  repeat' first
    | with_reducible assumption | exact hl.mono rfl | with_reducible apply keep_readCons
    | with_reducible apply keep_settle | with_reducible apply keepOut_ite | with_reducible apply keep_ite
    | with_reducible apply keepOut_next

theorem keep_stallAlert (h : Keep l a s) (hl : Covers l [.regs, .rings, .errors]) : Keep l a (stallAlert b s) := by
  unfold stallAlert
  repeat' first
    | with_reducible assumption | exact hl.mono rfl | with_reducible apply keep_postError
    | with_reducible apply keep_modRing | with_reducible apply keep_foldl | dsimp only | (intro _; intros)

theorem keep_execStallAlertTimer (h : Keep l a s) (hl : Covers l [.regs, .rings, .errors]) :
    KeepOut l a (execStallAlertTimer b s) := by
  unfold execStallAlertTimer
  repeat' first
    | with_reducible assumption | exact hl.mono rfl | with_reducible apply keep_settle
    | with_reducible apply keep_stallAlert | with_reducible apply keepOut_ite | with_reducible apply keep_ite
    | with_reducible apply keepOut_next

theorem keep_execModerationTimer (h : Keep l a s) (hl : Covers l [.rings]) :
    KeepOut l a (execModerationTimer b s) := by
  unfold execModerationTimer
  repeat' first
    | with_reducible assumption | exact hl.mono rfl | with_reducible apply keep_ringEvent
    | with_reducible apply keep_settle | with_reducible apply keepOut_ite | with_reducible apply keep_ite
    | with_reducible apply keepOut_next

/-! ### Machine/Registers.lean -/

theorem keep_clearRc (h : Keep l a s) (hl : Covers l [.regs, .funcs]) : Keep l a (clearRc b c d s) := by
  unfold clearRc
  repeat' first
    | with_reducible assumption | exact hl.mono rfl | with_reducible apply keep_setReg
    | with_reducible apply keep_modFunc | with_reducible apply keep_ite

theorem keep_nextWakeWord (h : Keep l a s) (hl : Covers l [.regs]) : Keep l a (nextWakeWord s) := by
  unfold nextWakeWord
  repeat' first | with_reducible assumption | exact hl.mono rfl | with_reducible apply keep_fset

theorem keep_readSpec (h : Keep l a s) (hl : Covers l [.regs, .pairCap, .rdata, .funcs, .time]) :
    Keep l a (readSpec b c d s) := by
  unfold readSpec
  repeat' first
    | with_reducible assumption | exact hl.mono rfl | with_reducible apply keep_timeCapture
    | with_reducible apply keep_nextWakeWord | with_reducible apply keep_clearRc
    | with_reducible apply keep_captureRead | with_reducible apply keep_captureSecRead | with_reducible apply keep_ite
    | split | with_reducible refine keep_fst (by assumption) ?_ | with_reducible refine keep_snd (by assumption) ?_
    | dsimp only | refine keep_mk (m := [.pairCap, .rdata]) rfl ?_ (hl.mono rfl)

theorem keep_readReg (h : Keep l a s) (hl : Covers l [.regs, .pairCap, .rdata, .funcs, .time]) :
    Keep l a (readReg b c d s) := by
  unfold readReg
  repeat' first
    | with_reducible assumption | exact hl.mono rfl | with_reducible apply keep_readSpec | split
    | with_reducible refine keep_fst (by assumption) ?_ | with_reducible refine keep_snd (by assumption) ?_
    | dsimp only | refine keep_mk (m := [.rdata]) rfl ?_ (hl.mono rfl)

theorem keep_plainWrite (h : Keep l a s) (hl : Covers l [.regs]) : Keep l a (plainWrite b c d e s) := by
  unfold plainWrite
  repeat' first | with_reducible assumption | exact hl.mono rfl | with_reducible apply keep_setReg

theorem keep_writeRowEn (h : Keep l a s) (hl : Covers l [.regs, .rows, .ports, .presses, .engine]) :
    Keep l a (writeRowEn b s) := by
  unfold writeRowEn
  repeat' first
    | with_reducible assumption | exact hl.mono rfl | with_reducible apply keep_requestEnable
    | with_reducible apply keep_requestDisable | with_reducible apply keep_ite | with_reducible apply keep_foldl
    | split | dsimp only | (intro _; intros)

theorem keep_writeReset (h : Keep l a s) (hl : Covers l [.regs, .chans, .rings, .cellar, .presses, .fabric, .aux, .power, .racking, .pmu]) :
    Keep l a (writeReset b s) := by
  unfold writeReset
  repeat' first
    | with_reducible assumption | exact hl.mono rfl | with_reducible apply keep_softReset
    | with_reducible apply keep_ite

theorem keep_writeDorm (h : Keep l a s) (hl : Covers l [.regs, .rows, .ports, .presses, .aux, .power]) :
    Keep l a (writeDorm b s) := by
  unfold writeDorm
  repeat' first
    | with_reducible assumption | exact hl.mono rfl | with_reducible apply keep_dormFields
    | with_reducible apply keep_dormEnter | with_reducible apply keep_hostWake | with_reducible apply keep_ite

theorem keep_writeSentinel (h : Keep l a s) (hl : Covers l [.regs, .aux]) : Keep l a (writeSentinel b s) := by
  unfold writeSentinel
  repeat' first
    | with_reducible assumption | exact hl.mono rfl | with_reducible apply keep_setReg | with_reducible apply keep_ite
    | dsimp only | refine keep_mk (m := [.aux]) rfl ?_ (hl.mono rfl)

theorem keep_writeWakeData (h : Keep l a s) (hl : Covers l [.regs, .aux]) : Keep l a (writeWakeData b s) := by
  unfold writeWakeData
  repeat' first
    | with_reducible assumption | exact hl.mono rfl | with_reducible apply keep_nextWakeWord
    | with_reducible apply keep_ite | with_reducible apply keep_foldl | split | dsimp only
    | refine keep_mk (m := [.aux]) rfl ?_ (hl.mono rfl)

theorem keep_writeCage (h : Keep l a s) (hl : Covers l [.regs, .aux]) : Keep l a (writeCage b c d s) := by
  unfold writeCage
  repeat' first
    | with_reducible assumption | exact hl.mono rfl | with_reducible apply keep_unpowerCage
    | with_reducible apply keep_fset | with_reducible apply keep_plainWrite | with_reducible apply keep_powerCage
    | with_reducible apply keep_ite

theorem keep_writeGlb (h : Keep l a s) (hl : Covers l [.regs, .chans, .rings, .cellar, .rows, .ports, .presses, .engine, .fabric, .aux, .power, .errors, .racking, .pmu]) :
    Keep l a (writeGlb b c d e s) := by
  unfold writeGlb
  repeat' first
    | with_reducible assumption | exact hl.mono rfl | with_reducible apply keep_popErrors
    | with_reducible apply keep_writeReset | with_reducible apply keep_plainWrite
    | with_reducible apply keep_applyDivs | with_reducible apply keep_writeDorm | with_reducible apply keep_writeRowEn
    | with_reducible apply keep_ite

theorem keep_writeAux (h : Keep l a s) (hl : Covers l [.regs, .aux]) : Keep l a (writeAux b c d e s) := by
  unfold writeAux
  repeat' first
    | with_reducible assumption | exact hl.mono rfl | with_reducible apply keep_writeWakeData
    | with_reducible apply keep_writeSentinel | with_reducible apply keep_writeCage
    | with_reducible apply keep_plainWrite | with_reducible apply keep_ite

theorem keep_writeMbox (h : Keep l a s) (hl : Covers l [.regs, .mgmt, .freeCount]) : Keep l a (writeMbox b c s) := by
  unfold writeMbox
  repeat' first
    | with_reducible assumption | exact hl.mono rfl | with_reducible apply keep_mboxStore
    | with_reducible apply keep_mboxFetch | with_reducible apply keep_mboxSend | with_reducible apply keep_plainWrite
    | split

theorem keep_writeMgt (h : Keep l a s) (hl : Covers l [.regs, .chans, .cellar, .engine, .fabric, .cm, .mgmt, .pmu, .freeCount]) :
    Keep l a (writeMgt b c d e s) := by
  unfold writeMgt
  repeat' first
    | with_reducible assumption | exact hl.mono rfl | with_reducible apply keep_writeMbox
    | with_reducible apply keep_haltCm | with_reducible apply keep_restartCm | with_reducible apply keep_plainWrite
    | with_reducible apply keep_ite

theorem keep_writeInval (h : Keep l a s) (hl : Covers l [.regs, .rings, .fabric]) : Keep l a (writeInval b c s) := by
  unfold writeInval
  repeat' first
    | with_reducible assumption | exact hl.mono rfl | with_reducible apply keep_ctxInval
    | with_reducible apply keep_plainWrite | with_reducible apply keep_ite

theorem keep_writeChanStat (h : Keep l a s) (hl : Covers l [.chans]) : Keep l a (writeChanStat b c s) := by
  unfold writeChanStat
  repeat' first | with_reducible assumption | exact hl.mono rfl | with_reducible apply keep_modChan

theorem keep_writeFuncStat (h : Keep l a s) (hl : Covers l [.funcs]) : Keep l a (writeFuncStat b c s) := by
  unfold writeFuncStat
  repeat' first | with_reducible assumption | exact hl.mono rfl | with_reducible apply keep_modFunc

theorem keep_writeFuncCtl (h : Keep l a s) (hl : Covers l [.chans, .rings, .book, .cellar, .ports, .presses, .fabric, .funcs, .aux, .power, .pmu]) :
    Keep l a (writeFuncCtl b s) := by
  unfold writeFuncCtl
  repeat' first
    | with_reducible assumption | exact hl.mono rfl | with_reducible apply keep_modFunc
    | with_reducible apply keep_abandon | with_reducible apply keep_ite

theorem keep_writePortCfg (h : Keep l a s) (hl : Covers l [.regs, .fabric]) : Keep l a (writePortCfg b c d s) := by
  unfold writePortCfg
  repeat' first
    | with_reducible assumption | exact hl.mono rfl | with_reducible apply keep_plainWrite
    | with_reducible apply keep_restorePort | with_reducible apply keep_ite

theorem keep_writeIntx (h : Keep l a s) (hl : Covers l [.regs, .funcs]) : Keep l a (writeIntx b s) := by
  unfold writeIntx
  repeat' first
    | with_reducible assumption | exact hl.mono rfl | with_reducible apply keep_clearIntx
    | with_reducible apply keep_fset | with_reducible apply keep_ite

theorem keep_writeForce (h : Keep l a s) (hl : Covers l [.regs]) : Keep l a (writeForce b c s) := by
  unfold writeForce
  repeat' first
    | with_reducible assumption | exact hl.mono rfl | with_reducible apply keep_forceEvent
    | with_reducible apply keep_plainWrite | with_reducible apply keep_ite

theorem keep_writeFab (h : Keep l a s) (hl : Covers l [.regs, .chans, .rings, .book, .cellar, .ports, .presses, .fabric, .funcs, .aux, .power, .errors, .pmu]) :
    Keep l a (writeFab b c d e s) := by
  unfold writeFab
  repeat' first
    | with_reducible assumption | exact hl.mono rfl | with_reducible apply keep_writeChanStat
    | with_reducible apply keep_writeFuncCtl | with_reducible apply keep_chnCommand
    | with_reducible apply keep_writeInval | with_reducible apply keep_writeForce
    | with_reducible apply keep_writeIntx | with_reducible apply keep_writeFuncStat
    | with_reducible apply keep_writePortCfg | with_reducible apply keep_plainWrite | with_reducible apply keep_ite

theorem keep_writePmu (h : Keep l a s) (hl : Covers l [.regs, .fabric, .pmu]) : Keep l a (writePmu b c d e s) := by
  unfold writePmu
  repeat' first
    | with_reducible assumption | exact hl.mono rfl | with_reducible apply keep_winWrite
    | with_reducible apply keep_freeze | with_reducible apply keep_sampleCfg | with_reducible apply keep_plainWrite
    | with_reducible apply keep_ite

theorem keep_writeTim (h : Keep l a s) (hl : Covers l [.regs, .time]) : Keep l a (writeTim b c d e s) := by
  unfold writeTim
  repeat' first
    | with_reducible assumption | exact hl.mono rfl | with_reducible apply keep_writeTrigger
    | with_reducible apply keep_timeIncr | with_reducible apply keep_timeLoad | with_reducible apply keep_fset
    | with_reducible apply keep_plainWrite | with_reducible apply keep_timeStep | with_reducible apply keep_ite
    | split | dsimp only | refine keep_mk (m := [.time]) rfl ?_ (hl.mono rfl)

theorem keep_writeCvu (h : Keep l a s) (hl : Covers l [.regs, .cvTest]) : Keep l a (writeCvu b c d e s) := by
  unfold writeCvu
  repeat' first
    | with_reducible assumption | exact hl.mono rfl | with_reducible apply keep_cvuTestData
    | with_reducible apply keep_cvuTestCtl | with_reducible apply keep_plainWrite | with_reducible apply keep_ite

theorem keep_writeTbl (h : Keep l a s) (hl : Covers l [.regs, .engine, .fabric]) : Keep l a (writeTbl b c d e s) := by
  unfold writeTbl
  repeat' first
    | with_reducible assumption | exact hl.mono rfl | with_reducible apply keep_learnCfg
    | with_reducible apply keep_readCmdProd | with_reducible apply keep_plainWrite
    | with_reducible apply keep_tableCtl | with_reducible apply keep_ite

theorem keep_writePrsCfg (h : Keep l a s) (hl : Covers l [.regs, .presses]) : Keep l a (writePrsCfg b c d s) := by
  unfold writePrsCfg
  repeat' first
    | with_reducible assumption | exact hl.mono rfl | with_reducible apply keep_refreshLanes
    | with_reducible apply keep_plainWrite | with_reducible apply keep_ite

theorem keep_writeLaneStat (h : Keep l a s) (hl : Covers l [.regs, .presses]) : Keep l a (writeLaneStat b c d s) := by
  unfold writeLaneStat
  repeat' first
    | with_reducible assumption | exact hl.mono rfl | with_reducible apply keep_refreshLanes
    | with_reducible apply keep_clearLaneErr | with_reducible apply keep_fset

theorem keep_writeLpmCfg (h : Keep l a s) (hl : Covers l [.regs]) : Keep l a (writeLpmCfg b c s) := by
  unfold writeLpmCfg
  repeat' first | with_reducible assumption | exact hl.mono rfl | with_reducible apply keep_fset

theorem keep_holdPolicer (h : Keep l a s) (hl : Covers l [.presses]) : Keep l a (holdPolicer b c s) := by
  unfold holdPolicer
  repeat' first | with_reducible assumption | exact hl.mono rfl | with_reducible apply keep_modPress

theorem keep_keepCfg (h : Keep l a s) (hl : Covers l [.presses]) : Keep l a (keepCfg b s) := keep_modPress h hl

theorem keep_writePrs (h : Keep l a s) (hl : Covers l [.regs, .presses]) : Keep l a (writePrs b c d e i s) := by
  unfold writePrs
  repeat' first
    | with_reducible assumption | exact hl.mono rfl | with_reducible apply keep_keepCfg | with_reducible apply keep_selectPolicer
    | with_reducible apply keep_writePrsCfg | with_reducible apply keep_commitPolicer
    | with_reducible apply keep_holdPolicer | with_reducible apply keep_plainWrite
    | with_reducible apply keep_writeLaneStat | with_reducible apply keep_writeLpmCfg | with_reducible apply keep_ite

theorem keep_writeTwin (h : Keep l a s) (hl : Covers l [.regs]) : Keep l a (writeTwin b c d s) := by
  unfold writeTwin
  repeat' first
    | with_reducible assumption | exact hl.mono rfl | with_reducible apply keep_fset
    | with_reducible apply keep_plainWrite | with_reducible apply keep_ite

theorem keep_writeRow (h : Keep l a s) (hl : Covers l [.regs, .rows, .ports, .fabric]) :
    Keep l a (writeRow b c d e i s) := by
  unfold writeRow
  repeat' first
    | with_reducible assumption | exact hl.mono rfl | with_reducible apply keep_writeCalCfg
    | with_reducible apply keep_writeRowCfg | with_reducible apply keep_writeTwin
    | with_reducible apply keep_plainWrite | with_reducible apply keep_gateLoad | with_reducible apply keep_ite

theorem keep_writeMacCfg (h : Keep l a s) (hl : Covers l [.regs, .ports]) : Keep l a (writeMacCfg b c d s) := by
  unfold writeMacCfg
  repeat' first
    | with_reducible assumption | exact hl.mono rfl | with_reducible apply keep_redueXoff
    | with_reducible apply keep_evalLink | with_reducible apply keep_plainWrite | with_reducible apply keep_ite

theorem keep_writeGateCfg (h : Keep l a s) (hl : Covers l [.regs, .ports]) : Keep l a (writeGateCfg b c d s) := by
  unfold writeGateCfg
  repeat' first
    | with_reducible assumption | exact hl.mono rfl | with_reducible apply keep_gateCommit
    | with_reducible apply keep_noteOverrun | with_reducible apply keep_gateCancel
    | with_reducible apply keep_plainWrite | with_reducible apply keep_ite | split

theorem keep_writePrt (h : Keep l a s) (hl : Covers l [.regs, .ports]) : Keep l a (writePrt b c d e i s) := by
  unfold writePrt
  repeat' first
    | with_reducible assumption | exact hl.mono rfl | with_reducible apply keep_writeMacCfg
    | with_reducible apply keep_writeGateCfg | with_reducible apply keep_plainWrite | with_reducible apply keep_ite

theorem keep_writeCel (h : Keep l a s) (hl : Covers l [.regs, .chans, .cellar, .fabric, .pmu]) :
    Keep l a (writeCel b c d e s) := by
  unfold writeCel
  extract_lets u
  have h1 : Keep l a u := keep_plainWrite h (hl.mono rfl)
  exact keep_ite (keep_foldl h1 fun _ _ hu => keep_fetchRx hu (hl.mono rfl)) h1

theorem keep_writeOne (h : Keep l a s) (hl : Covers l [.regs, .chans, .rings, .book, .cellar, .rows, .ports, .presses, .engine, .fabric, .funcs, .time, .cvTest, .aux, .power, .errors, .racking, .cm, .mgmt, .pmu, .freeCount]) :
    Keep l a (writeOne b c d e s) := by
  unfold writeOne
  repeat' first
    | with_reducible assumption | exact hl.mono rfl | with_reducible apply keep_writeCel | with_reducible apply keep_writeCvu
    | with_reducible apply keep_writePrs | with_reducible apply keep_writeGlb | with_reducible apply keep_writePrt
    | with_reducible apply keep_writeTim | with_reducible apply keep_writeRow | with_reducible apply keep_writeTbl
    | with_reducible apply keep_writeMgt | with_reducible apply keep_writeAux | with_reducible apply keep_plainWrite
    | with_reducible apply keep_writePmu | with_reducible apply keep_writeFab | with_reducible apply keep_ite | split

theorem keep_holdLow (h : Keep l a s) (hl : Covers l [.pairHeld]) : Keep l a (holdLow b c s) := by
  unfold holdLow
  repeat' first
    | with_reducible assumption | exact hl.mono rfl | dsimp only
    | refine keep_mk (m := [.pairHeld]) rfl ?_ (hl.mono rfl)

theorem keep_commitPair (h : Keep l a s) (hl : Covers l [.regs, .pairHeld, .pmu]) :
    Keep l a (commitPair b c d e s) := by
  unfold commitPair
  repeat' first
    | with_reducible assumption | exact hl.mono rfl | with_reducible apply keep_winWrite
    | with_reducible apply keep_winSet | with_reducible apply keep_plainWrite | with_reducible apply keep_ite | split
    | with_reducible refine keep_fst (by assumption) ?_ | with_reducible refine keep_snd (by assumption) ?_
    | dsimp only | refine keep_mk (m := [.pairHeld]) rfl ?_ (hl.mono rfl)

theorem keep_writeReg (h : Keep l a s) (hl : Covers l [.regs, .pairHeld, .chans, .rings, .book, .cellar, .rows, .ports, .presses, .engine, .fabric, .funcs, .time, .cvTest, .aux, .power, .errors, .racking, .cm, .mgmt, .pmu, .freeCount]) :
    Keep l a (writeReg b c d e i s) := by
  unfold writeReg
  repeat' first
    | with_reducible assumption | exact hl.mono rfl | with_reducible apply keep_holdLow
    | with_reducible apply keep_writeOne | with_reducible apply keep_commitPair | with_reducible apply keep_ite
    | split

theorem keep_execRegisterWrite (h : Keep l a (portTurn s)) (hl : Covers l [.regs, .pairHeld, .chans, .rings, .book, .cellar, .rows, .ports, .presses, .engine, .fabric, .funcs, .time, .cvTest, .aux, .power, .errors, .racking, .cm, .mgmt, .pmu, .freeCount]) :
    KeepOut l a (execRegisterWrite b c d e s) := by
  unfold execRegisterWrite
  repeat' first
    | with_reducible assumption | exact hl.mono rfl | with_reducible apply keep_writeReg
    | with_reducible apply keep_settle | with_reducible apply keepOut_ite | with_reducible apply keep_ite
    | with_reducible apply keepOut_next

theorem keep_execRcFieldRead (h : Keep l a (portTurn s)) (hl : Covers l [.regs, .pairCap, .rdata, .funcs, .time]) :
    KeepOut l a (execRcFieldRead b c d s) := by
  unfold execRcFieldRead
  repeat' first
    | with_reducible assumption | exact hl.mono rfl | with_reducible apply keep_readReg
    | with_reducible apply keepOut_next

theorem keep_execPairLoRead (h : Keep l a (portTurn s)) (hl : Covers l [.regs, .pairCap, .rdata, .funcs, .time]) :
    KeepOut l a (execPairLoRead b c s) := by
  unfold execPairLoRead
  repeat' first
    | with_reducible assumption | exact hl.mono rfl | with_reducible apply keep_readReg
    | with_reducible apply keepOut_next

theorem keep_execPairHiWrite (h : Keep l a (portTurn s)) (hl : Covers l [.regs, .pairHeld, .chans, .rings, .book, .cellar, .rows, .ports, .presses, .engine, .fabric, .funcs, .time, .cvTest, .aux, .power, .errors, .racking, .cm, .mgmt, .pmu, .freeCount]) :
    KeepOut l a (execPairHiWrite b c d e s) := by
  unfold execPairHiWrite
  repeat' first
    | with_reducible assumption | exact hl.mono rfl | with_reducible apply keep_writeReg
    | with_reducible apply keep_settle | with_reducible apply keepOut_ite | with_reducible apply keep_ite
    | with_reducible apply keepOut_next

theorem keep_ringBell (h : Keep l a s) (hl : Covers l [.regs]) (hf : ∀ x u, Keep l a u → Keep l a (c x u)) :
    Keep l a (ringBell b c d s) := by
  unfold ringBell
  exact keep_ite h (keep_ite (hf _ _ (keep_count h)) (keep_fadd (keep_count h) (hl.mono rfl)))

theorem keep_execTransmitDoorbell (h : Keep l a s) (hl : Covers l [.regs, .chans, .fabric]) :
    KeepOut l a (execTransmitDoorbell b c s) := by
  unfold execTransmitDoorbell
  repeat' first
    | with_reducible assumption | exact hl.mono rfl | with_reducible apply keep_readTxProd
    | with_reducible apply keep_settle | with_reducible apply keep_ringBell | with_reducible apply keepOut_ite
    | with_reducible apply keep_ite | with_reducible apply keepOut_next | with_reducible exact keepOut_fault | split
    | dsimp only | (intro _; intros)

theorem keep_execReceiveDoorbell (h : Keep l a s) (hl : Covers l [.regs, .chans, .fabric]) :
    KeepOut l a (execReceiveDoorbell b c s) := by
  unfold execReceiveDoorbell
  repeat' first
    | with_reducible assumption | exact hl.mono rfl | with_reducible apply keep_settle
    | with_reducible apply keep_readRxProd | with_reducible apply keep_ringBell | with_reducible apply keepOut_ite
    | with_reducible apply keep_ite | with_reducible apply keepOut_next | with_reducible exact keepOut_fault | split
    | dsimp only | (intro _; intros)

theorem keep_execPollInterval (h : Keep l a s) (hl : Covers l [.chans, .fabric]) :
    KeepOut l a (execPollInterval b s) := by
  unfold execPollInterval
  repeat' first
    | with_reducible assumption | exact hl.mono rfl | with_reducible apply keep_readTxProd
    | with_reducible apply keep_settle | with_reducible apply keep_readRxProd | with_reducible apply keepOut_ite
    | with_reducible apply keep_ite | with_reducible apply keepOut_next

theorem keep_execStart (h : Keep l a s) (hl : Covers l [.regs, .chans, .rings, .book, .cellar, .ports, .presses, .fabric, .aux, .power, .errors, .pmu]) :
    KeepOut l a (execStart b s) := by
  unfold execStart
  repeat' first
    | with_reducible assumption | exact hl.mono rfl | with_reducible apply keep_settle
    | with_reducible apply keep_chnCommand | with_reducible apply keepOut_ite | with_reducible apply keep_ite
    | with_reducible apply keepOut_next

theorem keep_execStartFresh (h : Keep l a s) (hl : Covers l [.regs, .chans, .rings, .book, .cellar, .ports, .presses, .fabric, .aux, .power, .errors, .pmu]) :
    KeepOut l a (execStartFresh b s) := by
  unfold execStartFresh
  repeat' first
    | with_reducible assumption | exact hl.mono rfl | with_reducible apply keep_settle
    | with_reducible apply keep_chnCommand | with_reducible apply keepOut_ite | with_reducible apply keep_ite
    | with_reducible apply keepOut_next

theorem keep_execStop (h : Keep l a s) (hl : Covers l [.regs, .chans, .rings, .book, .cellar, .ports, .presses, .fabric, .aux, .power, .errors, .pmu]) :
    KeepOut l a (execStop s) := by
  unfold execStop
  repeat' first
    | with_reducible assumption | exact hl.mono rfl | with_reducible apply keep_settle
    | with_reducible apply keep_chnCommand | with_reducible apply keepOut_ite | with_reducible apply keep_ite
    | with_reducible apply keepOut_next

theorem keep_execReset (h : Keep l a s) (hl : Covers l [.regs, .chans, .rings, .book, .cellar, .ports, .presses, .fabric, .aux, .power, .errors, .pmu]) :
    KeepOut l a (execReset s) := by
  unfold execReset
  repeat' first
    | with_reducible assumption | exact hl.mono rfl | with_reducible apply keep_settle
    | with_reducible apply keep_chnCommand | with_reducible apply keepOut_ite | with_reducible apply keep_ite
    | with_reducible apply keepOut_next

theorem keep_execChnCmdInvalid (h : Keep l a s) (hl : Covers l [.regs, .chans, .rings, .book, .cellar, .ports, .presses, .fabric, .aux, .power, .errors, .pmu]) :
    KeepOut l a (execChnCmdInvalid b s) := by
  unfold execChnCmdInvalid
  repeat' first
    | with_reducible assumption | exact hl.mono rfl | with_reducible apply keep_settle
    | with_reducible apply keep_chnCommand | with_reducible apply keepOut_ite | with_reducible apply keep_ite
    | with_reducible apply keepOut_next

theorem keep_invalFields (h : Keep l a s) (hl : Covers l [.regs]) : Keep l a (invalFields b c d s) := by
  unfold invalFields
  repeat' first | with_reducible assumption | exact hl.mono rfl | with_reducible apply keep_fset

theorem keep_execCtxInvalChannel (h : Keep l a s) (hl : Covers l [.regs, .rings, .fabric]) :
    KeepOut l a (execCtxInvalChannel b s) := by
  unfold execCtxInvalChannel
  repeat' first
    | with_reducible assumption | exact hl.mono rfl | with_reducible apply keep_invalFields
    | with_reducible apply keep_settle | with_reducible apply keep_ctxInval | with_reducible apply keepOut_ite
    | with_reducible apply keep_ite | with_reducible apply keepOut_next

theorem keep_execCtxInvalCring (h : Keep l a s) (hl : Covers l [.regs, .rings, .fabric]) :
    KeepOut l a (execCtxInvalCring b s) := by
  unfold execCtxInvalCring
  repeat' first
    | with_reducible assumption | exact hl.mono rfl | with_reducible apply keep_invalFields
    | with_reducible apply keep_settle | with_reducible apply keep_ctxInval | with_reducible apply keepOut_ite
    | with_reducible apply keep_ite | with_reducible apply keepOut_next

theorem keep_execRingReset (h : Keep l a s) (hl : Covers l [.regs, .rings, .fabric]) :
    KeepOut l a (execRingReset b s) := by
  unfold execRingReset
  repeat' first
    | with_reducible assumption | exact hl.mono rfl | with_reducible apply keep_invalFields
    | with_reducible apply keep_settle | with_reducible apply keep_ctxInval | with_reducible apply keepOut_ite
    | with_reducible apply keep_ite | with_reducible apply keepOut_next

/-! ### Machine/Tick.lean -/

theorem keep_slotCycle (h : Keep l a s) (hl : Covers l [.presses]) : Keep l a (slotCycle b s) := by
  unfold slotCycle
  repeat' first
    | with_reducible assumption | exact hl.mono rfl | with_reducible apply keep_addCount
    | with_reducible apply keep_setPress | with_reducible apply keep_count

theorem keep_countReads (h : Keep l a s) : Keep l a (countReads s) := by
  unfold countReads
  repeat' first
    | with_reducible assumption | with_reducible apply keep_count | with_reducible apply keep_ite
    | with_reducible apply keep_foldl | split | dsimp only | (intro _; intros)

theorem keep_cmCycle (h : Keep l a s) (hl : Covers l [.fabric, .cm]) : Keep l a (cmCycle s) := by
  unfold cmCycle
  repeat' first
    | with_reducible assumption | exact hl.mono rfl | with_reducible apply keep_settle
    | with_reducible apply keep_startPass | with_reducible apply keep_count | with_reducible apply keep_ite | split
    | dsimp only | refine keep_mk (m := [.cm]) rfl ?_ (hl.mono rfl)

theorem keep_loadWindow (h : Keep l a s) (hl : Covers l [.regs, .cm, .freeCount]) : Keep l a (loadWindow s) := by
  unfold loadWindow
  repeat' first
    | with_reducible assumption | exact hl.mono rfl | with_reducible apply keep_fset | with_reducible apply keep_ite
    | split | dsimp only | refine keep_mk (m := [.cm, .freeCount]) rfl ?_ (hl.mono rfl)

theorem keep_enterLpi (h : Keep l a s) (hl : Covers l [.regs, .ports]) : Keep l a (enterLpi b s) := by
  unfold enterLpi
  extract_lets u
  have h1 : Keep l a u := keep_modPort h (hl.mono rfl)
  exact keep_ite (keep_fadd (keep_modPort h1 (hl.mono rfl)) (hl.mono rfl)) h1

theorem keep_portsEnd (h : Keep l a s) (hl : Covers l [.regs, .ports]) : Keep l a (portsEnd s) := by
  unfold portsEnd
  exact keep_foldl h fun _ _ hu => keep_modPort (keep_enterLpi hu (hl.mono rfl)) (hl.mono rfl)

theorem keep_cycleEnd (h : Keep l a s) (hl : Covers l [.regs, .cellar, .rows, .ports, .presses, .fabric, .pmu]) :
    Keep l a (cycleEnd s) := by
  unfold cycleEnd
  repeat' first
    | with_reducible assumption | exact hl.mono rfl | with_reducible apply keep_portsEnd | with_reducible apply keep_settle
    | with_reducible apply keep_addCount | with_reducible apply keep_evalXoff
    | with_reducible apply keep_admitArrivals | with_reducible apply keep_countReads
    | with_reducible apply keep_backlogCheck | with_reducible apply keep_slotCycle | with_reducible apply keep_foldl
    | dsimp only | (intro _; intros)

theorem keep_cycleStart (h : Keep l a s) (hl : Covers l [.regs, .chans, .rings, .book, .cellar, .ports, .presses, .fabric, .aux, .power, .cm, .pmu, .freeCount, .serial]) :
    Keep l a (cycleStart s) := by
  unfold cycleStart
  repeat' first
    | with_reducible assumption | exact hl.mono rfl | with_reducible apply keep_settle
    | with_reducible apply keep_cmCycle | with_reducible apply keep_retireCycle | with_reducible apply keep_loadWindow
    | with_reducible apply keep_ite | with_reducible apply keep_foldl | split | dsimp only | (intro _; intros)

theorem keep_tick (h : Keep l a s) (hl : Covers l [.regs, .chans, .rings, .book, .cellar, .rows, .ports, .presses, .replicas, .fabric, .time, .aux, .power, .cm, .pmu, .freeCount, .serial]) :
    Keep l a (tick s) := by
  unfold tick
  extract_lets s1 x p s2 s3
  have h1 : Keep l a s1 := keep_ite (keep_cycleEnd h (hl.mono rfl)) h
  have h2 : Keep l a s2 := keep_mk (m := [.replicas, .time, .pmu]) rfl h1 (hl.mono rfl) (h13 := fun ht => ht)
  have h3 : Keep l a s3 := keep_ite (keep_sclkEdge h2 (hl.mono rfl)) (keep_afterEdge h2 (hl.mono rfl))
  clear_value s3
  exact keep_ite h (keep_ite (keep_cycleStart h3 (hl.mono rfl)) h3)

end Sys2Proof.Machine
end

