-- ==== Sys2Proof/Laws/State.lean ====
section
/-!
SUPPORT. What each setter of the state does to each field, and what each accessor reads after a setter, so that no
later proof unfolds a record update.
-/

set_option Elab.async false

namespace Sys2Proof.Machine

variable (s : State)

/-! ### setReg -/

@[simp] theorem setReg_pending (r : Reg) (w : Word) : (setReg r w s).pending = s.pending := rfl
@[simp] theorem setReg_regs (r : Reg) (w : Word) : (setReg r w s).regs = mputD r.rst r.off w s.regs := rfl
@[simp] theorem setReg_pairHeld (r : Reg) (w : Word) : (setReg r w s).pairHeld = s.pairHeld := rfl
@[simp] theorem setReg_pairCap (r : Reg) (w : Word) : (setReg r w s).pairCap = s.pairCap := rfl
@[simp] theorem setReg_rdata (r : Reg) (w : Word) : (setReg r w s).rdata = s.rdata := rfl
@[simp] theorem setReg_chans (r : Reg) (w : Word) : (setReg r w s).chans = s.chans := rfl
@[simp] theorem setReg_rings (r : Reg) (w : Word) : (setReg r w s).rings = s.rings := rfl
@[simp] theorem setReg_book (r : Reg) (w : Word) : (setReg r w s).book = s.book := rfl
@[simp] theorem setReg_cellar (r : Reg) (w : Word) : (setReg r w s).cellar = s.cellar := rfl
@[simp] theorem setReg_rows (r : Reg) (w : Word) : (setReg r w s).rows = s.rows := rfl
@[simp] theorem setReg_ports (r : Reg) (w : Word) : (setReg r w s).ports = s.ports := rfl
@[simp] theorem setReg_presses (r : Reg) (w : Word) : (setReg r w s).presses = s.presses := rfl
@[simp] theorem setReg_replicas (r : Reg) (w : Word) : (setReg r w s).replicas = s.replicas := rfl
@[simp] theorem setReg_replicasOld (r : Reg) (w : Word) : (setReg r w s).replicasOld = s.replicasOld := rfl
@[simp] theorem setReg_engine (r : Reg) (w : Word) : (setReg r w s).engine = s.engine := rfl
@[simp] theorem setReg_fabric (r : Reg) (w : Word) : (setReg r w s).fabric = s.fabric := rfl
@[simp] theorem setReg_funcs (r : Reg) (w : Word) : (setReg r w s).funcs = s.funcs := rfl
@[simp] theorem setReg_events (r : Reg) (w : Word) : (setReg r w s).events = s.events := rfl
@[simp] theorem setReg_time (r : Reg) (w : Word) : (setReg r w s).time = s.time := rfl
@[simp] theorem setReg_cvTest (r : Reg) (w : Word) : (setReg r w s).cvTest = s.cvTest := rfl
@[simp] theorem setReg_aux (r : Reg) (w : Word) : (setReg r w s).aux = s.aux := rfl
@[simp] theorem setReg_power (r : Reg) (w : Word) : (setReg r w s).power = s.power := rfl
@[simp] theorem setReg_errors (r : Reg) (w : Word) : (setReg r w s).errors = s.errors := rfl
@[simp] theorem setReg_racking (r : Reg) (w : Word) : (setReg r w s).racking = s.racking := rfl
@[simp] theorem setReg_cm (r : Reg) (w : Word) : (setReg r w s).cm = s.cm := rfl
@[simp] theorem setReg_mgmt (r : Reg) (w : Word) : (setReg r w s).mgmt = s.mgmt := rfl
@[simp] theorem setReg_pmu (r : Reg) (w : Word) : (setReg r w s).pmu = s.pmu := rfl
@[simp] theorem setReg_freeCount (r : Reg) (w : Word) : (setReg r w s).freeCount = s.freeCount := rfl
@[simp] theorem setReg_serial (r : Reg) (w : Word) : (setReg r w s).serial = s.serial := rfl

/-! ### setChan -/

@[simp] theorem setChan_pending (c : Nat) (x : Chan) : (setChan c x s).pending = s.pending := rfl
@[simp] theorem setChan_regs (c : Nat) (x : Chan) : (setChan c x s).regs = s.regs := rfl
@[simp] theorem setChan_pairHeld (c : Nat) (x : Chan) : (setChan c x s).pairHeld = s.pairHeld := rfl
@[simp] theorem setChan_pairCap (c : Nat) (x : Chan) : (setChan c x s).pairCap = s.pairCap := rfl
@[simp] theorem setChan_rdata (c : Nat) (x : Chan) : (setChan c x s).rdata = s.rdata := rfl
@[simp] theorem setChan_chans (c : Nat) (x : Chan) : (setChan c x s).chans = mputD {} c x s.chans := rfl
@[simp] theorem setChan_rings (c : Nat) (x : Chan) : (setChan c x s).rings = s.rings := rfl
@[simp] theorem setChan_book (c : Nat) (x : Chan) : (setChan c x s).book = s.book := rfl
@[simp] theorem setChan_cellar (c : Nat) (x : Chan) : (setChan c x s).cellar = s.cellar := rfl
@[simp] theorem setChan_rows (c : Nat) (x : Chan) : (setChan c x s).rows = s.rows := rfl
@[simp] theorem setChan_ports (c : Nat) (x : Chan) : (setChan c x s).ports = s.ports := rfl
@[simp] theorem setChan_presses (c : Nat) (x : Chan) : (setChan c x s).presses = s.presses := rfl
@[simp] theorem setChan_replicas (c : Nat) (x : Chan) : (setChan c x s).replicas = s.replicas := rfl
@[simp] theorem setChan_replicasOld (c : Nat) (x : Chan) : (setChan c x s).replicasOld = s.replicasOld := rfl
@[simp] theorem setChan_engine (c : Nat) (x : Chan) : (setChan c x s).engine = s.engine := rfl
@[simp] theorem setChan_fabric (c : Nat) (x : Chan) : (setChan c x s).fabric = s.fabric := rfl
@[simp] theorem setChan_funcs (c : Nat) (x : Chan) : (setChan c x s).funcs = s.funcs := rfl
@[simp] theorem setChan_events (c : Nat) (x : Chan) : (setChan c x s).events = s.events := rfl
@[simp] theorem setChan_time (c : Nat) (x : Chan) : (setChan c x s).time = s.time := rfl
@[simp] theorem setChan_cvTest (c : Nat) (x : Chan) : (setChan c x s).cvTest = s.cvTest := rfl
@[simp] theorem setChan_aux (c : Nat) (x : Chan) : (setChan c x s).aux = s.aux := rfl
@[simp] theorem setChan_power (c : Nat) (x : Chan) : (setChan c x s).power = s.power := rfl
@[simp] theorem setChan_errors (c : Nat) (x : Chan) : (setChan c x s).errors = s.errors := rfl
@[simp] theorem setChan_racking (c : Nat) (x : Chan) : (setChan c x s).racking = s.racking := rfl
@[simp] theorem setChan_cm (c : Nat) (x : Chan) : (setChan c x s).cm = s.cm := rfl
@[simp] theorem setChan_mgmt (c : Nat) (x : Chan) : (setChan c x s).mgmt = s.mgmt := rfl
@[simp] theorem setChan_pmu (c : Nat) (x : Chan) : (setChan c x s).pmu = s.pmu := rfl
@[simp] theorem setChan_freeCount (c : Nat) (x : Chan) : (setChan c x s).freeCount = s.freeCount := rfl
@[simp] theorem setChan_serial (c : Nat) (x : Chan) : (setChan c x s).serial = s.serial := rfl

/-! ### setRing -/

@[simp] theorem setRing_pending (n : Nat) (x : Ring) : (setRing n x s).pending = s.pending := rfl
@[simp] theorem setRing_regs (n : Nat) (x : Ring) : (setRing n x s).regs = s.regs := rfl
@[simp] theorem setRing_pairHeld (n : Nat) (x : Ring) : (setRing n x s).pairHeld = s.pairHeld := rfl
@[simp] theorem setRing_pairCap (n : Nat) (x : Ring) : (setRing n x s).pairCap = s.pairCap := rfl
@[simp] theorem setRing_rdata (n : Nat) (x : Ring) : (setRing n x s).rdata = s.rdata := rfl
@[simp] theorem setRing_chans (n : Nat) (x : Ring) : (setRing n x s).chans = s.chans := rfl
@[simp] theorem setRing_rings (n : Nat) (x : Ring) : (setRing n x s).rings = mputD {} n x s.rings := rfl
@[simp] theorem setRing_book (n : Nat) (x : Ring) : (setRing n x s).book = s.book := rfl
@[simp] theorem setRing_cellar (n : Nat) (x : Ring) : (setRing n x s).cellar = s.cellar := rfl
@[simp] theorem setRing_rows (n : Nat) (x : Ring) : (setRing n x s).rows = s.rows := rfl
@[simp] theorem setRing_ports (n : Nat) (x : Ring) : (setRing n x s).ports = s.ports := rfl
@[simp] theorem setRing_presses (n : Nat) (x : Ring) : (setRing n x s).presses = s.presses := rfl
@[simp] theorem setRing_replicas (n : Nat) (x : Ring) : (setRing n x s).replicas = s.replicas := rfl
@[simp] theorem setRing_replicasOld (n : Nat) (x : Ring) : (setRing n x s).replicasOld = s.replicasOld := rfl
@[simp] theorem setRing_engine (n : Nat) (x : Ring) : (setRing n x s).engine = s.engine := rfl
@[simp] theorem setRing_fabric (n : Nat) (x : Ring) : (setRing n x s).fabric = s.fabric := rfl
@[simp] theorem setRing_funcs (n : Nat) (x : Ring) : (setRing n x s).funcs = s.funcs := rfl
@[simp] theorem setRing_events (n : Nat) (x : Ring) : (setRing n x s).events = s.events := rfl
@[simp] theorem setRing_time (n : Nat) (x : Ring) : (setRing n x s).time = s.time := rfl
@[simp] theorem setRing_cvTest (n : Nat) (x : Ring) : (setRing n x s).cvTest = s.cvTest := rfl
@[simp] theorem setRing_aux (n : Nat) (x : Ring) : (setRing n x s).aux = s.aux := rfl
@[simp] theorem setRing_power (n : Nat) (x : Ring) : (setRing n x s).power = s.power := rfl
@[simp] theorem setRing_errors (n : Nat) (x : Ring) : (setRing n x s).errors = s.errors := rfl
@[simp] theorem setRing_racking (n : Nat) (x : Ring) : (setRing n x s).racking = s.racking := rfl
@[simp] theorem setRing_cm (n : Nat) (x : Ring) : (setRing n x s).cm = s.cm := rfl
@[simp] theorem setRing_mgmt (n : Nat) (x : Ring) : (setRing n x s).mgmt = s.mgmt := rfl
@[simp] theorem setRing_pmu (n : Nat) (x : Ring) : (setRing n x s).pmu = s.pmu := rfl
@[simp] theorem setRing_freeCount (n : Nat) (x : Ring) : (setRing n x s).freeCount = s.freeCount := rfl
@[simp] theorem setRing_serial (n : Nat) (x : Ring) : (setRing n x s).serial = s.serial := rfl

/-! ### setRow -/

@[simp] theorem setRow_pending (r : Nat) (x : Row) : (setRow r x s).pending = s.pending := rfl
@[simp] theorem setRow_regs (r : Nat) (x : Row) : (setRow r x s).regs = s.regs := rfl
@[simp] theorem setRow_pairHeld (r : Nat) (x : Row) : (setRow r x s).pairHeld = s.pairHeld := rfl
@[simp] theorem setRow_pairCap (r : Nat) (x : Row) : (setRow r x s).pairCap = s.pairCap := rfl
@[simp] theorem setRow_rdata (r : Nat) (x : Row) : (setRow r x s).rdata = s.rdata := rfl
@[simp] theorem setRow_chans (r : Nat) (x : Row) : (setRow r x s).chans = s.chans := rfl
@[simp] theorem setRow_rings (r : Nat) (x : Row) : (setRow r x s).rings = s.rings := rfl
@[simp] theorem setRow_book (r : Nat) (x : Row) : (setRow r x s).book = s.book := rfl
@[simp] theorem setRow_cellar (r : Nat) (x : Row) : (setRow r x s).cellar = s.cellar := rfl
@[simp] theorem setRow_rows (r : Nat) (x : Row) : (setRow r x s).rows = mputD {} r x s.rows := rfl
@[simp] theorem setRow_ports (r : Nat) (x : Row) : (setRow r x s).ports = s.ports := rfl
@[simp] theorem setRow_presses (r : Nat) (x : Row) : (setRow r x s).presses = s.presses := rfl
@[simp] theorem setRow_replicas (r : Nat) (x : Row) : (setRow r x s).replicas = s.replicas := rfl
@[simp] theorem setRow_replicasOld (r : Nat) (x : Row) : (setRow r x s).replicasOld = s.replicasOld := rfl
@[simp] theorem setRow_engine (r : Nat) (x : Row) : (setRow r x s).engine = s.engine := rfl
@[simp] theorem setRow_fabric (r : Nat) (x : Row) : (setRow r x s).fabric = s.fabric := rfl
@[simp] theorem setRow_funcs (r : Nat) (x : Row) : (setRow r x s).funcs = s.funcs := rfl
@[simp] theorem setRow_events (r : Nat) (x : Row) : (setRow r x s).events = s.events := rfl
@[simp] theorem setRow_time (r : Nat) (x : Row) : (setRow r x s).time = s.time := rfl
@[simp] theorem setRow_cvTest (r : Nat) (x : Row) : (setRow r x s).cvTest = s.cvTest := rfl
@[simp] theorem setRow_aux (r : Nat) (x : Row) : (setRow r x s).aux = s.aux := rfl
@[simp] theorem setRow_power (r : Nat) (x : Row) : (setRow r x s).power = s.power := rfl
@[simp] theorem setRow_errors (r : Nat) (x : Row) : (setRow r x s).errors = s.errors := rfl
@[simp] theorem setRow_racking (r : Nat) (x : Row) : (setRow r x s).racking = s.racking := rfl
@[simp] theorem setRow_cm (r : Nat) (x : Row) : (setRow r x s).cm = s.cm := rfl
@[simp] theorem setRow_mgmt (r : Nat) (x : Row) : (setRow r x s).mgmt = s.mgmt := rfl
@[simp] theorem setRow_pmu (r : Nat) (x : Row) : (setRow r x s).pmu = s.pmu := rfl
@[simp] theorem setRow_freeCount (r : Nat) (x : Row) : (setRow r x s).freeCount = s.freeCount := rfl
@[simp] theorem setRow_serial (r : Nat) (x : Row) : (setRow r x s).serial = s.serial := rfl

/-! ### setPort -/

@[simp] theorem setPort_pending (g : Nat) (x : Port) : (setPort g x s).pending = s.pending := rfl
@[simp] theorem setPort_regs (g : Nat) (x : Port) : (setPort g x s).regs = s.regs := rfl
@[simp] theorem setPort_pairHeld (g : Nat) (x : Port) : (setPort g x s).pairHeld = s.pairHeld := rfl
@[simp] theorem setPort_pairCap (g : Nat) (x : Port) : (setPort g x s).pairCap = s.pairCap := rfl
@[simp] theorem setPort_rdata (g : Nat) (x : Port) : (setPort g x s).rdata = s.rdata := rfl
@[simp] theorem setPort_chans (g : Nat) (x : Port) : (setPort g x s).chans = s.chans := rfl
@[simp] theorem setPort_rings (g : Nat) (x : Port) : (setPort g x s).rings = s.rings := rfl
@[simp] theorem setPort_book (g : Nat) (x : Port) : (setPort g x s).book = s.book := rfl
@[simp] theorem setPort_cellar (g : Nat) (x : Port) : (setPort g x s).cellar = s.cellar := rfl
@[simp] theorem setPort_rows (g : Nat) (x : Port) : (setPort g x s).rows = s.rows := rfl
@[simp] theorem setPort_ports (g : Nat) (x : Port) : (setPort g x s).ports = mputD {} g x s.ports := rfl
@[simp] theorem setPort_presses (g : Nat) (x : Port) : (setPort g x s).presses = s.presses := rfl
@[simp] theorem setPort_replicas (g : Nat) (x : Port) : (setPort g x s).replicas = s.replicas := rfl
@[simp] theorem setPort_replicasOld (g : Nat) (x : Port) : (setPort g x s).replicasOld = s.replicasOld := rfl
@[simp] theorem setPort_engine (g : Nat) (x : Port) : (setPort g x s).engine = s.engine := rfl
@[simp] theorem setPort_fabric (g : Nat) (x : Port) : (setPort g x s).fabric = s.fabric := rfl
@[simp] theorem setPort_funcs (g : Nat) (x : Port) : (setPort g x s).funcs = s.funcs := rfl
@[simp] theorem setPort_events (g : Nat) (x : Port) : (setPort g x s).events = s.events := rfl
@[simp] theorem setPort_time (g : Nat) (x : Port) : (setPort g x s).time = s.time := rfl
@[simp] theorem setPort_cvTest (g : Nat) (x : Port) : (setPort g x s).cvTest = s.cvTest := rfl
@[simp] theorem setPort_aux (g : Nat) (x : Port) : (setPort g x s).aux = s.aux := rfl
@[simp] theorem setPort_power (g : Nat) (x : Port) : (setPort g x s).power = s.power := rfl
@[simp] theorem setPort_errors (g : Nat) (x : Port) : (setPort g x s).errors = s.errors := rfl
@[simp] theorem setPort_racking (g : Nat) (x : Port) : (setPort g x s).racking = s.racking := rfl
@[simp] theorem setPort_cm (g : Nat) (x : Port) : (setPort g x s).cm = s.cm := rfl
@[simp] theorem setPort_mgmt (g : Nat) (x : Port) : (setPort g x s).mgmt = s.mgmt := rfl
@[simp] theorem setPort_pmu (g : Nat) (x : Port) : (setPort g x s).pmu = s.pmu := rfl
@[simp] theorem setPort_freeCount (g : Nat) (x : Port) : (setPort g x s).freeCount = s.freeCount := rfl
@[simp] theorem setPort_serial (g : Nat) (x : Port) : (setPort g x s).serial = s.serial := rfl

/-! ### setPress -/

@[simp] theorem setPress_pending (k : Nat) (x : Press) : (setPress k x s).pending = s.pending := rfl
@[simp] theorem setPress_regs (k : Nat) (x : Press) : (setPress k x s).regs = s.regs := rfl
@[simp] theorem setPress_pairHeld (k : Nat) (x : Press) : (setPress k x s).pairHeld = s.pairHeld := rfl
@[simp] theorem setPress_pairCap (k : Nat) (x : Press) : (setPress k x s).pairCap = s.pairCap := rfl
@[simp] theorem setPress_rdata (k : Nat) (x : Press) : (setPress k x s).rdata = s.rdata := rfl
@[simp] theorem setPress_chans (k : Nat) (x : Press) : (setPress k x s).chans = s.chans := rfl
@[simp] theorem setPress_rings (k : Nat) (x : Press) : (setPress k x s).rings = s.rings := rfl
@[simp] theorem setPress_book (k : Nat) (x : Press) : (setPress k x s).book = s.book := rfl
@[simp] theorem setPress_cellar (k : Nat) (x : Press) : (setPress k x s).cellar = s.cellar := rfl
@[simp] theorem setPress_rows (k : Nat) (x : Press) : (setPress k x s).rows = s.rows := rfl
@[simp] theorem setPress_ports (k : Nat) (x : Press) : (setPress k x s).ports = s.ports := rfl
@[simp] theorem setPress_presses (k : Nat) (x : Press) : (setPress k x s).presses = mputD {} k x s.presses := rfl
@[simp] theorem setPress_replicas (k : Nat) (x : Press) : (setPress k x s).replicas = s.replicas := rfl
@[simp] theorem setPress_replicasOld (k : Nat) (x : Press) : (setPress k x s).replicasOld = s.replicasOld := rfl
@[simp] theorem setPress_engine (k : Nat) (x : Press) : (setPress k x s).engine = s.engine := rfl
@[simp] theorem setPress_fabric (k : Nat) (x : Press) : (setPress k x s).fabric = s.fabric := rfl
@[simp] theorem setPress_funcs (k : Nat) (x : Press) : (setPress k x s).funcs = s.funcs := rfl
@[simp] theorem setPress_events (k : Nat) (x : Press) : (setPress k x s).events = s.events := rfl
@[simp] theorem setPress_time (k : Nat) (x : Press) : (setPress k x s).time = s.time := rfl
@[simp] theorem setPress_cvTest (k : Nat) (x : Press) : (setPress k x s).cvTest = s.cvTest := rfl
@[simp] theorem setPress_aux (k : Nat) (x : Press) : (setPress k x s).aux = s.aux := rfl
@[simp] theorem setPress_power (k : Nat) (x : Press) : (setPress k x s).power = s.power := rfl
@[simp] theorem setPress_errors (k : Nat) (x : Press) : (setPress k x s).errors = s.errors := rfl
@[simp] theorem setPress_racking (k : Nat) (x : Press) : (setPress k x s).racking = s.racking := rfl
@[simp] theorem setPress_cm (k : Nat) (x : Press) : (setPress k x s).cm = s.cm := rfl
@[simp] theorem setPress_mgmt (k : Nat) (x : Press) : (setPress k x s).mgmt = s.mgmt := rfl
@[simp] theorem setPress_pmu (k : Nat) (x : Press) : (setPress k x s).pmu = s.pmu := rfl
@[simp] theorem setPress_freeCount (k : Nat) (x : Press) : (setPress k x s).freeCount = s.freeCount := rfl
@[simp] theorem setPress_serial (k : Nat) (x : Press) : (setPress k x s).serial = s.serial := rfl

/-! ### setReplica -/

@[simp] theorem setReplica_pending (k : Nat) (x : Replica) : (setReplica k x s).pending = s.pending := rfl
@[simp] theorem setReplica_regs (k : Nat) (x : Replica) : (setReplica k x s).regs = s.regs := rfl
@[simp] theorem setReplica_pairHeld (k : Nat) (x : Replica) : (setReplica k x s).pairHeld = s.pairHeld := rfl
@[simp] theorem setReplica_pairCap (k : Nat) (x : Replica) : (setReplica k x s).pairCap = s.pairCap := rfl
@[simp] theorem setReplica_rdata (k : Nat) (x : Replica) : (setReplica k x s).rdata = s.rdata := rfl
@[simp] theorem setReplica_chans (k : Nat) (x : Replica) : (setReplica k x s).chans = s.chans := rfl
@[simp] theorem setReplica_rings (k : Nat) (x : Replica) : (setReplica k x s).rings = s.rings := rfl
@[simp] theorem setReplica_book (k : Nat) (x : Replica) : (setReplica k x s).book = s.book := rfl
@[simp] theorem setReplica_cellar (k : Nat) (x : Replica) : (setReplica k x s).cellar = s.cellar := rfl
@[simp] theorem setReplica_rows (k : Nat) (x : Replica) : (setReplica k x s).rows = s.rows := rfl
@[simp] theorem setReplica_ports (k : Nat) (x : Replica) : (setReplica k x s).ports = s.ports := rfl
@[simp] theorem setReplica_presses (k : Nat) (x : Replica) : (setReplica k x s).presses = s.presses := rfl
@[simp] theorem setReplica_replicas (k : Nat) (x : Replica) : (setReplica k x s).replicas = mputD {} k x s.replicas := rfl
@[simp] theorem setReplica_replicasOld (k : Nat) (x : Replica) : (setReplica k x s).replicasOld = mput k (replicaSeen k s) s.replicasOld := rfl
@[simp] theorem setReplica_engine (k : Nat) (x : Replica) : (setReplica k x s).engine = s.engine := rfl
@[simp] theorem setReplica_fabric (k : Nat) (x : Replica) : (setReplica k x s).fabric = s.fabric := rfl
@[simp] theorem setReplica_funcs (k : Nat) (x : Replica) : (setReplica k x s).funcs = s.funcs := rfl
@[simp] theorem setReplica_events (k : Nat) (x : Replica) : (setReplica k x s).events = s.events := rfl
@[simp] theorem setReplica_time (k : Nat) (x : Replica) : (setReplica k x s).time = s.time := rfl
@[simp] theorem setReplica_cvTest (k : Nat) (x : Replica) : (setReplica k x s).cvTest = s.cvTest := rfl
@[simp] theorem setReplica_aux (k : Nat) (x : Replica) : (setReplica k x s).aux = s.aux := rfl
@[simp] theorem setReplica_power (k : Nat) (x : Replica) : (setReplica k x s).power = s.power := rfl
@[simp] theorem setReplica_errors (k : Nat) (x : Replica) : (setReplica k x s).errors = s.errors := rfl
@[simp] theorem setReplica_racking (k : Nat) (x : Replica) : (setReplica k x s).racking = s.racking := rfl
@[simp] theorem setReplica_cm (k : Nat) (x : Replica) : (setReplica k x s).cm = s.cm := rfl
@[simp] theorem setReplica_mgmt (k : Nat) (x : Replica) : (setReplica k x s).mgmt = s.mgmt := rfl
@[simp] theorem setReplica_pmu (k : Nat) (x : Replica) : (setReplica k x s).pmu = s.pmu := rfl
@[simp] theorem setReplica_freeCount (k : Nat) (x : Replica) : (setReplica k x s).freeCount = s.freeCount := rfl
@[simp] theorem setReplica_serial (k : Nat) (x : Replica) : (setReplica k x s).serial = s.serial := rfl

/-! ### setFunc -/

@[simp] theorem setFunc_pending (f : Nat) (x : Func) : (setFunc f x s).pending = s.pending := rfl
@[simp] theorem setFunc_regs (f : Nat) (x : Func) : (setFunc f x s).regs = s.regs := rfl
@[simp] theorem setFunc_pairHeld (f : Nat) (x : Func) : (setFunc f x s).pairHeld = s.pairHeld := rfl
@[simp] theorem setFunc_pairCap (f : Nat) (x : Func) : (setFunc f x s).pairCap = s.pairCap := rfl
@[simp] theorem setFunc_rdata (f : Nat) (x : Func) : (setFunc f x s).rdata = s.rdata := rfl
@[simp] theorem setFunc_chans (f : Nat) (x : Func) : (setFunc f x s).chans = s.chans := rfl
@[simp] theorem setFunc_rings (f : Nat) (x : Func) : (setFunc f x s).rings = s.rings := rfl
@[simp] theorem setFunc_book (f : Nat) (x : Func) : (setFunc f x s).book = s.book := rfl
@[simp] theorem setFunc_cellar (f : Nat) (x : Func) : (setFunc f x s).cellar = s.cellar := rfl
@[simp] theorem setFunc_rows (f : Nat) (x : Func) : (setFunc f x s).rows = s.rows := rfl
@[simp] theorem setFunc_ports (f : Nat) (x : Func) : (setFunc f x s).ports = s.ports := rfl
@[simp] theorem setFunc_presses (f : Nat) (x : Func) : (setFunc f x s).presses = s.presses := rfl
@[simp] theorem setFunc_replicas (f : Nat) (x : Func) : (setFunc f x s).replicas = s.replicas := rfl
@[simp] theorem setFunc_replicasOld (f : Nat) (x : Func) : (setFunc f x s).replicasOld = s.replicasOld := rfl
@[simp] theorem setFunc_engine (f : Nat) (x : Func) : (setFunc f x s).engine = s.engine := rfl
@[simp] theorem setFunc_fabric (f : Nat) (x : Func) : (setFunc f x s).fabric = s.fabric := rfl
@[simp] theorem setFunc_funcs (f : Nat) (x : Func) : (setFunc f x s).funcs = mputD {} f x s.funcs := rfl
@[simp] theorem setFunc_events (f : Nat) (x : Func) : (setFunc f x s).events = s.events := rfl
@[simp] theorem setFunc_time (f : Nat) (x : Func) : (setFunc f x s).time = s.time := rfl
@[simp] theorem setFunc_cvTest (f : Nat) (x : Func) : (setFunc f x s).cvTest = s.cvTest := rfl
@[simp] theorem setFunc_aux (f : Nat) (x : Func) : (setFunc f x s).aux = s.aux := rfl
@[simp] theorem setFunc_power (f : Nat) (x : Func) : (setFunc f x s).power = s.power := rfl
@[simp] theorem setFunc_errors (f : Nat) (x : Func) : (setFunc f x s).errors = s.errors := rfl
@[simp] theorem setFunc_racking (f : Nat) (x : Func) : (setFunc f x s).racking = s.racking := rfl
@[simp] theorem setFunc_cm (f : Nat) (x : Func) : (setFunc f x s).cm = s.cm := rfl
@[simp] theorem setFunc_mgmt (f : Nat) (x : Func) : (setFunc f x s).mgmt = s.mgmt := rfl
@[simp] theorem setFunc_pmu (f : Nat) (x : Func) : (setFunc f x s).pmu = s.pmu := rfl
@[simp] theorem setFunc_freeCount (f : Nat) (x : Func) : (setFunc f x s).freeCount = s.freeCount := rfl
@[simp] theorem setFunc_serial (f : Nat) (x : Func) : (setFunc f x s).serial = s.serial := rfl

/-! ### setCounter -/

@[simp] theorem setCounter_pending (n : Nat) (x : Counter) : (setCounter n x s).pending = s.pending := rfl
@[simp] theorem setCounter_regs (n : Nat) (x : Counter) : (setCounter n x s).regs = s.regs := rfl
@[simp] theorem setCounter_pairHeld (n : Nat) (x : Counter) : (setCounter n x s).pairHeld = s.pairHeld := rfl
@[simp] theorem setCounter_pairCap (n : Nat) (x : Counter) : (setCounter n x s).pairCap = s.pairCap := rfl
@[simp] theorem setCounter_rdata (n : Nat) (x : Counter) : (setCounter n x s).rdata = s.rdata := rfl
@[simp] theorem setCounter_chans (n : Nat) (x : Counter) : (setCounter n x s).chans = s.chans := rfl
@[simp] theorem setCounter_rings (n : Nat) (x : Counter) : (setCounter n x s).rings = s.rings := rfl
@[simp] theorem setCounter_book (n : Nat) (x : Counter) : (setCounter n x s).book = s.book := rfl
@[simp] theorem setCounter_cellar (n : Nat) (x : Counter) : (setCounter n x s).cellar = s.cellar := rfl
@[simp] theorem setCounter_rows (n : Nat) (x : Counter) : (setCounter n x s).rows = s.rows := rfl
@[simp] theorem setCounter_ports (n : Nat) (x : Counter) : (setCounter n x s).ports = s.ports := rfl
@[simp] theorem setCounter_presses (n : Nat) (x : Counter) : (setCounter n x s).presses = s.presses := rfl
@[simp] theorem setCounter_replicas (n : Nat) (x : Counter) : (setCounter n x s).replicas = s.replicas := rfl
@[simp] theorem setCounter_replicasOld (n : Nat) (x : Counter) : (setCounter n x s).replicasOld = s.replicasOld := rfl
@[simp] theorem setCounter_engine (n : Nat) (x : Counter) : (setCounter n x s).engine = s.engine := rfl
@[simp] theorem setCounter_fabric (n : Nat) (x : Counter) : (setCounter n x s).fabric = s.fabric := rfl
@[simp] theorem setCounter_funcs (n : Nat) (x : Counter) : (setCounter n x s).funcs = s.funcs := rfl
@[simp] theorem setCounter_events (n : Nat) (x : Counter) : (setCounter n x s).events = s.events := rfl
@[simp] theorem setCounter_time (n : Nat) (x : Counter) : (setCounter n x s).time = s.time := rfl
@[simp] theorem setCounter_cvTest (n : Nat) (x : Counter) : (setCounter n x s).cvTest = s.cvTest := rfl
@[simp] theorem setCounter_aux (n : Nat) (x : Counter) : (setCounter n x s).aux = s.aux := rfl
@[simp] theorem setCounter_power (n : Nat) (x : Counter) : (setCounter n x s).power = s.power := rfl
@[simp] theorem setCounter_errors (n : Nat) (x : Counter) : (setCounter n x s).errors = s.errors := rfl
@[simp] theorem setCounter_racking (n : Nat) (x : Counter) : (setCounter n x s).racking = s.racking := rfl
@[simp] theorem setCounter_cm (n : Nat) (x : Counter) : (setCounter n x s).cm = s.cm := rfl
@[simp] theorem setCounter_mgmt (n : Nat) (x : Counter) : (setCounter n x s).mgmt = s.mgmt := rfl
@[simp] theorem setCounter_pmu (n : Nat) (x : Counter) : (setCounter n x s).pmu = { s.pmu.keepEdge with counters := mputD {} n x s.pmu.counters } := rfl
@[simp] theorem setCounter_freeCount (n : Nat) (x : Counter) : (setCounter n x s).freeCount = s.freeCount := rfl
@[simp] theorem setCounter_serial (n : Nat) (x : Counter) : (setCounter n x s).serial = s.serial := rfl

/-! ### fset -/

@[simp] theorem fset_pending (f : Fld) (v : Nat) : (fset f v s).pending = s.pending := rfl
@[simp] theorem fset_pairHeld (f : Fld) (v : Nat) : (fset f v s).pairHeld = s.pairHeld := rfl
@[simp] theorem fset_pairCap (f : Fld) (v : Nat) : (fset f v s).pairCap = s.pairCap := rfl
@[simp] theorem fset_rdata (f : Fld) (v : Nat) : (fset f v s).rdata = s.rdata := rfl
@[simp] theorem fset_chans (f : Fld) (v : Nat) : (fset f v s).chans = s.chans := rfl
@[simp] theorem fset_rings (f : Fld) (v : Nat) : (fset f v s).rings = s.rings := rfl
@[simp] theorem fset_book (f : Fld) (v : Nat) : (fset f v s).book = s.book := rfl
@[simp] theorem fset_cellar (f : Fld) (v : Nat) : (fset f v s).cellar = s.cellar := rfl
@[simp] theorem fset_rows (f : Fld) (v : Nat) : (fset f v s).rows = s.rows := rfl
@[simp] theorem fset_ports (f : Fld) (v : Nat) : (fset f v s).ports = s.ports := rfl
@[simp] theorem fset_presses (f : Fld) (v : Nat) : (fset f v s).presses = s.presses := rfl
@[simp] theorem fset_replicas (f : Fld) (v : Nat) : (fset f v s).replicas = s.replicas := rfl
@[simp] theorem fset_replicasOld (f : Fld) (v : Nat) : (fset f v s).replicasOld = s.replicasOld := rfl
@[simp] theorem fset_engine (f : Fld) (v : Nat) : (fset f v s).engine = s.engine := rfl
@[simp] theorem fset_fabric (f : Fld) (v : Nat) : (fset f v s).fabric = s.fabric := rfl
@[simp] theorem fset_funcs (f : Fld) (v : Nat) : (fset f v s).funcs = s.funcs := rfl
@[simp] theorem fset_events (f : Fld) (v : Nat) : (fset f v s).events = s.events := rfl
@[simp] theorem fset_time (f : Fld) (v : Nat) : (fset f v s).time = s.time := rfl
@[simp] theorem fset_cvTest (f : Fld) (v : Nat) : (fset f v s).cvTest = s.cvTest := rfl
@[simp] theorem fset_aux (f : Fld) (v : Nat) : (fset f v s).aux = s.aux := rfl
@[simp] theorem fset_power (f : Fld) (v : Nat) : (fset f v s).power = s.power := rfl
@[simp] theorem fset_errors (f : Fld) (v : Nat) : (fset f v s).errors = s.errors := rfl
@[simp] theorem fset_racking (f : Fld) (v : Nat) : (fset f v s).racking = s.racking := rfl
@[simp] theorem fset_cm (f : Fld) (v : Nat) : (fset f v s).cm = s.cm := rfl
@[simp] theorem fset_mgmt (f : Fld) (v : Nat) : (fset f v s).mgmt = s.mgmt := rfl
@[simp] theorem fset_pmu (f : Fld) (v : Nat) : (fset f v s).pmu = s.pmu := rfl
@[simp] theorem fset_freeCount (f : Fld) (v : Nat) : (fset f v s).freeCount = s.freeCount := rfl
@[simp] theorem fset_serial (f : Fld) (v : Nat) : (fset f v s).serial = s.serial := rfl

/-! ### Accessors after setters -/

@[simp] theorem chan_setChan (n : Nat) (v : Chan) (h : msorted s.chans = true) : chan n (setChan n v s) = v :=
  mgetD_mputD_self h

theorem chan_setChan_other (n m : Nat) (v : Chan) (h : m ≠ n) : chan m (setChan n v s) = chan m s := mgetD_mputD_ne h

@[simp] theorem chan_modChan (n : Nat) (f : Chan → Chan) (h : msorted s.chans = true) :
    chan n (modChan n f s) = f (chan n s) := mgetD_mputD_self h

theorem chan_modChan_other (n m : Nat) (f : Chan → Chan) (h : m ≠ n) : chan m (modChan n f s) = chan m s := mgetD_mputD_ne h

@[simp] theorem ring_setRing (n : Nat) (v : Ring) (h : msorted s.rings = true) : ring n (setRing n v s) = v :=
  mgetD_mputD_self h

theorem ring_setRing_other (n m : Nat) (v : Ring) (h : m ≠ n) : ring m (setRing n v s) = ring m s := mgetD_mputD_ne h

@[simp] theorem ring_modRing (n : Nat) (f : Ring → Ring) (h : msorted s.rings = true) :
    ring n (modRing n f s) = f (ring n s) := mgetD_mputD_self h

theorem ring_modRing_other (n m : Nat) (f : Ring → Ring) (h : m ≠ n) : ring m (modRing n f s) = ring m s := mgetD_mputD_ne h

@[simp] theorem row_setRow (n : Nat) (v : Row) (h : msorted s.rows = true) : row n (setRow n v s) = v :=
  mgetD_mputD_self h

theorem row_setRow_other (n m : Nat) (v : Row) (h : m ≠ n) : row m (setRow n v s) = row m s := mgetD_mputD_ne h

@[simp] theorem row_modRow (n : Nat) (f : Row → Row) (h : msorted s.rows = true) :
    row n (modRow n f s) = f (row n s) := mgetD_mputD_self h

theorem row_modRow_other (n m : Nat) (f : Row → Row) (h : m ≠ n) : row m (modRow n f s) = row m s := mgetD_mputD_ne h

@[simp] theorem port_setPort (n : Nat) (v : Port) (h : msorted s.ports = true) : port n (setPort n v s) = v :=
  mgetD_mputD_self h

theorem port_setPort_other (n m : Nat) (v : Port) (h : m ≠ n) : port m (setPort n v s) = port m s := mgetD_mputD_ne h

@[simp] theorem port_modPort (n : Nat) (f : Port → Port) (h : msorted s.ports = true) :
    port n (modPort n f s) = f (port n s) := mgetD_mputD_self h

theorem port_modPort_other (n m : Nat) (f : Port → Port) (h : m ≠ n) : port m (modPort n f s) = port m s := mgetD_mputD_ne h

@[simp] theorem press_setPress (n : Nat) (v : Press) (h : msorted s.presses = true) : press n (setPress n v s) = v :=
  mgetD_mputD_self h

theorem press_setPress_other (n m : Nat) (v : Press) (h : m ≠ n) : press m (setPress n v s) = press m s := mgetD_mputD_ne h

@[simp] theorem press_modPress (n : Nat) (f : Press → Press) (h : msorted s.presses = true) :
    press n (modPress n f s) = f (press n s) := mgetD_mputD_self h

theorem press_modPress_other (n m : Nat) (f : Press → Press) (h : m ≠ n) : press m (modPress n f s) = press m s := mgetD_mputD_ne h

@[simp] theorem replica_setReplica (n : Nat) (v : Replica) (h : msorted s.replicas = true) : replica n (setReplica n v s) = v :=
  mgetD_mputD_self h

theorem replica_setReplica_other (n m : Nat) (v : Replica) (h : m ≠ n) : replica m (setReplica n v s) = replica m s := mgetD_mputD_ne h

@[simp] theorem replica_modReplica (n : Nat) (f : Replica → Replica) (h : msorted s.replicas = true) :
    replica n (modReplica n f s) = f (replica n s) := mgetD_mputD_self h

theorem replica_modReplica_other (n m : Nat) (f : Replica → Replica) (h : m ≠ n) : replica m (modReplica n f s) = replica m s := mgetD_mputD_ne h

@[simp] theorem func_setFunc (n : Nat) (v : Func) (h : msorted s.funcs = true) : func n (setFunc n v s) = v :=
  mgetD_mputD_self h

theorem func_setFunc_other (n m : Nat) (v : Func) (h : m ≠ n) : func m (setFunc n v s) = func m s := mgetD_mputD_ne h

@[simp] theorem func_modFunc (n : Nat) (f : Func → Func) (h : msorted s.funcs = true) :
    func n (modFunc n f s) = f (func n s) := mgetD_mputD_self h

theorem func_modFunc_other (n m : Nat) (f : Func → Func) (h : m ≠ n) : func m (modFunc n f s) = func m s := mgetD_mputD_ne h

@[simp] theorem counter_setCounter (n : Nat) (v : Counter) (h : msorted s.pmu.counters = true) : counter n (setCounter n v s) = v :=
  mgetD_mputD_self h

theorem counter_setCounter_other (n m : Nat) (v : Counter) (h : m ≠ n) : counter m (setCounter n v s) = counter m s := mgetD_mputD_ne h

@[simp] theorem chan_setReg (i : Nat) (r : Reg) (w : Word) : chan i (setReg r w s) = chan i s := rfl
@[simp] theorem chan_setRing (i : Nat) (n : Nat) (x : Ring) : chan i (setRing n x s) = chan i s := rfl
@[simp] theorem chan_setRow (i : Nat) (r : Nat) (x : Row) : chan i (setRow r x s) = chan i s := rfl
@[simp] theorem chan_setPort (i : Nat) (g : Nat) (x : Port) : chan i (setPort g x s) = chan i s := rfl
@[simp] theorem chan_setPress (i : Nat) (k : Nat) (x : Press) : chan i (setPress k x s) = chan i s := rfl
@[simp] theorem chan_setReplica (i : Nat) (k : Nat) (x : Replica) : chan i (setReplica k x s) = chan i s := rfl
@[simp] theorem chan_setFunc (i : Nat) (f : Nat) (x : Func) : chan i (setFunc f x s) = chan i s := rfl
@[simp] theorem chan_setCounter (i : Nat) (n : Nat) (x : Counter) : chan i (setCounter n x s) = chan i s := rfl
@[simp] theorem chan_fset (i : Nat) (f : Fld) (v : Nat) : chan i (fset f v s) = chan i s := rfl

@[simp] theorem ring_setReg (i : Nat) (r : Reg) (w : Word) : ring i (setReg r w s) = ring i s := rfl
@[simp] theorem ring_setChan (i : Nat) (c : Nat) (x : Chan) : ring i (setChan c x s) = ring i s := rfl
@[simp] theorem ring_setRow (i : Nat) (r : Nat) (x : Row) : ring i (setRow r x s) = ring i s := rfl
@[simp] theorem ring_setPort (i : Nat) (g : Nat) (x : Port) : ring i (setPort g x s) = ring i s := rfl
@[simp] theorem ring_setPress (i : Nat) (k : Nat) (x : Press) : ring i (setPress k x s) = ring i s := rfl
@[simp] theorem ring_setReplica (i : Nat) (k : Nat) (x : Replica) : ring i (setReplica k x s) = ring i s := rfl
@[simp] theorem ring_setFunc (i : Nat) (f : Nat) (x : Func) : ring i (setFunc f x s) = ring i s := rfl
@[simp] theorem ring_setCounter (i : Nat) (n : Nat) (x : Counter) : ring i (setCounter n x s) = ring i s := rfl
@[simp] theorem ring_fset (i : Nat) (f : Fld) (v : Nat) : ring i (fset f v s) = ring i s := rfl

@[simp] theorem row_setReg (i : Nat) (r : Reg) (w : Word) : row i (setReg r w s) = row i s := rfl
@[simp] theorem row_setChan (i : Nat) (c : Nat) (x : Chan) : row i (setChan c x s) = row i s := rfl
@[simp] theorem row_setRing (i : Nat) (n : Nat) (x : Ring) : row i (setRing n x s) = row i s := rfl
@[simp] theorem row_setPort (i : Nat) (g : Nat) (x : Port) : row i (setPort g x s) = row i s := rfl
@[simp] theorem row_setPress (i : Nat) (k : Nat) (x : Press) : row i (setPress k x s) = row i s := rfl
@[simp] theorem row_setReplica (i : Nat) (k : Nat) (x : Replica) : row i (setReplica k x s) = row i s := rfl
@[simp] theorem row_setFunc (i : Nat) (f : Nat) (x : Func) : row i (setFunc f x s) = row i s := rfl
@[simp] theorem row_setCounter (i : Nat) (n : Nat) (x : Counter) : row i (setCounter n x s) = row i s := rfl
@[simp] theorem row_fset (i : Nat) (f : Fld) (v : Nat) : row i (fset f v s) = row i s := rfl

@[simp] theorem port_setReg (i : Nat) (r : Reg) (w : Word) : port i (setReg r w s) = port i s := rfl
@[simp] theorem port_setChan (i : Nat) (c : Nat) (x : Chan) : port i (setChan c x s) = port i s := rfl
@[simp] theorem port_setRing (i : Nat) (n : Nat) (x : Ring) : port i (setRing n x s) = port i s := rfl
@[simp] theorem port_setRow (i : Nat) (r : Nat) (x : Row) : port i (setRow r x s) = port i s := rfl
@[simp] theorem port_setPress (i : Nat) (k : Nat) (x : Press) : port i (setPress k x s) = port i s := rfl
@[simp] theorem port_setReplica (i : Nat) (k : Nat) (x : Replica) : port i (setReplica k x s) = port i s := rfl
@[simp] theorem port_setFunc (i : Nat) (f : Nat) (x : Func) : port i (setFunc f x s) = port i s := rfl
@[simp] theorem port_setCounter (i : Nat) (n : Nat) (x : Counter) : port i (setCounter n x s) = port i s := rfl
@[simp] theorem port_fset (i : Nat) (f : Fld) (v : Nat) : port i (fset f v s) = port i s := rfl

@[simp] theorem press_setReg (i : Nat) (r : Reg) (w : Word) : press i (setReg r w s) = press i s := rfl
@[simp] theorem press_setChan (i : Nat) (c : Nat) (x : Chan) : press i (setChan c x s) = press i s := rfl
@[simp] theorem press_setRing (i : Nat) (n : Nat) (x : Ring) : press i (setRing n x s) = press i s := rfl
@[simp] theorem press_setRow (i : Nat) (r : Nat) (x : Row) : press i (setRow r x s) = press i s := rfl
@[simp] theorem press_setPort (i : Nat) (g : Nat) (x : Port) : press i (setPort g x s) = press i s := rfl
@[simp] theorem press_setReplica (i : Nat) (k : Nat) (x : Replica) : press i (setReplica k x s) = press i s := rfl
@[simp] theorem press_setFunc (i : Nat) (f : Nat) (x : Func) : press i (setFunc f x s) = press i s := rfl
@[simp] theorem press_setCounter (i : Nat) (n : Nat) (x : Counter) : press i (setCounter n x s) = press i s := rfl
@[simp] theorem press_fset (i : Nat) (f : Fld) (v : Nat) : press i (fset f v s) = press i s := rfl

@[simp] theorem replica_setReg (i : Nat) (r : Reg) (w : Word) : replica i (setReg r w s) = replica i s := rfl
@[simp] theorem replica_setChan (i : Nat) (c : Nat) (x : Chan) : replica i (setChan c x s) = replica i s := rfl
@[simp] theorem replica_setRing (i : Nat) (n : Nat) (x : Ring) : replica i (setRing n x s) = replica i s := rfl
@[simp] theorem replica_setRow (i : Nat) (r : Nat) (x : Row) : replica i (setRow r x s) = replica i s := rfl
@[simp] theorem replica_setPort (i : Nat) (g : Nat) (x : Port) : replica i (setPort g x s) = replica i s := rfl
@[simp] theorem replica_setPress (i : Nat) (k : Nat) (x : Press) : replica i (setPress k x s) = replica i s := rfl
@[simp] theorem replica_setFunc (i : Nat) (f : Nat) (x : Func) : replica i (setFunc f x s) = replica i s := rfl
@[simp] theorem replica_setCounter (i : Nat) (n : Nat) (x : Counter) : replica i (setCounter n x s) = replica i s := rfl
@[simp] theorem replica_fset (i : Nat) (f : Fld) (v : Nat) : replica i (fset f v s) = replica i s := rfl

@[simp] theorem func_setReg (i : Nat) (r : Reg) (w : Word) : func i (setReg r w s) = func i s := rfl
@[simp] theorem func_setChan (i : Nat) (c : Nat) (x : Chan) : func i (setChan c x s) = func i s := rfl
@[simp] theorem func_setRing (i : Nat) (n : Nat) (x : Ring) : func i (setRing n x s) = func i s := rfl
@[simp] theorem func_setRow (i : Nat) (r : Nat) (x : Row) : func i (setRow r x s) = func i s := rfl
@[simp] theorem func_setPort (i : Nat) (g : Nat) (x : Port) : func i (setPort g x s) = func i s := rfl
@[simp] theorem func_setPress (i : Nat) (k : Nat) (x : Press) : func i (setPress k x s) = func i s := rfl
@[simp] theorem func_setReplica (i : Nat) (k : Nat) (x : Replica) : func i (setReplica k x s) = func i s := rfl
@[simp] theorem func_setCounter (i : Nat) (n : Nat) (x : Counter) : func i (setCounter n x s) = func i s := rfl
@[simp] theorem func_fset (i : Nat) (f : Fld) (v : Nat) : func i (fset f v s) = func i s := rfl

@[simp] theorem counter_setReg (i : Nat) (r : Reg) (w : Word) : counter i (setReg r w s) = counter i s := rfl
@[simp] theorem counter_setChan (i : Nat) (c : Nat) (x : Chan) : counter i (setChan c x s) = counter i s := rfl
@[simp] theorem counter_setRing (i : Nat) (n : Nat) (x : Ring) : counter i (setRing n x s) = counter i s := rfl
@[simp] theorem counter_setRow (i : Nat) (r : Nat) (x : Row) : counter i (setRow r x s) = counter i s := rfl
@[simp] theorem counter_setPort (i : Nat) (g : Nat) (x : Port) : counter i (setPort g x s) = counter i s := rfl
@[simp] theorem counter_setPress (i : Nat) (k : Nat) (x : Press) : counter i (setPress k x s) = counter i s := rfl
@[simp] theorem counter_setReplica (i : Nat) (k : Nat) (x : Replica) : counter i (setReplica k x s) = counter i s := rfl
@[simp] theorem counter_setFunc (i : Nat) (f : Nat) (x : Func) : counter i (setFunc f x s) = counter i s := rfl
@[simp] theorem counter_fset (i : Nat) (f : Fld) (v : Nat) : counter i (fset f v s) = counter i s := rfl

/-! ### Registers -/

@[simp] theorem regW_setChan (q : Reg) (c : Nat) (x : Chan) : regW q (setChan c x s) = regW q s := rfl
@[simp] theorem fget_setChan (q : Fld) (c : Nat) (x : Chan) : fget q (setChan c x s) = fget q s := rfl
@[simp] theorem regW_setRing (q : Reg) (n : Nat) (x : Ring) : regW q (setRing n x s) = regW q s := rfl
@[simp] theorem fget_setRing (q : Fld) (n : Nat) (x : Ring) : fget q (setRing n x s) = fget q s := rfl
@[simp] theorem regW_setRow (q : Reg) (r : Nat) (x : Row) : regW q (setRow r x s) = regW q s := rfl
@[simp] theorem fget_setRow (q : Fld) (r : Nat) (x : Row) : fget q (setRow r x s) = fget q s := rfl
@[simp] theorem regW_setPort (q : Reg) (g : Nat) (x : Port) : regW q (setPort g x s) = regW q s := rfl
@[simp] theorem fget_setPort (q : Fld) (g : Nat) (x : Port) : fget q (setPort g x s) = fget q s := rfl
@[simp] theorem regW_setPress (q : Reg) (k : Nat) (x : Press) : regW q (setPress k x s) = regW q s := rfl
@[simp] theorem fget_setPress (q : Fld) (k : Nat) (x : Press) : fget q (setPress k x s) = fget q s := rfl
@[simp] theorem regW_setReplica (q : Reg) (k : Nat) (x : Replica) : regW q (setReplica k x s) = regW q s := rfl
@[simp] theorem fget_setReplica (q : Fld) (k : Nat) (x : Replica) : fget q (setReplica k x s) = fget q s := rfl
@[simp] theorem regW_setFunc (q : Reg) (f : Nat) (x : Func) : regW q (setFunc f x s) = regW q s := rfl
@[simp] theorem fget_setFunc (q : Fld) (f : Nat) (x : Func) : fget q (setFunc f x s) = fget q s := rfl
@[simp] theorem regW_setCounter (q : Reg) (n : Nat) (x : Counter) : regW q (setCounter n x s) = regW q s := rfl
@[simp] theorem fget_setCounter (q : Fld) (n : Nat) (x : Counter) : fget q (setCounter n x s) = fget q s := rfl

@[simp] theorem regW_setReg (r : Reg) (w : Word) (h : msorted s.regs = true) : regW r (setReg r w s) = w :=
  mgetD_mputD_self h

theorem regW_setReg_ne (q r : Reg) (w : Word) (h : q.off ≠ r.off) : regW q (setReg r w s) = regW q s :=
  mgetD_mputD_ne h

theorem fget_setReg (f : Fld) (w : Word) (h : msorted s.regs = true) : fget f (setReg f.reg w s) = f.read w := by
  simp [fget, h]

theorem fget_fset_ne (f g : Fld) (v : Nat) (h : g.reg.off ≠ f.reg.off) : fget g (fset f v s) = fget g s := by
  rw [fget, fset, regW_setReg_ne _ _ _ _ h, fget]

/-- A register word taken apart at a field. -/
theorem Fld.toNat_write (f : Fld) (v : Nat) (w : Word) (h : f.lo ≤ f.hi) (h' : f.hi < 32) :
    (f.write v w).toNat =
      w.toNat / 2 ^ (f.hi + 1) * 2 ^ (f.hi + 1) + v % 2 ^ (f.hi + 1 - f.lo) * 2 ^ f.lo + w.toNat % 2 ^ f.lo := by
  obtain ⟨n, hn⟩ : ∃ n, f.hi + 1 = f.lo + n := ⟨f.hi + 1 - f.lo, by omega⟩
  have hk : f.hi + 1 - f.lo = n := by omega
  have hw := w.isLt
  have h1 := Nat.div_add_mod w.toNat (2 ^ f.lo)
  have h2 := Nat.div_add_mod (w.toNat / 2 ^ f.lo) (2 ^ n)
  have h3 : w.toNat / 2 ^ f.lo / 2 ^ n = w.toNat / 2 ^ (f.lo + n) := by rw [Nat.pow_add, Nat.div_div_eq_div_mul]
  have hp : 2 ^ (f.lo + n) = 2 ^ f.lo * 2 ^ n := Nat.pow_add ..
  have hr : v % 2 ^ n < 2 ^ n := Nat.mod_lt _ (Nat.two_pow_pos n)
  obtain ⟨m, hm⟩ : ∃ m, 32 = f.lo + n + m := ⟨32 - (f.lo + n), by omega⟩
  have h32 : (2 : Nat) ^ 32 = 2 ^ f.lo * 2 ^ n * 2 ^ m := by rw [hm, Nat.pow_add, Nat.pow_add]
  have hl : w.toNat % 2 ^ f.lo < 2 ^ f.lo := Nat.mod_lt _ (Nat.two_pow_pos _)
  rw [h3] at h2
  have hH : w.toNat / 2 ^ (f.lo + n) < 2 ^ m := by
    rw [Nat.div_lt_iff_lt_mul (Nat.two_pow_pos _), hp, Nat.mul_comm, ← h32]; exact hw
  simp only [Fld.write, Fld.read, bits, BitVec.toNat_ofNat, hn, Nat.add_sub_cancel_left]
  generalize w.toNat / 2 ^ (f.lo + n) = H at *
  generalize hR : w.toNat / 2 ^ f.lo % 2 ^ n = R at *
  generalize w.toNat % 2 ^ f.lo = L at *
  generalize v % 2 ^ n = V at *
  have hL : w.toNat = H * 2 ^ (f.lo + n) + R * 2 ^ f.lo + L := by
    rw [← h1, ← h2, hp, Nat.mul_add, ← Nat.mul_assoc]
    rw [Nat.mul_comm (2 ^ f.lo * 2 ^ n), Nat.mul_comm R]
  have he : w.toNat - R * 2 ^ f.lo + V * 2 ^ f.lo = H * 2 ^ (f.lo + n) + V * 2 ^ f.lo + L := by
    rw [hL]; omega
  rw [he]
  apply Nat.mod_eq_of_lt
  rw [h32, hp]
  have a1 : H + 1 ≤ 2 ^ m := hH
  have a2 : V + 1 ≤ 2 ^ n := hr
  have a3 : 2 ^ f.lo * 2 ^ n * (H + 1) ≤ 2 ^ f.lo * 2 ^ n * 2 ^ m := Nat.mul_le_mul_left _ a1
  have a4 : 2 ^ f.lo * (V + 1) ≤ 2 ^ f.lo * 2 ^ n := Nat.mul_le_mul_left _ a2
  rw [Nat.mul_add, Nat.mul_one] at a3 a4
  rw [Nat.mul_comm H, Nat.mul_comm V]
  omega

/-- The written field reads the value, cut to its width. -/
theorem Fld.read_write (f : Fld) (v : Nat) (w : Word) (h : f.lo ≤ f.hi) (h' : f.hi < 32) :
    f.read (f.write v w) = v % 2 ^ (f.hi + 1 - f.lo) := by
  have e := f.toNat_write v w h h'
  obtain ⟨n, hn⟩ : ∃ n, f.hi + 1 = f.lo + n := ⟨f.hi + 1 - f.lo, by omega⟩
  have hp : 2 ^ (f.lo + n) = 2 ^ f.lo * 2 ^ n := Nat.pow_add ..
  have hl : w.toNat % 2 ^ f.lo < 2 ^ f.lo := Nat.mod_lt _ (Nat.two_pow_pos _)
  simp only [Fld.read, bits]
  rw [e, hn, Nat.add_sub_cancel_left, hp]
  have : w.toNat / (2 ^ f.lo * 2 ^ n) * (2 ^ f.lo * 2 ^ n) + v % 2 ^ n * 2 ^ f.lo + w.toNat % 2 ^ f.lo
      = w.toNat % 2 ^ f.lo + 2 ^ f.lo * (v % 2 ^ n + 2 ^ n * (w.toNat / (2 ^ f.lo * 2 ^ n))) := by
    rw [Nat.mul_add, ← Nat.mul_assoc (2 ^ f.lo), Nat.mul_comm (v % 2 ^ n), Nat.mul_comm (w.toNat / _)]; omega
  rw [this, Nat.add_mul_div_left _ _ (Nat.two_pow_pos _), Nat.div_eq_of_lt hl, Nat.zero_add,
    Nat.add_mul_mod_self_left, Nat.mod_mod]

/-- A field that lies apart from the written one keeps its value. -/
theorem Fld.read_write_ne (f g : Fld) (v : Nat) (w : Word) (h : f.lo ≤ f.hi) (h' : f.hi < 32)
    (hg : g.hi < f.lo ∨ f.hi < g.lo) (hg' : g.lo ≤ g.hi) : g.read (f.write v w) = g.read w := by
  have e := f.toNat_write v w h h'
  have tb : ∀ i, i < f.lo ∨ f.hi < i → (f.write v w).toNat.testBit i = w.toNat.testBit i := by
    intro i hi
    rw [e]
    obtain ⟨n, hn⟩ : ∃ n, f.hi + 1 = f.lo + n := ⟨f.hi + 1 - f.lo, by omega⟩
    have hp : 2 ^ (f.lo + n) = 2 ^ f.lo * 2 ^ n := Nat.pow_add ..
    have hl : w.toNat % 2 ^ f.lo < 2 ^ f.lo := Nat.mod_lt _ (Nat.two_pow_pos _)
    rw [hn, Nat.add_sub_cancel_left]
    have hr : v % 2 ^ n < 2 ^ n := Nat.mod_lt _ (Nat.two_pow_pos n)
    have hv : v % 2 ^ n * 2 ^ f.lo + w.toNat % 2 ^ f.lo < 2 ^ (f.lo + n) := by
      have a4 : 2 ^ f.lo * (v % 2 ^ n + 1) ≤ 2 ^ f.lo * 2 ^ n := Nat.mul_le_mul_left _ hr
      rw [Nat.mul_add, Nat.mul_one, Nat.mul_comm] at a4
      rw [hp]; omega
    rw [Nat.add_assoc, Nat.mul_comm (w.toNat / _), Nat.testBit_two_pow_mul_add _ hv]
    split
    · rename_i hlt
      have : i < f.lo := by omega
      rw [Nat.mul_comm (v % _), Nat.testBit_two_pow_mul_add _ hl, if_pos this, Nat.testBit_mod_two_pow]
      simp [this]
    · rename_i hge
      rw [Nat.testBit_div_two_pow]
      congr 1; omega
  simp only [Fld.read, bits]
  apply Nat.eq_of_testBit_eq
  intro i
  rw [Nat.testBit_mod_two_pow, Nat.testBit_mod_two_pow, Nat.testBit_div_two_pow, Nat.testBit_div_two_pow]
  by_cases hi : i < g.hi + 1 - g.lo
  · rw [tb _ (by omega)]
  · simp [hi]

/-- Fields of one register that lie apart. -/
theorem fget_fset_apart (f g : Fld) (v : Nat) (hs : msorted s.regs = true) (e : g.reg = f.reg) (h : f.lo ≤ f.hi)
    (h' : f.hi < 32) (hg : g.hi < f.lo ∨ f.hi < g.lo) (hg' : g.lo ≤ g.hi) : fget g (fset f v s) = fget g s := by
  rw [fget, e, fset, regW_setReg _ _ _ hs, f.read_write_ne g _ _ h h' hg hg', fget, e]

theorem fget_fset (f : Fld) (v : Nat) (hs : msorted s.regs = true) (h : f.lo ≤ f.hi) (h' : f.hi < 32) :
    fget f (fset f v s) = v % 2 ^ (f.hi + 1 - f.lo) := by
  rw [fset, fget_setReg _ _ _ hs, f.read_write _ _ h h']

end Sys2Proof.Machine
end

