-- ==== Sys2Proof/Laws/Effects.lean ====
section
/-!
SUPPORT. What is read of a state of which only some parts have changed, and how a command's completion follows from
what its operation keeps.
-/

set_option Elab.async false

namespace Sys2Proof.Machine

variable {l : List Part} {s t u : State} {c : Instr} {Q : State → Prop}

/-! ### Reads of parts that are left -/

theorem ChangesOnly.regW_eq (h : ChangesOnly l s t) (hl : Part.regs ∉ l) {r : Reg} (hr : eventReg r.off = false) :
    regW r t = regW r s := by
  have e := h .regs hl r.off (by simp) hr
  simp only [regW, mgetD, e]

theorem ChangesOnly.fget_eq (h : ChangesOnly l s t) (hl : Part.regs ∉ l) {f : Fld} (hr : eventReg f.reg.off = false) :
    fget f t = fget f s := by
  rw [fget, h.regW_eq hl hr, fget]

theorem ChangesOnly.chan_eq (h : ChangesOnly l s t) (hl : Part.chans ∉ l) (i : Nat) : chan i t = chan i s := by
  rw [chan, show t.chans = s.chans from h .chans hl, chan]

theorem ChangesOnly.ring_eq (h : ChangesOnly l s t) (hl : Part.rings ∉ l) (i : Nat) : ring i t = ring i s := by
  rw [ring, show t.rings = s.rings from h .rings hl, ring]

theorem ChangesOnly.row_eq (h : ChangesOnly l s t) (hl : Part.rows ∉ l) (i : Nat) : row i t = row i s := by
  rw [row, show t.rows = s.rows from h .rows hl, row]

theorem ChangesOnly.press_eq (h : ChangesOnly l s t) (hl : Part.presses ∉ l) (i : Nat) : press i t = press i s := by
  rw [press, show t.presses = s.presses from h .presses hl, press]

theorem ChangesOnly.func_eq (h : ChangesOnly l s t) (hl : Part.funcs ∉ l) (i : Nat) : func i t = func i s := by
  rw [func, show t.funcs = s.funcs from h .funcs hl, func]

theorem ChangesOnly.points_eq (h : ChangesOnly l s t) (hl : Part.book ∉ l) (i : Nat) : points i t = points i s := by
  rw [points, show t.book = s.book from h .book hl, points]

theorem ChangesOnly.nextId_eq (h : ChangesOnly l s t) (hl : Part.fabric ∉ l) : t.fabric.nextId = s.fabric.nextId :=
  congrArg (·.nextId) (h .fabric hl : ({ t.fabric with reqs := t.fabric.reqs.map Req.queued } : Fabric)
    = { s.fabric with reqs := s.fabric.reqs.map Req.queued })

theorem ChangesOnly.reqs_eq (h : ChangesOnly l s t) (hl : Part.fabric ∉ l) :
    t.fabric.reqs.map Req.queued = s.fabric.reqs.map Req.queued :=
  congrArg (·.reqs) (h .fabric hl : ({ t.fabric with reqs := t.fabric.reqs.map Req.queued } : Fabric)
    = { s.fabric with reqs := s.fabric.reqs.map Req.queued })

/-! ### Completion -/

theorem settle_quiet (hs : s.wf) : (settle s).wf ∧ ChangesOnly [] s (settle s) := keep_settle Keep.refl hs

/-- What a command of the register port finds keeps the invariant, and is the state itself where no change of PTP time
waits. -/
theorem entered_keep : Keep turnParts s (entered c s) := by
  unfold entered
  exact keep_ite (keep_portTurn Keep.refl Covers.refl) Keep.refl

theorem entered_wf (hs : s.wf) : (entered c s).wf := (entered_keep hs).1

theorem entered_quiet (h : s.time.due = [] ∧ s.time.next = []) : entered c s = s := by
  simp [entered, portTurn, h.1, h.2]

/-- A command that ends with what goes on by itself. -/
theorem Completes.of_settle (he : exec c s = .next (settle u)) (hs : s.wf) (hk : Keep l (entered c s) u)
    (hq : u.wf → ∀ t, t.wf → ChangesOnly [] u t → Q t) : Completes c s l Q := by
  obtain ⟨hu, hc⟩ := hk (entered_wf hs)
  obtain ⟨ht, hd⟩ := settle_quiet hu
  exact ⟨_, he, hc.trans (hd.mono fun _ h => absurd h (by simp)), hq hu _ ht hd⟩

theorem Completes.of_next (he : exec c s = .next t) (hs : s.wf) (hk : Keep l (entered c s) t) (hq : t.wf → Q t) :
    Completes c s l Q := ⟨_, he, (hk (entered_wf hs)).2, hq (hk (entered_wf hs)).1⟩

end Sys2Proof.Machine
end

