-- ==== Sys2Proof/Laws/Fields.lean ====
section
/-!
SUPPORT. What a register field reads after the operations that set fields, bits and block sources, in the form in which
the statements about registers use it (regsLeft).
-/

set_option Elab.async false

namespace Sys2Proof.Machine

/-! ### Register words and what a frame says of them -/

theorem mget_setReg_ne (r : Reg) (w : Word) (s : State) (a : Nat) (h : a ≠ r.off) :
    mget a (setReg r w s).regs = mget a s.regs := by rw [setReg_regs, mget_mputD_ne h]

theorem mget_fset_ne (f : Fld) (v : Nat) (s : State) (a : Nat) (h : a ≠ f.reg.off) :
    mget a (fset f v s).regs = mget a s.regs := mget_setReg_ne _ _ _ _ h

@[simp] theorem msorted_setReg (r : Reg) (w : Word) (s : State) (h : msorted s.regs = true) :
    msorted (setReg r w s).regs = true := msorted_mputD h

@[simp] theorem msorted_fset (f : Fld) (v : Nat) (s : State) (h : msorted s.regs = true) :
    msorted (fset f v s).regs = true := msorted_mputD h

theorem regsLeft_fset {l : List Nat} {f : Fld} {v : Nat} {s t : State} (h : regsLeft l s t) (hf : f.reg.off ∈ l) :
    regsLeft l s (fset f v t) := fun a ha he => by
  have hn : a ≠ f.reg.off := fun e => ha (by rw [e]; exact hf)
  rw [mget_fset_ne _ _ _ _ hn]; exact h a ha he

theorem regsLeft_refl {l : List Nat} {s : State} : regsLeft l s s := fun _ _ _ => rfl

theorem regsLeft_trans {l : List Nat} {s t u : State} (h : regsLeft l s t) (h' : regsLeft l t u) : regsLeft l s u :=
  fun a ha he => (h' a ha he).trans (h a ha he)

theorem regsLeft_of {l : List Part} {m : List Nat} {s t : State} (h : ChangesOnly l s t) (hl : Part.regs ∉ l) : regsLeft m s t :=
  fun a _ he => h .regs hl a (by simp) he

/-! ### Raising a block source -/

theorem addEvent_regs (e : Event) (s : State) : (addEvent e s).regs = s.regs := by unfold addEvent; split <;> rfl

theorem addEvent_time (e : Event) (s : State) : (addEvent e s).time = s.time := by unfold addEvent; split <;> rfl

theorem raiseSource_regs (n : Nat) (s : State) : (raiseSource n s).regs = (fsetBit EVT_STAT.src_pending n s).regs := by
  unfold raiseSource; dsimp only; split
  · rw [addEvent_regs]
  · rfl

@[simp] theorem raiseSource_time (n : Nat) (s : State) : (raiseSource n s).time = s.time := by
  unfold raiseSource; dsimp only; split
  · rw [addEvent_time]; rfl
  · rfl

theorem regW_raiseSource (n : Nat) (s : State) (r : Reg) (h : r.off ≠ EVT_STAT.reg.off) : regW r (raiseSource n s) = regW r s := by
  simp only [regW, raiseSource_regs]
  exact mgetD_mputD_ne h

theorem fget_raiseSource (n : Nat) (s : State) (f : Fld) (h : f.reg.off ≠ EVT_STAT.reg.off) : fget f (raiseSource n s) = fget f s := by
  rw [fget, regW_raiseSource _ _ _ h, fget]

/-! ### Single bits of fields -/

theorem setBit_testBit (v n : Nat) : (setBit v n true).testBit n = true := by
  unfold setBit
  split
  · assumption
  · rename_i h
    simp only [Bool.not_eq_true] at h
    simp only [if_true]
    rw [Nat.add_comm, Nat.testBit_two_pow_add_eq, h]; rfl

theorem setBit_lt (v n w : Nat) (h : v < 2 ^ w) (hn : n < w) : setBit v n true < 2 ^ w := by
  unfold setBit
  split
  · exact h
  · rename_i h'
    simp only [Nat.testBit_eq_decide_div_mod_eq] at h'
    have h0 : v / 2 ^ n % 2 = 0 := by
      rcases Nat.mod_two_eq_zero_or_one (v / 2 ^ n) with e | e
      · exact e
      · simp [e] at h'
    obtain ⟨d, hd⟩ : ∃ d, w = n + d + 1 := ⟨w - n - 1, by omega⟩
    have e1 := Nat.div_add_mod v (2 ^ n)
    have hr := Nat.mod_lt v (Nat.two_pow_pos n)
    have hp : 2 ^ w = 2 ^ n * (2 * 2 ^ d) := by rw [hd, Nat.pow_succ, Nat.pow_add]; ac_rfl
    have hq : v / 2 ^ n < 2 * 2 ^ d := by
      rw [Nat.div_lt_iff_lt_mul (Nat.two_pow_pos n), Nat.mul_comm, ← hp]; exact h
    have hq' : v / 2 ^ n + 2 ≤ 2 * 2 ^ d := by omega
    have := Nat.mul_le_mul_left (2 ^ n) hq'
    rw [Nat.mul_add, ← hp] at this
    simp only [if_true]
    omega

theorem fget_fsetBit (f : Fld) (n : Nat) (s : State) (hs : msorted s.regs = true) (h : f.lo ≤ f.hi) (h' : f.hi < 32)
    (hn : n < f.hi + 1 - f.lo) : (fget f (fsetBit f n s)).testBit n = true := by
  have hb : fget f s < 2 ^ (f.hi + 1 - f.lo) := Nat.mod_lt _ (Nat.two_pow_pos _)
  rw [fsetBit, fget_fset _ _ _ hs h h', Nat.mod_eq_of_lt (setBit_lt _ _ _ hb hn), setBit_testBit]

theorem raiseSource_pending (n : Nat) (s : State) (hs : msorted s.regs = true) (hn : n < 8) :
    (fget EVT_STAT.src_pending (raiseSource n s)).testBit n = true := by
  have : fget EVT_STAT.src_pending (raiseSource n s) = fget EVT_STAT.src_pending (fsetBit EVT_STAT.src_pending n s) := by
    simp only [fget, regW, raiseSource_regs]
  rw [this]
  exact fget_fsetBit _ _ _ hs (by decide) (by decide) hn

/-! ### The invariant and the time -/

theorem wf_time {s : State} {u : Time} (hs : s.wf) (h : u.wf) : ({ s with time := u } : State).wf :=
  State.wf_of hs id id id id id id id id id id id id (fun _ => h) id id id id

/-! ### One-bit fields -/

/-- A one-bit field that was set to 1 reads 1. -/
theorem fbit_fset_one (f : Fld) (s : State) (hs : msorted s.regs = true) (h : f.lo = f.hi) (h' : f.hi < 32) : fbit f (fset f 1 s) = true := by
  rw [fbit, fget_fset _ _ _ hs (by omega) h', show f.hi + 1 - f.lo = 1 by omega]; rfl

theorem fbit_fset_zero (f : Fld) (s : State) (hs : msorted s.regs = true) (h : f.lo = f.hi) (h' : f.hi < 32) : fbit f (fset f 0 s) = false := by
  rw [fbit, fget_fset _ _ _ hs (by omega) h', show f.hi + 1 - f.lo = 1 by omega]; rfl

theorem fbit_eq {f : Fld} {s t : State} (h : fget f t = fget f s) : fbit f t = fbit f s := by rw [fbit, h, fbit]

end Sys2Proof.Machine
end

