-- ==== Sys2Proof/Tests/Slice0.lean ====
section
/-!
SUPPORT. The tests of the model: the forms that WellFormed refuses, examples that the spec works out, and for every
statement of Certificates/Slice0/Obligations.lean states that meet its hypotheses, one for each clause, at boundary
values. Each test is about one operation or one step; what it expects comes from the spec.
-/

set_option Elab.async false

namespace Sys2Proof.Tests
open Sys2Proof.Machine

/-- Canonical form of a map, as a Bool. -/
def canonB {α : Type} [DecidableEq α] (d : α) (m : SMap α) : Bool := msorted m && m.all fun e => e.2 != d

/-- The invariant of the machine, as a Bool. -/
def wfB (s : State) : Bool :=
  msorted s.regs && canonB {} s.chans && canonB {} s.rings && canonB {} s.book.points && canonB {} s.cellar.charges
    && msorted s.cellar.frames && canonB {} s.rows && canonB {} s.ports && canonB {} s.presses && canonB {} s.replicas
    && msorted s.replicasOld
    && decide (s.fabric.reqs.Pairwise fun a b => a.id < b.id) && s.fabric.reqs.all (·.id < s.fabric.nextId)
    && canonB {} s.funcs && decide (s.events.waiting.Pairwise fun a b => a.merges b = false)
    && decide ((s.time.sec < 2 ^ 48 ∧ s.time.ns < 1000000000 ∧ s.time.frac < 2 ^ 16 ∧ s.time.sub < 2 ^ 12)
        ∧ 0x10000000 ≤ s.time.incr ∧ s.time.incr ≤ 0x18000000)
    && decide ((s.power.por = true → s.power.ready = false) ∧ s.power.dorm ≤ 4)
    && decide (s.errors.count ≤ 64) && msorted s.errors.recs && s.errors.recs.all (·.1 < 64)
    && canonB {} s.pmu.counters && canonB {} s.aux.image.points && msorted s.aux.image.prods
    && canonB 0 s.aux.patterns && canonB 0 s.cm.sram

theorem canonB_iff {α : Type} [DecidableEq α] {d : α} {m : SMap α} : canonB d m = true ↔ canonical d m := by
  simp [canonB, canonical, List.all_eq_true]

theorem wf_of {s : State} (h : wfB s = true) : s.wf := by
  simp only [wfB, Bool.and_eq_true, canonB_iff, decide_eq_true_eq, List.all_eq_true] at h
  obtain ⟨⟨⟨⟨⟨⟨⟨⟨⟨⟨⟨⟨⟨⟨⟨⟨⟨⟨⟨⟨⟨⟨⟨⟨a, b⟩, c⟩, d⟩, e⟩, f⟩, g⟩, i⟩, j⟩, k⟩, k'⟩, l⟩, m⟩, n⟩, o⟩, p⟩, q⟩, r⟩, t⟩, u⟩, v⟩, w⟩, x⟩, y⟩, z⟩ := h
  exact ⟨a, b, c, d, ⟨e, f⟩, g, i, j, ⟨k, k'⟩, ⟨l, m⟩, n, o, p, q, ⟨r, t, u⟩, v, ⟨w, x⟩, y, z⟩

/-- Every listed state meets the invariant. -/
theorem wfAll {l : List State} (h : l.all wfB = true) : ∀ s ∈ l, s.wf := fun s hs => wf_of (List.all_eq_true.mp h s hs)


/-! ### States -/

/-- The block after power-on reset, ready. -/
def up : State := { State.reset with power := { por := false, ready := true, initBusy := false } }

/-- s with channel c as given. -/
def withChan (c : Nat) (x : Chan) (s : State) : State := { s with chans := mputD {} c x s.chans }

/-- s with completion ring n as given. -/
def withRing (n : Nat) (x : Ring) (s : State) : State := { s with rings := mputD {} n x s.rings }

/-- s with port g as given. -/
def withPort (g : Nat) (x : Port) (s : State) : State := { s with ports := mputD {} g x s.ports }

/-- s with row r as given. -/
def withRow (r : Nat) (x : Row) (s : State) : State := { s with rows := mputD {} r x s.rows }

/-- s with press k as given. -/
def withPress (k : Nat) (x : Press) (s : State) : State := { s with presses := mputD {} k x s.presses }

/-- s with function f as given. -/
def withFunc (f : Nat) (x : Func) (s : State) : State := { s with funcs := mputD {} f x s.funcs }

/-- The one request that the next states await: identity 0, on port 0. -/
def req0 (write : Bool) (len : Nat) (p : Purpose) : Req :=
  { id := 0, write := write, func := 0, addr := 0, len := len, data := List.replicate (if write then len else 0) 0,
    purpose := p, port := some 0, reissued := false, left := none, discard := false }

/-- s with that request outstanding. -/
def withRequest (r : Req) (s : State) : State := { s with fabric := { s.fabric with reqs := [r], nextId := 1 } }

/-- Request r is awaited in s, as a Bool. -/
def awaitsB (r : Req) (s : State) : Bool :=
  auxPort s && findReq 0 s == some r && !r.discard && (func r.func s).qState == 0

theorem awaitsAll {l : List (Req × State)} (h : l.all (fun e => awaitsB e.1 e.2) = true) : ∀ e ∈ l, Awaits 0 e.1 e.2 := by
  intro e he
  have h := List.all_eq_true.mp h e he
  simp only [awaitsB, Bool.and_eq_true, beq_iff_eq, Bool.not_eq_true'] at h
  exact ⟨h.1.1.1, h.1.1.2, h.1.2, h.2⟩

/-- s with the error queue full. -/
def fullErrors (s : State) : State := { s with errors := { s.errors with count := 64 } }

/-- A channel that runs. -/
def running : Chan := { state := .running, left := .running, ctx := { inflight := 4, txLog2 := 6, rxLog2 := 6 } }

/-- The block with function 0 presented, the host link up and the fabric enabled. -/
def linked : State :=
  fset FAB_CTL.en 1 (withFunc 0 { present := true, bme := true } { up with fabric := { up.fabric with hostUp := true } })

/-- s with port g in a row that is enabled, at the lowest speed, sending and receiving, its link up. -/
def onPort (g : Nat) (p : Port) (s : State) : State :=
  fset (ROW_CFG.port_speed (g / 8)) (2 ^ (3 * (g % 8))) (fset (PRT_MAC_CFG.tx_en g) 1 (fset (PRT_MAC_CFG.rx_en g) 1
    (withRow (g / 8) { state := 2 } (withPort g { p with linkUp := true } s))))

/-- A frame of 64 bytes with its FCS: to the given address, of the given type and content. -/
def frame64 (da : Bytes) (type : Nat) (content : Bytes) : Bytes :=
  withFcs ((da ++ List.replicate 6 2 ++ beBytes 2 type ++ content ++ List.replicate 60 0).take 60)

/-- A frame that the cellar holds, with the given bytes, from port 255. -/
def held (bs : Bytes) : Frame := { bytes := bs, port := some 255, pool := .shared, cells := 1, refs := 1 }

/-- s with the cellar holding one frame. -/
def withFrame (f : Frame) (s : State) : State := { s with cellar := { s.cellar with frames := [(0, f)], nextFrame := 1 } }

/-- A received frame in the queue of a channel: frame 0 of the cellar. -/
def ref (bs : Bytes) (held : Bool) : RxRef :=
  { frame := 0, kind := .normal, bytes := bs, tc := 0, l3err := false, l4err := false, held := held }

/-! ### The machine, time and the register port -/

/-- StepRunsFront, StepKeepsInvariant, CommandsChangeOnlyTheirParts and TickAdvancesTime: a state that meets the
invariant, with and without running clocks, and with a change of time that waits; a command of the register port and one
that is none. -/
theorem witness_machine :
    let a := { up with time := { dclk := 1, sec := 1, ns := 999999999, armed := true } }
    let b := { withRequest (req0 false 128 (.chanCtx 0)) up with pending := [.timeCaptureRead] }
    let c := { up with time := { next := [.incr 0x10000000] } }
    (∀ s ∈ [State.reset, up, a, b, c], s.wf)
    ∧ (State.reset.pending = [] ∧ clockRuns State.reset = false) ∧ (up.pending = [] ∧ clockRuns up = true)
    ∧ (a.pending = [] ∧ clockRuns a = true ∧ (a.time.dclk + 1) % 2 = 0 ∧ a.time.armed = true ∧ a.time.trigOut = false)
    ∧ Goes (step up) ∧ Goes (step b) ∧ fits (.contextReadComplete 0 (.data [])) b = false
    ∧ viaRegisterPort (.captureRead) = true ∧ viaRegisterPort (.timeLoad) = false
    ∧ (up.time.due = [] ∧ up.time.next = [] ∧ c.time.next ≠ [] ∧ c.time.due = [] ∧ (c.time.dclk + 1) % 2 = 1) :=
  ⟨wfAll (by decide +kernel), by decide +kernel, by decide +kernel, by decide +kernel, ⟨_, rfl⟩, ⟨_, rfl⟩, by decide +kernel,
    by decide +kernel⟩

/-- TimeIsReadLoadedAndStepped: every register reached; and each change due, a step down to 0, one below it and a step up
among them, and a load that reaches the time of an armed trigger; and an access behind each change, due and not yet due. -/
theorem witness_TimeIsReadLoadedAndStepped :
    let due := fun (d : TimeChange) => { up with time := { due := [d], ns := 5, armed := true } }
    let next := fun (d : TimeChange) => { up with time := { next := [d] } }
    (∀ s ∈ [up, due (.incr 0), due (.load 0 0 0 0), due (.step true 0 5), due (.step true 0 6), due (.step false 0 0),
        next (.incr 0x18000001), next (.load (2 ^ 48) 1000000000 0 0), next (.step true 0 1)], s.wf)
    ∧ (regLive up = true ∧ regLive (portTurn up) = true ∧ regLive (portTurn (next (.incr 0))) = true)
    ∧ (clockRuns (next (.incr 0)) = true ∧ (due (.incr 0)).time.due ++ (due (.incr 0)).time.next = [.incr 0]
        ∧ (next (.incr 0)).time.due ++ (next (.incr 0)).time.next = [.incr 0]
        ∧ (let s := next (.step true 0 1); s.time.sec * 1000000000 + s.time.ns < 0 * 1000000000 + 1))
    ∧ (∀ s ∈ [due (.incr 0), due (.load 0 0 0 0), due (.step true 0 5), due (.step true 0 6), due (.step false 0 0)],
        s.pending = [] ∧ clockRuns s = true ∧ s.time.dclk % 2 = 0)
    ∧ (let s := due (.load 0 0 0 0)
       s.time.armed = true ∧ triggerReached { s with time := s.time.loaded 0 0 0 0 } = true) :=
  ⟨wfAll (by decide +kernel), by decide +kernel, by decide +kernel, by decide +kernel, by decide +kernel⟩

/-- TimePins: the selected edge, with and without a capture that waits; the outputs; the trigger at its time and before. -/
theorem witness_TimePins :
    let a := fset TIM_PPS_CFG.pps_in_en 1 up
    let b := fset TIM_STAT.cap_valid 1 a
    let c := { up with time := { armed := true } }
    let d := fset TIM_TRIG_NS.trig_ns 1 c
    let e := fset EVT_BLOCK_VEC.src_en 4 (fset TIM_PPS_CFG.pps_out_en 1 { c with time := { armed := true, wrapped := true } })
    let f := { up with time := { next := [.incr 0x10000000] } }
    (∀ s ∈ [up, a, b, c, d, e, f], s.wf ∧ clockRuns s = true ∧ regLive (portTurn s) = true)
    ∧ (fbit TIM_PPS_CFG.pps_in_en a = true ∧ fbit TIM_PPS_CFG.in_falling a = false)
    ∧ (fbit TIM_PPS_CFG.pps_in_en b = true ∧ fbit TIM_PPS_CFG.in_falling b = false ∧ fbit TIM_STAT.cap_valid b = true)
    ∧ fbit TIM_PPS_CFG.pps_in_en up = false ∧ fbit TIM_PPS_CFG.pps_out_en up = false
    ∧ (fbit TIM_PPS_CFG.pps_out_en e = true ∧ e.time.wrapped = true ∧ e.time.armed = true ∧ triggerReached e = true
        ∧ (fget EVT_BLOCK_VEC.src_en e).testBit 2 = true)
    ∧ (d.time.armed = true ∧ triggerReached d = false) :=
  ⟨fun s hs => ⟨wfAll (l := [_, _, _, _, _, _, _]) (by decide +kernel) s hs, by revert s; decide +kernel⟩, by decide +kernel⟩

/-- UnassignedAccessHasNoEffect: an offset without a register, an access of three bytes, and one that is not aligned. -/
theorem witness_UnassignedAccessHasNoEffect :
    findSpec 0x3FFFFC = none ∧ findSpec 0 ≠ none ∧ (7#4 : BitVec 4) ≠ 15 ∧ (2#22 : BitVec 22).toNat % 4 ≠ 0 := by
  decide +kernel

/-- RegisterWriteByFieldType: a register on each of several pages, the last of its page among them, and CEL_CFG while a
row is on, which locks it; no change of time waits. -/
theorem witness_RegisterWriteByFieldType :
    let a := fset GLB_ROW_EN.row_en 1 up
    (∀ s ∈ [up, a], s.wf) ∧ portTurn up = up ∧ portTurn a = a
    ∧ (∀ r ∈ [CEL_CFG.reg.off, TBL_HASH_CFG.reg.off, FAB_DB_CFG.reg.off, (PRT_FILTER_CFG.reg 255).off, (ROW_LPI_CFG.reg 31).off,
          EVT_BLOCK_VEC.reg.off, (AUX_WAKE_PAT_CTL.reg 31).off],
        (accessed r 15 up).any (fun x => !x.isLow && !x.isHigh) = true ∧ actsOnWrite r = false ∧ locked r up = false)
    ∧ (accessed CEL_CFG.reg.off 15 a).any (fun x => !x.isLow && !x.isHigh) = true ∧ locked CEL_CFG.reg.off a = true :=
  ⟨wfAll (by decide +kernel), rfl, rfl, by decide +kernel, by decide +kernel⟩

/-- PairsActAtOneMoment and its registers: FAB_CTX_BASE, which holds an address, is written and read as a pair; and
PMU_PRELOAD of the last counter. -/
theorem witness_PairsActAtOneMoment :
    let p := fset PMU_SEL.counter 735 up
    (p.wf ∧ portTurn p = p ∧ regLive p = true ∧ AllIssued p ∧ selCounter p = 735 ∧ 735 < 736 ∧ fixedCounter 735 = false)
    ∧ portTurn up = up ∧ ∃ y x, accessed FAB_CTX_BASE_LO.reg.off 15 up = some y ∧ accessed (FAB_CTX_BASE_LO.reg.off + 4) 15 up = some x
      ∧ findSpec (FAB_CTX_BASE_LO.reg.off + 4) = some x
      ∧ up.wf ∧ FAB_CTX_BASE_LO.reg.off < 0x3FFFFC ∧ y.isLow = true ∧ y.isHigh = false ∧ x.isHigh = true
      ∧ x.isLow = false ∧ y.rc = 0 ∧ locked FAB_CTX_BASE_LO.reg.off up = false ∧ locked (FAB_CTX_BASE_LO.reg.off + 4) up = false
      ∧ FAB_CTX_BASE_LO.reg.off + 4 ≠ PMU_VAL_HI.reg.off ∧ FAB_CTX_BASE_LO.reg.off + 4 ≠ PMU_PRELOAD_HI.reg.off
      ∧ ∀ r ∈ [TIM_SEC_HI.reg.off, TIM_CAP_SEC.reg.off, TIM_CAP_NS.reg.off, AUX_WAKE_DATA.reg.off],
          FAB_CTX_BASE_LO.reg.off ≠ r ∧ FAB_CTX_BASE_LO.reg.off + 4 ≠ r :=
  ⟨⟨wf_of (by decide +kernel), rfl, by decide +kernel, by unfold AllIssued; decide +kernel, by decide +kernel, by decide +kernel,
    by decide +kernel⟩, rfl, _, _, rfl, rfl, rfl, wf_of (by decide +kernel), by decide +kernel⟩

/-- ReadClearLosesNoEvent: the receive errors of a row. -/
theorem witness_ReadClearLosesNoEvent :
    ∃ x, accessed (ROW_IF_ERR.reg 31).off 15 up = some x ∧ up.wf ∧ x.rc ≠ 0 ∧ x.isLow = false ∧ x.isHigh = false
      ∧ (ROW_IF_ERR.reg 31).off ≠ FAB_FUNC_STAT.reg.off ∧ (ROW_IF_ERR.reg 31).off ≠ CEL_HEADROOM_STAT.reg.off
      ∧ (∀ k < 5, (ROW_IF_ERR.reg 31).off ≠ (PRS_REORDER_STAT.reg k).off)
      ∧ ∀ r ∈ [TIM_SEC_HI.reg.off, TIM_CAP_SEC.reg.off, TIM_CAP_NS.reg.off, AUX_WAKE_DATA.reg.off],
          (ROW_IF_ERR.reg 31).off ≠ r :=
  ⟨_, rfl, wf_of (by decide +kernel), by decide +kernel⟩

/-! ### Channels -/

/-- DoorbellReadsProducerIndex: a RUNNING channel with no read, with one that waits and with one outstanding, a DISABLED
one, the other offsets of a page, and polling at its largest interval and with an interval that is off. -/
theorem witness_DoorbellReadsProducerIndex :
    let a := fset FAB_DB_CFG.db_en 1 (fset FAB_DB_CFG.poll_en 1 (withChan 8191 running linked))
    let b := withChan 8191 { running with tx := { idxOut := true }, rx := { idxOut := true }, ctx := { pollK := 22 } } a
    let waits := fun (p : Purpose) => { b with fabric := { b.fabric with reqs := [{ req0 false 4 p with port := none }], nextId := 1 } }
    let c := withChan 8191 { running with ctx := { pollK := 22 } } a
    let d := withChan 8191 { running with ctx := { pollK := 23 } } a
    (∀ s ∈ [a, b, c, d, waits (.txProd 8191), waits (.rxProd 8191), linked], s.wf)
    ∧ (∀ s ∈ [a, b, c, d, waits (.txProd 8191), waits (.rxProd 8191)], live s = true ∧ fbit FAB_DB_CFG.db_en s = true
        ∧ fbit FAB_DB_CFG.poll_en s = true ∧ (chan 8191 s).state = .running)
    ∧ ((0x1FFF000#25).toNat = (8191#13).toNat * 0x1000 ∧ (0x1FFF008#25).toNat = (8191#13).toNat * 0x1000 + 8)
    ∧ ((chan 8191 a).tx.idxOut = false ∧ (chan 8191 a).rx.idxOut = false)
    ∧ ((chan 8191 b).tx.idxOut = true ∧ (chan 8191 b).rx.idxOut = true
        ∧ readWaits (.txProd 8191) b = false ∧ readWaits (.rxProd 8191) b = false)
    ∧ (readWaits (.txProd 8191) (waits (.txProd 8191)) = true ∧ readWaits (.rxProd 8191) (waits (.rxProd 8191)) = true)
    ∧ ((chan 0 a).state ≠ .running ∧ (0#25).toNat = (0#13).toNat * 0x1000 ∧ (8#25).toNat = (0#13).toNat * 0x1000 + 8)
    ∧ ((8#25).toNat % 0x1000 ≠ 0 ∧ (0#25).toNat % 0x1000 ≠ 8)
    ∧ ((chan 8191 c).ctx.pollK = 22 ∧ (chan 8191 c).tx.idxOut = false ∧ (chan 8191 c).rx.idxOut = false)
    ∧ 22 < (chan 8191 d).ctx.pollK ∧ fbit FAB_DB_CFG.poll_en linked = false :=
  ⟨wfAll (by decide +kernel), by decide +kernel, by decide +kernel, by decide +kernel, by decide +kernel,
    by decide +kernel, by decide +kernel, by decide +kernel, by decide +kernel, by decide +kernel⟩

/-- StartReadsChannelContext: a DISABLED channel, with and without accepted work; a RUNNING one, one that starts, one
whose write-back is out, a fabric that is off, and a function that may issue nothing; an almost full error queue. -/
theorem witness_StartReadsChannelContext :
    let a := withChan 0 running linked
    let b := withChan 0 { startOp := some { fresh := false, phase := .context, next := {} } } linked
    let c := { linked with errors := { linked.errors with count := 63 } }
    let d := withChan 0 { state := .stopped, left := .stopped, writeBack := true } linked
    let e := { linked with book := { linked.book with points := [(0, { accepted := 1 })] } }
    let f := fset FAB_CTL.en 1 up
    (∀ s ∈ [linked, a, b, c, d, e, f, up], s.wf ∧ regLive s = true)
    ∧ (∀ s ∈ [linked, c], (chan (selected s) s).startOp = none ∧ (chan (selected s) s).active = false
        ∧ (chan (selected s) s).writeBack = false ∧ fbit FAB_CTL.en s = true ∧ mayIssue (ownerFunc s) s = true
        ∧ freshOk (selected s) s = true ∧ s.errors.count < 64)
    ∧ (chan (selected a) a).active = true ∧ (chan (selected b) b).startOp ≠ none ∧ (chan (selected d) d).writeBack = true
    ∧ fbit FAB_CTL.en up = false ∧ mayIssue (ownerFunc f) f = false ∧ freshOk (selected e) e = false
    ∧ 4 < (5#3 : BitVec 3).toNat ∧ 4 < (7#3 : BitVec 3).toNat :=
  ⟨fun s hs => ⟨wfAll (l := [_, _, _, _, _, _, _, _]) (by decide +kernel) s hs, by revert s; decide +kernel⟩, by decide +kernel⟩

/-- StopAndReset: one state of the channel for each clause, with and without work left, while its function may issue
requests and while it may not, during a START, and while a write-back is under way. -/
theorem witness_StopAndReset :
    let at_ := fun x : ChState => withChan 0 { running with state := x } linked
    let busy := withChan 0 { running with tx := { marks := [⟨1, false, false⟩] } } linked
    let shut := withFunc 0 { present := true } (at_ .running)
    let starts := withChan 0 { state := .stopped, left := .stopped, startOp := some { fresh := false, phase := .context, next := {} } } linked
    let back := withChan 0 { running with state := .stopping, writeBack := true } linked
    back.wf ∧ (∀ s ∈ [at_ .running, at_ .fenced, at_ .stopping, at_ .resetting, at_ .stopped, at_ .quiesced, linked, busy, shut, starts],
      s.wf ∧ regLive s = true ∧ (chan (selected s) s).writeBack = false)
    ∧ (∀ s ∈ [at_ .running, at_ .fenced, at_ .stopping, at_ .resetting, at_ .stopped, at_ .quiesced, linked, busy, shut],
        (chan (selected s) s).startOp = none)
    ∧ ((chan 0 (at_ .running)).state = .running ∧ workDone 0 (at_ .running) = true
        ∧ mayIssue (chan 0 (at_ .running)).ctx.func (at_ .running) = true)
    ∧ ((chan 0 busy).state = .running ∧ workDone 0 busy = false)
    ∧ ((chan 0 shut).state = .running ∧ workDone 0 shut = true ∧ mayIssue (chan 0 shut).ctx.func shut = false)
    ∧ (chan 0 (at_ .fenced)).state = .fenced ∧ (chan 0 (at_ .stopping)).state = .stopping
    ∧ (chan 0 (at_ .resetting)).state = .resetting ∧ (chan 0 (at_ .stopped)).state = .stopped
    ∧ (chan 0 (at_ .quiesced)).state = .quiesced ∧ (chan 0 linked).state = .disabled ∧ (chan 0 starts).startOp ≠ none
    ∧ (regLive back = true ∧ selected back = 0 ∧ (chan 0 back).startOp = none ∧ (chan 0 back).writeBack = true
        ∧ (chan 0 back).state = .stopping) :=
  ⟨wf_of (by decide +kernel), fun s hs => ⟨wfAll (l := [_, _, _, _, _, _, _, _, _, _]) (by decide +kernel) s hs, by revert s; decide +kernel⟩,
    by decide +kernel, by decide +kernel, by decide +kernel, by decide +kernel, by decide +kernel⟩

/-- A channel context entry: rings of 64, one item in flight, row 0, function 0. -/
def ctxEntry : Bytes := List.replicate 0x20 0 ++ leBytes 4 0x0606 ++ leBytes 4 0 ++ leBytes 4 0x10000 ++ List.replicate 0x54 0

/-- A completion context entry of function f. -/
def cctxEntry (f : Nat) : Bytes := List.replicate 8 0 ++ leBytes 4 (6 + 256 * f) ++ List.replicate 52 0

/-- ContextReadCompletes: an entry that is legal, with the row on; one of zeros, which is not; a reserved bit; a function
that is not presented. The entry of the ring, of the channel's function and of another, for a channel that has resumed and
one that has not, and for a START_FRESH. The last write of a START, and of one whose entry has cons_index beyond the
ring. -/
theorem witness_ContextReadCompletes :
    let op : StartOp := { fresh := false, phase := .context, next := {} }
    let on := fun (r : Req) (x : Chan) => fset GLB_ROW_EN.row_en 1 (withRequest r (withChan 0 x linked))
    let a := on (req0 false 128 (.chanCtx 0)) { startOp := some op }
    let b := withFunc 0 {} a
    let c := on (req0 false 64 (.cringCtx 0 0)) { startOp := some { op with phase := .cring } }
    let d := on (req0 false 64 (.cringCtx 0 0)) { startOp := some { op with phase := .cring }, resumed := true }
    let e := on (req0 true 16 (.startWrite 0)) { startOp := some { op with phase := .report } }
    let fresh := on (req0 false 64 (.cringCtx 0 0)) { startOp := some { op with fresh := true, phase := .cring } }
    let late := on (req0 true 16 (.startWrite 0)) { startOp := some { op with phase := .report, next := { consBad := true } } }
    (∀ s ∈ [a, b, c, d, e, fresh, late], s.wf)
    ∧ (∀ x ∈ [(req0 false 128 (.chanCtx 0), a), (req0 false 128 (.chanCtx 0), b), (req0 false 64 (.cringCtx 0 0), c),
          (req0 false 64 (.cringCtx 0 0), d), (req0 true 16 (.startWrite 0), e), (req0 false 64 (.cringCtx 0 0), fresh),
          (req0 true 16 (.startWrite 0), late)], Awaits 0 x.1 x.2)
    ∧ (∀ s ∈ [a, b, c, d, e, fresh, late], (chan 0 s).startOp ≠ none ∧ (chan 0 s).active = false
        ∧ (chan 0 s).idxDirty = false ∧ (chan 0 s).bkDirty = false)
    ∧ (ctxEntry.length = 128 ∧ ctxRes0Bad ctxEntry = false ∧ (parseCtx ctxEntry).bad a = false
        ∧ funcStartBad (parseCtx ctxEntry).func a = false ∧ ringHeld (parseCtx ctxEntry).cring a = false
        ∧ ringUnsettled (parseCtx ctxEntry).cring a = false)
    ∧ ((parseCtx (List.replicate 128 0)).bad a = true ∧ ctxRes0Bad (List.replicate 128 0xFF) = true
        ∧ funcStartBad (parseCtx ctxEntry).func b = true)
    ∧ ((cctxEntry 0).length = 64 ∧ ringHeld 0 c = false ∧ (parseCring (cctxEntry 0) (ring 0 c)).func = ({} : Ctx).func
        ∧ (parseCring (cctxEntry 1) (ring 0 c)).func ≠ ({} : Ctx).func ∧ (chan 0 c).resumed = false ∧ (chan 0 d).resumed = true)
    ∧ (∀ s ∈ [e, late], ∀ q ∈ s.fabric.reqs, q.id ≠ 0 → q.isStart 0 = false)
    ∧ (ringHeld 0 fresh = false ∧ (parseCring (cctxEntry 0) (ring 0 fresh)).func = ({} : Ctx).func)
    ∧ ((chan 0 fresh).startOp.map (·.fresh) = some true ∧ (chan 0 c).startOp.map (·.fresh) = some false
        ∧ (chan 0 late).startOp.map (·.next.consBad) = some true ∧ (chan 0 e).startOp.map (·.next.consBad) = some false) :=
  ⟨wfAll (by decide +kernel), awaitsAll (by decide +kernel), by decide +kernel, by decide +kernel, by decide +kernel,
    by decide +kernel, by decide +kernel⟩

/-- ContextInvalidation: none and one in progress, a RUNNING channel, a ring that no channel uses and one that a channel
uses, the live reads and the write of a ring reset. -/
theorem witness_ContextInvalidation :
    let a := withChan 8191 { running with ctx := { cring := 4095 } } linked
    let b := { a with fabric := { a.fabric with invalBusy := 1 } }
    let c := withRequest (req0 false 128 (.liveChan 8191)) b
    let d := withRequest (req0 false 64 (.liveCring 4095)) b
    let e := withRequest (req0 true 8 (.ringResetWrite 4095)) b
    (∀ s ∈ [a, b, c, d, e], s.wf)
    ∧ (∀ x ∈ [(req0 false 128 (.liveChan 8191), c), (req0 false 64 (.liveCring 4095), d), (req0 true 8 (.ringResetWrite 4095), e)],
        Awaits 0 x.1 x.2)
    ∧ (∀ d, (chan d linked).active = true → (chan d linked).ctx.cring ≠ (4095#12).toNat)
    ∧ (linked.wf ∧ regLive linked = true ∧ linked.fabric.invalBusy = 0)
    ∧ (regLive a = true ∧ a.fabric.invalBusy = 0 ∧ (chan 8191 a).state = .running)
    ∧ ((chan 8191 a).active = true ∧ (chan 8191 a).ctx.cring = (4095#12).toNat)
    ∧ (regLive b = true ∧ b.fabric.invalBusy ≠ 0) ∧ (chan 0 a).state ≠ .running
    ∧ (ctxEntry.length = 128 ∧ (cctxEntry 0).length = 64 ∧ (chan 8191 c).state = .running) :=
  ⟨wfAll (by decide +kernel), awaitsAll (by decide +kernel), fun d h => (by cases h), ⟨wf_of (by decide +kernel), rfl, rfl⟩,
    by decide +kernel, by decide +kernel, by decide +kernel, by decide +kernel, by decide +kernel⟩

/-- ProducerIndexIsChecked: rings of 64; the farthest index that is taken, one beyond the done index, and one that has
moved back by one, in each direction. -/
theorem witness_ProducerIndexIsChecked :
    let a := withRequest (req0 false 4 (.txProd 0)) (withChan 0 running linked)
    let b := withRequest (req0 false 4 (.rxProd 0)) (withChan 0 running linked)
    let c := withRequest (req0 false 4 (.txProd 0)) (withChan 0 { running with tx := { prod := 1 } } linked)
    let d := withRequest (req0 false 4 (.rxProd 0)) (withChan 0 { running with rx := { prod := 1 } } linked)
    (∀ s ∈ [a, b, c, d], s.wf)
    ∧ (∀ x ∈ [(req0 false 4 (.txProd 0), a), (req0 false 4 (.rxProd 0), b), (req0 false 4 (.txProd 0), c),
          (req0 false 4 (.rxProd 0), d)], Awaits 0 x.1 x.2)
    ∧ (∀ s ∈ [a, b, c, d], (chan 0 s).state = .running ∧ (chan 0 s).fence = none ∧ s.errors.count < 64)
    ∧ leNat (leBytes 4 64) = 64 ∧ (leBytes 4 64).length = 4
    ∧ (used 64 (chan 0 a).tx.done ≤ 2 ^ 6 ∧ used 64 (chan 0 a).tx.prod ≤ 2 ^ 6 ∧ 2 ^ 6 < used 65 (chan 0 a).tx.done)
    ∧ (used 64 (chan 0 b).rx.done ≤ 2 ^ 6 ∧ used 64 (chan 0 b).rx.prod ≤ 2 ^ 6 ∧ 2 ^ 6 < used 65 (chan 0 b).rx.done)
    ∧ (used 0 (chan 0 c).tx.done ≤ 2 ^ 6 ∧ 2 ^ 6 < used 0 (chan 0 c).tx.prod)
    ∧ (used 0 (chan 0 d).rx.done ≤ 2 ^ 6 ∧ 2 ^ 6 < used 0 (chan 0 d).rx.prod) :=
  ⟨wfAll (by decide +kernel), awaitsAll (by decide +kernel), by decide +kernel⟩

/-! ### Descriptors, chains, received frames and completions -/

/-- A descriptor of 32 bytes with the given third word. -/
def desc (w : Nat) : Bytes := List.replicate 8 0 ++ leBytes 4 w ++ List.replicate 20 0

/-- DescriptorReadCompletes: transmit descriptors of the greatest length, first of a chain and not last, and both; one of
length 0, one a byte too long, and one that is first inside a chain; a buffer descriptor, and a queue where frames wait. -/
theorem witness_DescriptorReadCompletes :
    let a := withRequest (req0 false 32 (.txDesc 0)) (withChan 0 running linked)
    let b := withRequest (req0 false 32 (.txDesc 0)) (withChan 0 { running with tx := { partialDescs := [{ len := 1 }] } } linked)
    let c := withRequest (req0 false 32 (.rxDesc 0)) (withChan 0 running linked)
    let d := fset CEL_WAIT_LIMIT.limit_us 0 c
    (∀ s ∈ [a, b, c, d], s.wf)
    ∧ (∀ x ∈ [(req0 false 32 (.txDesc 0), a), (req0 false 32 (.txDesc 0), b), (req0 false 32 (.rxDesc 0), c), (req0 false 32 (.rxDesc 0), d)],
        Awaits 0 x.1 x.2)
    ∧ (∀ s ∈ [a, b, c, d], (chan 0 s).state = .running ∧ (chan 0 s).fence = none)
    ∧ (∀ w ∈ [2 ^ 19 + 16380, 3 * 2 ^ 19 + 16380, 3 * 2 ^ 19, 3 * 2 ^ 19 + 16381, 2 ^ 19 + 1], (desc w).length = 32)
    ∧ (txDescReason [] (parseTxDesc (desc (2 ^ 19 + 16380))) = none ∧ (parseTxDesc (desc (2 ^ 19 + 16380))).last = false)
    ∧ (txDescReason [] (parseTxDesc (desc (3 * 2 ^ 19 + 16380))) = none ∧ (parseTxDesc (desc (3 * 2 ^ 19 + 16380))).last = true)
    ∧ (txDescReason [] (parseTxDesc (desc (3 * 2 ^ 19))) = some 1 ∧ txDescReason [] (parseTxDesc (desc (3 * 2 ^ 19 + 16381))) = some 1)
    ∧ txDescReason (chan 0 b).tx.partialDescs (parseTxDesc (desc (2 ^ 19 + 1))) = some 2
    ∧ fget CEL_WAIT_LIMIT.limit_us c ≠ 0 ∧ fget CEL_WAIT_LIMIT.limit_us d = 0 :=
  ⟨wfAll (by decide +kernel), awaitsAll (by decide +kernel), by decide +kernel⟩

/-- A chain of one descriptor of 64 bytes in the given stage, with the given pieces of its data. -/
def chain1 (stage : ChainStage) (frags : List Frag) : Chain :=
  { first := 0, count := 1, descs := [{ len := 64, last := true, first := true }], total := 64, stage := stage, frags := frags }

/-- ChainsAreStaged: a chain that waits while cells are free and while none is; one whose data is read in two pieces, and
in one. -/
theorem witness_ChainsAreStaged :
    let a := withChan 0 { running with tx := { chains := [chain1 .waiting []] } } { linked with cellar := { txWaiting := [(0, 0)] } }
    let b := { a with cellar := { a.cellar with txUsed := 2 ^ 18 } }
    let reading := fun (fs : List Frag) => withRequest (req0 false 32 (.txData 0 0 0))
      (withChan 0 { running with tx := { chains := [chain1 .reading fs] } } linked)
    let c := reading [⟨0, 32, none⟩, ⟨32, 32, none⟩]
    let d := reading [⟨0, 32, none⟩]
    (∀ s ∈ [a, b, c, d], s.wf)
    ∧ (∀ x ∈ [(req0 false 32 (.txData 0 0 0), c), (req0 false 32 (.txData 0 0 0), d)], Awaits 0 x.1 x.2)
    ∧ (live a = true ∧ a.cellar.txWaiting = [(0, 0)] ∧ chainOf 0 0 a = some (chain1 .waiting [])
        ∧ (chain1 .waiting []).needs ≤ txFree a)
    ∧ (live b = true ∧ b.cellar.txWaiting = [(0, 0)] ∧ chainOf 0 0 b = some (chain1 .waiting [])
        ∧ txFree b < (chain1 .waiting []).needs)
    ∧ ((chan 0 c).state = .running ∧ chainOf 0 0 c = some (chain1 .reading [⟨0, 32, none⟩, ⟨32, 32, none⟩])
        ∧ (setNth 0 ⟨0, 32, some (List.replicate 32 0)⟩ [⟨0, 32, none⟩, ⟨32, 32, none⟩] : List Frag).any (·.data.isNone) = true)
    ∧ ((chan 0 d).state = .running ∧ chainOf 0 0 d = some (chain1 .reading [⟨0, 32, none⟩])
        ∧ (setNth 0 ⟨0, 32, some (List.replicate 32 0)⟩ [⟨0, 32, none⟩] : List Frag).any (·.data.isNone) = false) :=
  ⟨wfAll (by decide +kernel), awaitsAll (by decide +kernel), by decide +kernel⟩

/-- HeadChainSettles: the ring's last free slot. -/
theorem witness_HeadChainSettles :
    let a := withRing 0 { held := true, prod := 63 } (withChan 0 { running with tx := { chains := [chain1 (.settling 0x41) []] } } linked)
    a.wf ∧ live a = true ∧ (chan 0 a).state = .running ∧ (chan 0 a).tx.chains = [chain1 (.settling 0x41) []]
    ∧ (chain1 (.settling 0x41) []).stage = .settling 0x41 ∧ a.book.pool = []
    ∧ (ring (chan 0 a).ctx.cring a).full = false ∧ used (ring 0 a).prod (ring 0 a).cons + 1 = 2 ^ (ring 0 a).sizeLog2 :=
  ⟨wf_of (by decide +kernel), by decide +kernel⟩

/-- FrameIsAssigned: buffers that hold the frame to its last byte, a malformed one, 32 that do not hold it, and none; and a
channel with check values whose log ring has room and has none, the latter before and after the frame waits for it. -/
theorem witness_FrameIsAssigned :
    let bs := List.replicate 64 0
    let at_ := fun (ds : List RxDesc) => withRing 0 { held := true } (withFrame (held bs)
      (withChan 0 { running with rx := { queue := [ref bs false], descs := ds } } linked))
    let many := withRing 0 { held := true } (withFrame (held (List.replicate 129 0))
      (withChan 0 { running with rx := { queue := [ref (List.replicate 129 0) false], descs := List.replicate 32 { len := 4 } } } linked))
    let cv := fun (prod : Word) (w : Option Nat) => withRing 0 { held := true } (withFrame (held bs) (withChan 0 { running with
      ctx := { running.ctx with cvCfg := BitVec.ofNat 32 (2 ^ 30 + 2 ^ 21 + 10 * 2 ^ 24), logLog2 := 6 }
      log := { prod := prod }, rx := { queue := [ref bs false], descs := [{ len := 64 }], logWait := w, cv := { count := 2 ^ 19 - 60 } } } linked))
    let need := fun s => logCount 0 (rxLogNeed (chan 0 s) bs) s
    (∀ s ∈ [at_ [{ len := 64 }], at_ [{ len := 64, bad := some 1 }], at_ [], many, cv 0 none, cv 64 none, cv 64 (some 0)],
      s.wf ∧ live s = true ∧ accepts 0 s = true ∧ inflightFull 0 true s = false
      ∧ (ring (chan 0 s).ctx.cring s).full = false ∧ (chan 0 s).fence = none ∧ fget CEL_WAIT_LIMIT.limit_us s ≠ 0
      ∧ (chan 0 s).rx.queue ≠ [])
    ∧ ((chan 0 (cv 0 none)).ctx.conf.rxEn = true ∧ (cv 0 none).cvTest.rxAlone = false
        ∧ coverDescs (deliveredLen (chan 0 (cv 0 none)).ctx bs) 0 (chan 0 (cv 0 none)).rx.descs = .covered 1
        ∧ coverDescs (deliveredLen (chan 0 (cv 64 none)).ctx bs) 0 (chan 0 (cv 64 none)).rx.descs = .covered 1)
    ∧ ((chan 0 (cv 64 none)).log.free 6 < need (cv 64 none) ∧ need (cv 0 none) ≤ (chan 0 (cv 0 none)).log.free 6
        ∧ (chan 0 (cv 64 none)).ctx.logLog2 = 6 ∧ (chan 0 (cv 64 none)).rx.logWait ≠ some (ref bs false).frame
        ∧ (chan 0 (cv 64 (some 0))).rx.logWait = some (ref bs false).frame)
    ∧ need (at_ []) = 0
    ∧ deliveredLen (chan 0 many).ctx bs = 64 ∧ 4 < bs.length
    ∧ coverDescs 64 0 (chan 0 (at_ [{ len := 64 }])).rx.descs = .covered 1
    ∧ coverDescs 64 0 (chan 0 (at_ [{ len := 64, bad := some 1 }])).rx.descs = .malformed 1 1
    ∧ coverDescs 64 0 (chan 0 (at_ [])).rx.descs = .short
    ∧ coverDescs (deliveredLen (chan 0 many).ctx (List.replicate 129 0)) 0 (chan 0 many).rx.descs = .tooMany :=
  ⟨fun s hs => ⟨wfAll (l := [_, _, _, _, _, _, _]) (by decide +kernel) s hs, by revert s; decide +kernel⟩, by decide +kernel⟩

/-- WaitLimitDropsOrHolds: a frame in drop mode, one in pause mode with and without its hold, a limit of 0, and a write of
the limit while a frame waits that no descriptor covers. -/
theorem witness_WaitLimitDropsOrHolds :
    let q := fun h => ref (List.replicate 64 0) h
    let a := fun h => withFrame (held (List.replicate 64 0)) (withChan 8191 { running with rx := { queue := [q h] } } linked)
    let b := fun h => fset (CEL_PROF_MODE.mode 0 0) 1 (a h)
    let c := fset CEL_WAIT_LIMIT.limit_us 0 (a false)
    let d := withFrame (held (List.replicate 64 0)) (withChan 8191 { state := .running, left := .running, rx := { queue := [q false] } } linked)
    (∀ s ∈ [a false, b false, b true, c, d], s.wf ∧ live s = true)
    ∧ (regLive d = true ∧ portTurn d = d ∧ accepts 8191 d = true ∧ (chan 8191 d).rx.queue = [q false] ∧ waitsPaused (q false) d = false
        ∧ coverDescs (deliveredLen (chan 8191 d).ctx (q false).bytes) 0 (chan 8191 d).rx.descs = .short
        ∧ (chan 8191 d).rx.descOut = false ∧ (chan 8191 d).rx.fetch = (chan 8191 d).rx.prod ∧ (chan 8191 d).ctx.inflight = 0)
    ∧ (∀ s ∈ [a false, b false, c], (chan 8191 s).rx.queue.find? (fun r => r.frame == 0) = some (q false))
    ∧ (∀ s ∈ [a false, b false, b true], fget CEL_WAIT_LIMIT.limit_us s ≠ 0) ∧ waitsPaused (q false) (a false) = false
    ∧ (frame 0 (b false) = some (held (List.replicate 64 0)) ∧ waitsPaused (q false) (b false) = true)
    ∧ ((chan 8191 (b true)).rx.queue.find? (fun r => r.frame == 0) = some (q true) ∧ waitsPaused (q true) (b true) = true
        ∧ (q true).held = true) ∧ fget CEL_WAIT_LIMIT.limit_us c = 0 :=
  ⟨fun s hs => ⟨wfAll (l := [_, _, _, _, _]) (by decide +kernel) s hs, by revert s; decide +kernel⟩,
    ⟨by decide +kernel, rfl, by decide +kernel⟩, by decide +kernel⟩

/-- EntryAcknowledged: the entry that waits first, one behind another, and one that has failed, on the transmit and on the
receive side. -/
theorem witness_EntryAcknowledged :
    let tx : Purpose := .entry 0 { chan := 0 } 1 0
    let rx : Purpose := .entry 0 { chan := 0, rx := true } 1 0
    let a := withRequest (req0 true 32 tx) (withChan 0 { running with tx := { marks := [⟨1, false, false⟩] } } linked)
    let b := withRequest (req0 true 32 tx) (withChan 0 { running with tx := { marks := [⟨0, false, false⟩, ⟨1, false, false⟩] } } linked)
    let c := withRequest (req0 true 32 rx) (withChan 0 { running with rx := { marks := [⟨1, false, false⟩, ⟨2, false, false⟩] } } linked)
    let d := withRequest (req0 true 32 tx) (withChan 0 { running with tx := { marks := [⟨1, false, true⟩] } } linked)
    (∀ s ∈ [a, b, c, d], s.wf ∧ (chan 0 s).state = .running ∧ (chan 0 s).fence = none)
    ∧ (∀ x ∈ [(req0 true 32 tx, a), (req0 true 32 tx, b), (req0 true 32 rx, c), (req0 true 32 tx, d)], Awaits 0 x.1 x.2)
    ∧ (chan 0 a).tx.marks = [⟨1, false, false⟩] ∧ (chan 0 b).tx.marks = [⟨0, false, false⟩, ⟨1, false, false⟩] ∧ (0 : Word) ≠ 1
    ∧ (chan 0 c).rx.marks = [⟨1, false, false⟩, ⟨2, false, false⟩] ∧ (chan 0 d).tx.marks = [⟨1, false, true⟩] :=
  ⟨fun s hs => ⟨wfAll (l := [_, _, _, _]) (by decide +kernel) s hs, by revert s; decide +kernel⟩, awaitsAll (by decide +kernel),
    by decide +kernel⟩

/-- CompletionRingsAdvance: a stalled ring, before and after its alert and with a stall time of 0; a moderated ring with
entries that no event covers; a ring in no such state; and a cons_index a whole ring behind, and one further. -/
theorem witness_CompletionRingsAdvance :
    let a := withRing 4095 { held := true, stalled := true, stallTime := 1 } linked
    let b := withRing 4095 { held := true, stalled := true, alerted := true, stallTime := 1 } linked
    let c := withRing 4095 { held := true, timer := true, eventEn := true, since := 1 } linked
    let d := withRequest (req0 false 4 (.consIndex 4095))
      (withRing 4095 { held := true, prod := 64 } (withChan 0 { running with ctx := { cring := 4095 } } linked))
    (∀ s ∈ [a, b, c, d, linked], s.wf ∧ live s = true)
    ∧ ((ring 4095 a).stalled = true ∧ (ring 4095 a).consOut = false ∧ (ring 4095 a).alerted = false ∧ (ring 4095 a).stallTime ≠ 0)
    ∧ (ring 4095 b).alerted = true ∧ (ring 4095 linked).stallTime = 0
    ∧ ((ring 4095 c).timer = true ∧ (ring 4095 c).eventEn = true ∧ (ring 4095 c).since ≠ 0)
    ∧ (ring 4095 linked).stalled = false ∧ (ring 4095 linked).timer = false
    ∧ (∀ x ∈ [(req0 false 4 (.consIndex 4095), d)], Awaits 0 x.1 x.2)
    ∧ ((leBytes 4 0).length = 4 ∧ used (ring 4095 d).prod 0 ≤ 2 ^ (ring 4095 d).sizeLog2
        ∧ 2 ^ (ring 4095 d).sizeLog2 < used (ring 4095 d).prod 0xFFFFFFFF)
    ∧ (chan 0 d).state = .running ∧ (chan 0 d).ctx.cring = 4095 ∧ (chan 0 d).fence = none :=
  ⟨fun s hs => ⟨wfAll (l := [_, _, _, _, _]) (by decide +kernel) s hs, by revert s; decide +kernel⟩, by decide +kernel,
    by decide +kernel, by decide +kernel, by decide +kernel, by decide +kernel, by decide +kernel,
    awaitsAll (by decide +kernel), by decide +kernel⟩

/-! ### Rows, ports and presses -/

/-- A frame that port 255 takes. -/
def goodFrame : Bytes := frame64 (List.replicate 6 0xFF) 0x0800 []

/-- An arrival of a frame. -/
def arrival (bs : Bytes) : RxArrival := ⟨bs, 0, 0xD5, false, false⟩

/-- The receive check of port 255, with the registers as they stand. -/
def check255 (x : RxArrival) (s : State) : Option (Nat × Option Fld) :=
  rxCheck (fbit (PRT_MAC_CFG.rx_en 255) s) (maxFrame 255 s) 255 x s

/-- FramesAreCheckedAndAdmitted: a frame that passes, one that the staging cannot take, one cut by a byte; during a drain;
a port that is off; and arrivals that each pool takes and that each reason drops. -/
theorem witness_FramesAreCheckedAndAdmitted :
    let a := onPort 255 {} up
    let b := { a with power := { a.power with drain := some .powerFail } }
    let f := held goodFrame
    let c := fset (CEL_PROF_GUAR.guar 0 0) 0 { up with cellar := { up.cellar with arrivals := [(0, f)] } }
    let g := fset (CEL_PROF_GUAR.guar 0 0) 1 c
    let h := fset (CEL_PROF_MODE.headroom 0 0) 1 (fset CEL_CFG.headroom_units 1 (fset (CEL_PROF_MODE.mode 0 0) 1
      { c with cellar := { c.cellar with charges := [(255 * 8, { xoff := true })] } }))
    let i := fset (CEL_PROF_HIGH.high 0 0) 1 { c with cellar := { c.cellar with charges := [(255 * 8, { shared := 1 })] } }
    (∀ s ∈ [a, b, up, c, g, h, i], s.wf ∧ live s = true ∧ fbit (PRT_MAC_CFG.loopback 255) s = false)
    ∧ (takesFrames 255 a = true ∧ a.power.drain = none ∧ check255 (arrival goodFrame) a = none
        ∧ beAt 12 2 goodFrame ≠ 0x8808 ∧ addrPass 255 goodFrame a = true ∧ (vlanOf 255 goodFrame a).2.2 = true)
    ∧ (check255 { arrival goodFrame with stagingFull := true } a).map (·.1) = some 0x12
    ∧ (check255 (arrival (goodFrame.drop 1)) a).map (·.1) = some 0x16
    ∧ (takesFrames 255 b = true ∧ b.power.drain ≠ none) ∧ (takesFrames 255 up = false ∧ up.power.dorm = 0)
    ∧ (∀ s ∈ [c, g, h, i], s.pending = [] ∧ s.time.due = [] ∧ s.cellar.arrivals = [(0, f)] ∧ pairOfPort 255 s = none
        ∧ ∀ k < 5, (press k s).window = [])
    ∧ f.port = some 255 ∧ admitDecision 255 f.prio (cellsFor f.bytes.length) c = .take .shared
    ∧ admitDecision 255 f.prio (cellsFor f.bytes.length) g = .take .guaranteed
    ∧ admitDecision 255 f.prio (cellsFor f.bytes.length) h = .take .headroom
    ∧ admitDecision 255 f.prio (cellsFor f.bytes.length) i = .drop 0x03 :=
  ⟨fun s hs => ⟨wfAll (l := [_, _, _, _, _, _, _]) (by decide +kernel) s hs, by revert s; decide +kernel⟩, by decide +kernel,
    by decide +kernel, by decide +kernel, by decide +kernel, by decide +kernel, by decide +kernel, by decide +kernel⟩

/-- A PFC frame with all eight timers. -/
def pfcFrame : Bytes := frame64 pauseDa 0x8808 (beBytes 2 0x0101 ++ beBytes 2 0xFF ++ (List.range 8).flatMap fun i => beBytes 2 (i + 1))

/-- PauseTimersAndFrames: an xoff state in modes 1 and 2, a frame that is due in each, a PFC frame, its load and a link pause's
of 0 and of the greatest time, and xoff states that change and that stay, of a port without a charge among them. -/
theorem witness_PauseTimersAndFrames :
    let x := fun (c : Charge) (m : Nat) (p : Port) => fset (PRT_PFC_CFG.tx_mode 255) m (fset (PRT_PFC_CFG.rx_pfc_en 255) 1
      (fset (PRT_PFC_CFG.pfc_tx_en 255) 0xFF (onPort 255 p { up with cellar := { up.cellar with charges := [(255 * 8 + 7, c)] } })))
    let a := x { guar := 1, xoff := true } 1 {}
    let b := x { guar := 1, xoff := true } 2 {}
    let c := x { guar := 1 } 1 { due := 0x80 }
    let d := x { guar := 1 } 2 { duePause := true }
    let l := fun (ls : List (PauseTimer × Nat)) => withPort 255 { loads := ls } up
    (∀ s ∈ [a, b, c, d, l (pfcTimes pfcFrame), l [(.link, 0)], l [(.link, 65535)], up],
      s.wf ∧ live s = true ∧ fbit (PRT_MAC_CFG.loopback 255) s = false)
    ∧ (∀ ls ∈ [pfcTimes pfcFrame, [(.link, 0)], [(.link, 65535)]], (l ls).pending = [] ∧ (port 255 (l ls)).loads = ls)
    ∧ (up.pending = [] ∧ up.cellar.arrivals = [] ∧ charge 255 7 up = {} ∧ nextXoff 255 7 up = false)
    ∧ (fget (PRT_PFC_CFG.tx_mode 255) a = 1 ∧ (charge 255 7 a).xoff = true ∧ (fget (PRT_PFC_CFG.pfc_tx_en 255) a).testBit 7 = true)
    ∧ (fget (PRT_PFC_CFG.tx_mode 255) b = 2 ∧ anyXoff 255 b = true)
    ∧ (∀ s ∈ [c, d], rowTakes 31 s = true ∧ ctlReady 255 s = true ∧ atBoundary 255 s = true ∧ (port 255 s).txLpi = 0)
    ∧ (a.power.drain = none ∧ takesFrames 255 a = true ∧ check255 (arrival pfcFrame) a = none ∧ beAt 12 2 pfcFrame = 0x8808
        ∧ beAt 14 2 pfcFrame = 0x0101 ∧ pfcFrame.take 6 = pauseDa ∧ fbit (PRT_PFC_CFG.rx_pfc_en 255) a = true)
    ∧ (∀ s ∈ [a, c], s.pending = [] ∧ s.cellar.arrivals = [] ∧ charge 255 7 s ≠ {})
    ∧ nextXoff 255 7 a = false ∧ nextXoff 255 7 c = (charge 255 7 c).xoff :=
  ⟨fun s hs => ⟨wfAll (l := [_, _, _, _, _, _, _, _]) (by decide +kernel) s hs, by revert s; decide +kernel⟩, by decide +kernel⟩

/-- A frame that waits in a forwarding queue. -/
def item : FwdItem := { frame := none, bytes := goodFrame, unmodified := true, oneStep := .off, ingress := {}, item := 0 }

/-- SchedulerTakesSelectedFrame: a forwarding queue of the highest class with a frame, before which no stage comes; one of
the lowest class, before which no stage selects; a port without a frame, and one whose only class with one is paused. -/
theorem witness_SchedulerTakesSelectedFrame :
    let at_ := fun tc : Nat => onPort 255 { queues := [(tc, [item])], rounds := [(roundKey tc 1, { members := [(.fwd, 0)] })] } up
    let a := at_ 7
    let b := at_ 0
    let c := onPort 255 {} up
    let d := onPort 255 { queues := [(7, [item])], pause := [0, 0, 0, 0, 0, 0, 0, 1] } (fset (PRT_PFC_CFG.rx_pfc_en 255) 1 up)
    (∀ s ∈ [a, b, c, d], s.wf ∧ live s = true ∧ mayStart 255 s = true ∧ pairOfPort 255 s = none)
    ∧ (paused 255 7 d = true ∧ ∀ e ∈ classOrder, (selectIn 255 e.1 e.2 d).1 = none)
    ∧ (classOrder = [(7, 0)] ++ (7, 1) :: classOrder.drop 2 ∧ (selectIn 255 7 0 a).1 = none ∧ paused 255 7 a = false
        ∧ (selectIn 255 7 1 a).1 = some .fwd ∧ headOf 255 7 .fwd a = some (.fwd item))
    ∧ (classOrder = classOrder.take 15 ++ (0, 1) :: [] ∧ (∀ e ∈ classOrder.take 15, (selectIn 255 e.1 e.2 b).1 = none)
        ∧ paused 255 0 b = false ∧ (selectIn 255 0 1 b).1 = some .fwd ∧ headOf 255 0 .fwd b = some (.fwd item))
    ∧ ∀ e ∈ classOrder, (selectIn 255 e.1 e.2 c).1 = none :=
  ⟨fun s hs => ⟨wfAll (l := [_, _, _, _]) (by decide +kernel) s hs, by revert s; decide +kernel⟩, by decide +kernel, by decide +kernel, by decide +kernel,
    by decide +kernel⟩

/-- StagedFrameGoesOut: a stored frame with a good and with a bad CRC, held by the cellar; tx_en 0, a pause frame due, and
its class paused. -/
theorem witness_StagedFrameGoesOut :
    let cur := fun bs : Bytes => { src := .fwd { item with frame := some 0, bytes := bs }, tc := 0, bytes := bs, oneStep := .off,
                                   seqTag := none : TxCur }
    let bad := goodFrame.set 0 0#8
    let a := withFrame (held goodFrame) (onPort 255 { cur := some (cur goodFrame) } up)
    let b := withFrame (held bad) (onPort 255 { cur := some (cur bad) } up)
    let c := fset (PRT_MAC_CFG.tx_en 255) 0 a
    let d := fset (PRT_PFC_CFG.tx_mode 255) 2 (onPort 255 { cur := some (cur goodFrame), duePause := true } up)
    let e := onPort 255 { cur := some (cur goodFrame), pause := [1, 0, 0, 0, 0, 0, 0, 0] } (fset (PRT_PFC_CFG.rx_pfc_en 255) 1 up)
    (∀ s ∈ [a, b, c, d, e], s.wf ∧ live s = true)
    ∧ (paused 255 (cur goodFrame).tc e = true ∧ paused 255 (cur goodFrame).tc a = false ∧ paused 255 (cur bad).tc b = false)
    ∧ (∀ s ∈ [a, c, d, e], (port 255 s).cur = some (cur goodFrame) ∧ curWhole (cur goodFrame) s = true) ∧ (cur goodFrame).onMii = false
    ∧ (fbit (PRT_MAC_CFG.tx_en 255) a = true ∧ ctlReady 255 a = false ∧ internalFcsBad (cur goodFrame) = false)
    ∧ ((port 255 b).cur = some (cur bad) ∧ curWhole (cur bad) b = true ∧ fbit (PRT_MAC_CFG.tx_en 255) b = true ∧ ctlReady 255 b = false
        ∧ internalFcsBad (cur bad) = true ∧ b.errors.count < 64)
    ∧ (frame 0 a = some (held goodFrame) ∧ (held goodFrame).refs ≤ 1)
    ∧ fbit (PRT_MAC_CFG.tx_en 255) c = false ∧ ctlReady 255 d = true :=
  ⟨fun s hs => ⟨wfAll (l := [_, _, _, _, _]) (by decide +kernel) s hs, by revert s; decide +kernel⟩, by decide +kernel⟩

/-- FrameEndFreesAndSends: a port-to-port frame held by the cellar, the last copy of a chain, and a port in loopback. -/
theorem witness_FrameEndFreesAndSends :
    let cur := { src := .fwd { item with frame := some 0 }, tc := 0, bytes := goodFrame, oneStep := .off, seqTag := none, onMii := true : TxCur }
    let k := { chain1 .launched [] with copies := [{ port := 255, tc := 0, bytes := goodFrame, oneStep := .off, phase := .started }] }
    let a := withFrame (held goodFrame) (onPort 255 { cur := some cur } up)
    let b := onPort 255 { cur := some { cur with src := .chain 0 0 } } (withChan 0 { running with tx := { chains := [k] } } linked)
    let c := fset (PRT_MAC_CFG.loopback 255) 1 a
    (∀ s ∈ [a, b, c], s.wf ∧ live s = true)
    ∧ ((port 255 a).cur = some cur ∧ cur.onMii = true ∧ fbit (PRT_MAC_CFG.loopback 255) a = false
        ∧ frame 0 a = some (held goodFrame) ∧ (held goodFrame).refs ≤ 1)
    ∧ ((port 255 b).cur = some { cur with src := .chain 0 k.first } ∧ (chan 0 b).tx.chains = [k] ∧ (chan 0 b).state = .running
        ∧ (k.copies.all fun y => y.port == 255 && y.phase == .started) = true)
    ∧ ((port 255 c).cur = some cur ∧ fbit (PRT_MAC_CFG.loopback 255) c = true ∧ takesFrames 255 c = true) :=
  ⟨fun s hs => ⟨wfAll (l := [_, _, _]) (by decide +kernel) s hs, by revert s; decide +kernel⟩, by decide +kernel⟩

/-- LinkAndLowPowerIdle: a port whose link is up, one without and one with a hold, one whose hold runs, and one that may
enter LPI and one that wakes; and the end of the cycle of an idle time, with and without a frame that has become ready. -/
theorem witness_LinkAndLowPowerIdle :
    let a := fset (ROW_LPI_CFG.lpi_en 31) 0x80 (onPort 255 {} up)
    let b := fset (PRT_MAC_CFG.link_hold 255) 1 (withPort 255 { holding := true } a)
    let c := fset (PRT_MAC_CFG.link_hold 255) 0 a
    let d := withPort 255 { txLpi := 1 } a
    let rests := fset (ROW_LPI_CFG.lpi_en 31) 0x80 (onPort 255 { lpiDue := true } up)
    let ready := fset (ROW_LPI_CFG.lpi_en 31) 0x80 (onPort 255 { lpiDue := true, queues := [(0, [item])] } up)
    (∀ s ∈ [rests, ready], s.pending = [] ∧ s.cellar.arrivals = [] ∧ s.cellar.charges = [] ∧ s.time.due = []
        ∧ (∀ k < 5, (press k s).window = []) ∧ (port 255 s).lpiDue = true ∧ (port 255 s).txLpi = 0)
    ∧ (mayRest 255 rests = true ∧ txQueued 255 ready ≠ 0)
    ∧ (∀ s ∈ [a, b, c, d, rests, ready], s.wf ∧ live s = true ∧ evaluates 255 s = true ∧ fbit (PRT_MAC_CFG.loopback 255) s = false)
    ∧ LinkFault.localFault ≠ .ok ∧ (port 255 a).linkUp = true
    ∧ (fget (PRT_MAC_CFG.link_hold 255) c = 0 ∧ (port 255 c).holding = false)
    ∧ (fget (PRT_MAC_CFG.link_hold 255) b ≠ 0 ∧ (port 255 b).linkUp = false ∧ (port 255 b).holding = true ∧ (port 255 b).fault = .ok)
    ∧ ((fget (ROW_LPI_CFG.lpi_en 31) a).testBit 7 = true ∧ lpiCapable 255 a = true ∧ (port 255 a).cur = none
        ∧ (port 255 a).txLpi = 0 ∧ txQueued 255 a = 0 ∧ ctlReady 255 a = false)
    ∧ (port 255 d).txLpi = 1 :=
  ⟨by decide +kernel, by decide +kernel, fun s hs => ⟨wfAll (l := [_, _, _, _, _, _]) (by decide +kernel) s hs, by revert s; decide +kernel⟩, by decide +kernel⟩

/-- RowsAreEnabledAndDisabled: row 31 off and on, with no reason to refuse and with one; enabling and disabling. -/
theorem witness_RowsAreEnabledAndDisabled :
    let on := fun s => fset GLB_ROW_EN.row_en (2 ^ 31) (withRow 31 { state := 2 } s)
    let busy := fun s : State => { s with racking := { s.racking with state := 1 } }
    (∀ s ∈ [up, on up, busy up, busy (on up), withRow 31 { state := 1 } up, withRow 31 { state := 3 } up], s.wf ∧ auxPort s = true)
    ∧ ((fget GLB_ROW_EN.row_en up).testBit 31 = false ∧ enableRefusal 31 up = none)
    ∧ ((fget GLB_ROW_EN.row_en (on up)).testBit 31 = true ∧ disableRefusal 31 (on up) = none)
    ∧ ((fget GLB_ROW_EN.row_en (busy up)).testBit 31 = false ∧ enableRefusal 31 (busy up) = some 6)
    ∧ ((fget GLB_ROW_EN.row_en (busy (on up))).testBit 31 = true ∧ disableRefusal 31 (busy (on up)) = some 6)
    ∧ (live (withRow 31 { state := 1 } up) = true ∧ (row 31 (withRow 31 { state := 1 } up)).state = 1)
    ∧ (live (withRow 31 { state := 3 } up) = true ∧ (row 31 (withRow 31 { state := 3 } up)).state = 3) :=
  ⟨fun s hs => ⟨wfAll (l := [_, _, _, _, _, _]) (by decide +kernel) s hs, by revert s; decide +kernel⟩, by decide +kernel⟩

/-- CalendarFollowsRowCfg: a row that is off, with a generated and with a manual calendar, and one that is on. -/
theorem witness_CalendarFollowsRowCfg :
    let a := fset (ROW_CAL_CFG.manual 31) 1 up
    let b := withRow 31 { state := 2 } up
    (∀ s ∈ [up, a, b], s.wf ∧ regLive s = true) ∧ (row 31 up).state = 0 ∧ fbit (ROW_CAL_CFG.manual 31) up = false
    ∧ (row 31 a).state = 0 ∧ fbit (ROW_CAL_CFG.manual 31) a = true ∧ (row 31 b).state ≠ 0 :=
  ⟨fun s hs => ⟨wfAll (l := [_, _, _]) (by decide +kernel) s hs, by revert s; decide +kernel⟩, by decide +kernel⟩

/-- RowErrorsRecoveryAndSparing: a row whose calendar has an entry of no port, and one of port 7, in and out of loopback;
an anchor; a copy of a bank, with none and with words that were read badly, that another bank waits behind. -/
theorem witness_RowErrorsRecoveryAndSparing :
    let a := onPort 255 {} up
    let b := fset (ROW_CAL.entry7 31 0) 15 a
    let c := fset (PRT_MAC_CFG.loopback 255) 1 b
    let d := fset (ROW_TWIN_CFG.twin_en 31) 1 (fset (ROW_TWIN_CFG.anchor 31) 1 (fset (ROW_TWIN_CFG.reset_ms 31) 1
      (fset (ROW_TWIN_CFG.partner_port 31) 255 (fset (ROW_TWIN_CFG.history_len 31) 128 a))))
    let e := { up with cellar := { up.cellar with copyBank := some 63 } }
    let f := { up with cellar := { up.cellar with copyBank := some 63, copySpare := 1, wanting := [5] } }
    (∀ s ∈ [a, b, c, d, e, f], s.wf ∧ live s = true)
    ∧ (rowTakes 31 a = true ∧ (calendar 31 a).any (· < 8) = true)
    ∧ (rowTakes 31 b = true ∧ (calendar 31 b).contains 15 = true ∧ fbit (PRT_MAC_CFG.loopback 255) b = false)
    ∧ (rowTakes 31 c = true ∧ (calendar 31 c).contains 15 = true ∧ fbit (PRT_MAC_CFG.loopback 255) c = true)
    ∧ ((pairOfRow 31 d).map (·.anchor) = some 31 ∧ fget (ROW_TWIN_CFG.reset_ms 31) d ≠ 0)
    ∧ (e.cellar.copyBank = some 63 ∧ e.cellar.wanting = [] ∧ e.cellar.copySpare = 0)
    ∧ (f.cellar.copyBank = some 63 ∧ wordBank ⟨0x3FFFF, 3⟩ = 63) :=
  ⟨fun s hs => ⟨wfAll (l := [_, _, _, _, _, _]) (by decide +kernel) s hs, by revert s; decide +kernel⟩, by decide +kernel⟩

/-- A copy of frame 0 in a press's window, dealt to lane 7. -/
def copy0 : Copy := { seq := 0, rx := true, row := 31, lane := 7, item := .frame 0, cfg := {}, dealt := 0, ready := none }

/-- CopiesAreDealtInOrder: a waiting copy at an edge of the press's clock, before and after a write of a register in its
cycle, a full window, one that was full, a stopped press, one with nothing to deal, and one between edges. -/
theorem witness_CopiesAreDealtInOrder :
    let w : WaitCopy := { handed := false, cycle := 0, row := 31, rx := true, port := 7, item := .frame 0 }
    let a := withPress 4 { waiting := [w] } up
    let b := withPress 4 { waiting := [w], window := List.replicate 256 copy0 } up
    let c := withPress 4 { waiting := [w], stopped := true } up
    let d := { withPress 4 { waiting := [w], div := 1 } up with time := { up.time with dclk := 1 } }
    let e := withPress 4 { waiting := [w], full := true } up
    let f := withPress 4 { waiting := [w], cfgOld := some {} } up
    (∀ s ∈ [a, b, c, d, up, e, f], s.wf ∧ live s = true)
    ∧ (pressEdge 4 e = true ∧ (press 4 e).full = true ∧ cfgInForce 4 f = {} ∧ cfgInForce 4 a = pressCfg 4 a)
    ∧ (pressEdge 4 f = true ∧ (press 4 f).waiting = [w] ∧ (press 4 f).full = false)
    ∧ (pressEdge 4 a = true ∧ (press 4 a).waiting = [w] ∧ (press 4 a).full = false ∧ (press 4 a).stopped = false ∧ (press 4 a).window.length < 256
        ∧ (press 4 a).taken.contains (nextLane 4 (press 4 a).lastLane a) = false ∧ laneIn 4 (nextLane 4 (press 4 a).lastLane a) a = true)
    ∧ (pressEdge 4 up = true ∧ (press 4 up).waiting = []) ∧ (pressEdge 4 b = true ∧ 256 ≤ (press 4 b).window.length)
    ∧ (pressEdge 4 c = true ∧ (press 4 c).stopped = true) ∧ pressEdge 4 d = false :=
  ⟨fun s hs => ⟨wfAll (l := [_, _, _, _, _, _, _]) (by decide +kernel) s hs, by revert s; decide +kernel⟩, by decide +kernel⟩

/-- LaneResultRetiresCopy: the only copy, of a frame that is sent nowhere, of one that goes to the exception channel, and
of one that retires beyond the limit of the cycle. -/
theorem witness_LaneResultRetiresCopy :
    let f := fun type => held (frame64 (List.replicate 6 0xFF) type [])
    let at_ := fun (type n : Nat) => withFrame (f type) (withPress 4 { window := [copy0], retired := n } (withChan 8191 running linked))
    let a := at_ 0x9000 7
    let b := fset (PRS_CFG.slow_host 4) 1 (fset (PRS_CFG.exc_channel 4) 8191 (at_ 0x0806 0))
    let c := at_ 0x9000 8
    let d := fun s => (decideCopy 4 copy0 .clean {} (noteLatency 4 0 s)).1
    (∀ s ∈ [a, b, c], s.wf ∧ live s = true ∧ (press 4 s).window = [copy0] ∧ earlierResults 4 0 s = [] ∧ earlierResults 4 1 s = [])
    ∧ (copy0.lane = (7#3).toNat ∧ copy0.ready = none ∧ copy0.item = .frame 0)
    ∧ (frame 0 a = some (f 0x9000) ∧ (press 4 a).retired < 8 ∧ (d a).ports = [] ∧ (d a).slow = none ∧ (d a).chans = []
        ∧ (f 0x9000).refs ≤ 1)
    ∧ (frame 0 b = some (f 0x0806) ∧ (press 4 b).retired < 8 ∧ (d b).ports = [] ∧ (d b).slow = none
        ∧ (d b).chans = [⟨8191, .slow 12, 0, (f 0x0806).bytes, none⟩] ∧ (chan 8191 b).state = .running ∧ fget CEL_WAIT_LIMIT.limit_us b ≠ 0)
    ∧ (frame 0 c = some (f 0x9000) ∧ 8 ≤ (press 4 c).retired) :=
  ⟨fun s hs => ⟨wfAll (l := [_, _, _]) (by decide +kernel) s hs, by revert s; decide +kernel⟩, by decide +kernel⟩

/-- LaneTimeoutAndClear: a copy that waits on lane 7, with auto_lane_dis 0 and 1; and the clear of flags that leave a lane,
and of none while every lane is out. -/
theorem witness_LaneTimeoutAndClear :
    let a := withPress 4 { window := [copy0] } up
    let b := fset (PRS_REORDER_CFG.auto_lane_dis 4) 0 a
    let c := fset (PRS_REORDER_CFG.auto_lane_dis 4) 1 a
    (∀ s ∈ [a, b, c], s.wf ∧ live s = true ∧ regLive s = true ∧ copy0 ∈ (press 4 s).window ∧ s.errors.count < 64
      ∧ ∀ d ∈ (press 4 s).window, d.seq = copy0.seq → d = copy0)
    ∧ (copy0.ready = none ∧ copy0.lane < 8) ∧ fbit (PRS_REORDER_CFG.auto_lane_dis 4) b = false
    ∧ (fbit (PRS_REORDER_CFG.auto_lane_dis 4) c = true ∧ fget (PRS_CFG.lane_dis 4) c = 0 ∧ fget (PRS_LANE_STAT.lane_err 4) c = 0)
    ∧ fget (PRS_CFG.lane_dis 4) a ||| fget (PRS_LANE_STAT.lane_err 4) a ≠ 0xFF :=
  ⟨fun s hs => ⟨wfAll (l := [_, _, _]) (by decide +kernel) s hs, by revert s; decide +kernel⟩, by decide +kernel⟩

/-- PolicerIsCommitted: any state in which the registers are reached. -/
theorem witness_PolicerIsCommitted : up.wf ∧ regLive up = true := ⟨wf_of (by decide +kernel), rfl⟩

/-! ### Gates, check-value units -/

/-- GateListIsLoaded: a load for port 7 of row 31 of 1 and of 1024 entries, of none and of one too many, while the loader is
busy, while a list of the port waits, and without a go; a legal image, one that is not, and an error response. -/
theorem witness_GateListIsLoaded :
    let go := fun k : Nat => (BitVec.ofNat 32 (2 ^ 31 + 7 * 2 ^ 24 + k) : Word)
    let a := withRow 31 { gateBusy := true } up
    let b := withPort 255 { pendingGate := some ⟨[], 800, 0⟩ } up
    let c := withRequest (req0 false 8 (.gateImage 31)) (withRow 31 { gateBusy := true, gatePort := 255, gateEntries := 1 } linked)
    Awaits 0 (req0 false 8 (.gateImage 31)) c ∧ (req0 false 8 (.gateImage 31)).port = some 0
    ∧ (∀ s ∈ [up, a, b, c], s.wf) ∧ (∀ s ∈ [up, a, b], regLive s = true)
    ∧ (∀ k ∈ [0, 1, 1024, 1025], 8 * 31 + bits (go k).toNat 26 24 = 255 ∧ bits (go k).toNat 10 0 = k ∧ (go k).toNat.testBit 31 = true)
    ∧ (row 31 a).gateBusy = true ∧ (0 : Word).toNat.testBit 31 = false
    ∧ ((row 31 up).gateBusy = false ∧ (port 255 up).pendingGate = none)
    ∧ ((row 31 b).gateBusy = false ∧ (port 255 b).pendingGate ≠ none)
    ∧ (auxPort c = true ∧ c.fabric.reqs = [req0 false 8 (.gateImage 31)] ∧ (func 0 c).qState = 0)
    ∧ ((leBytes 4 1 ++ leBytes 4 0xFF).length = 8 * (row 31 c).gateEntries
        ∧ parseGates (row 31 c).gateEntries (leBytes 4 1 ++ leBytes 4 0xFF) = some [⟨1, 0xFF⟩])
    ∧ ((leBytes 8 0).length = 8 * (row 31 c).gateEntries ∧ parseGates (row 31 c).gateEntries (leBytes 8 0) = none) :=
  ⟨awaitsAll (l := [(_, _)]) (by decide +kernel) _ (List.mem_singleton.mpr rfl), rfl, wfAll (by decide +kernel), by decide +kernel⟩

/-- GateListsAreCommittedAndSwitched: a port without an admin list; one with it and the greatest base time that is legal,
one beyond it, and a loader that is busy for the port; a pending list at its start, and one before it. -/
theorem witness_GateListsAreCommittedAndSwitched :
    let a := withPort 255 { admin := some [⟨1, 0xFF⟩] } up
    let b := fset (PRT_GATE_BASE_NS.ns 255) 999999999 a
    let c := fset (PRT_GATE_BASE_NS.ns 255) 1000000000 a
    let d := withRow 31 { gateBusy := true, gatePort := 255 } a
    let e := withPort 255 { pendingGate := some ⟨[⟨1, 0xFF⟩], 800, 0⟩ } up
    let f := withPort 255 { pendingGate := some ⟨[⟨1, 0xFF⟩], 800, 1⟩ } up
    (∀ s ∈ [up, a, b, c, d, e, f], s.wf ∧ regLive s = true ∧ live s = true ∧ s.time.due ++ s.time.next = [])
    ∧ portTurn up = up ∧ portTurn b = b ∧ portTurn c = c ∧ portTurn d = d
    ∧ (port 255 up).admin = none ∧ (port 255 up).pendingGate = none
    ∧ ((port 255 c).admin = some [⟨1, 0xFF⟩] ∧ 999999999 < fget (PRT_GATE_BASE_NS.ns 255) c)
    ∧ ((port 255 b).admin = some [⟨1, 0xFF⟩] ∧ fget (PRT_GATE_BASE_NS.ns 255) b = 999999999 ∧ (row (255 / 8) b).gateBusy = false)
    ∧ ((port 255 d).admin = some [⟨1, 0xFF⟩] ∧ fget (PRT_GATE_BASE_NS.ns 255) d ≤ 999999999
        ∧ (row (255 / 8) d).gateBusy = true ∧ (row (255 / 8) d).gatePort = 255)
    ∧ ((port 255 e).pendingGate = some ⟨[⟨1, 0xFF⟩], 800, 0⟩ ∧ 0 ≤ ptpNow e)
    ∧ ((port 255 f).pendingGate = some ⟨[⟨1, 0xFF⟩], 800, 1⟩ ∧ ptpNow f < 1) :=
  ⟨fun s hs => ⟨wfAll (l := [_, _, _, _, _, _, _]) (by decide +kernel) s hs, by revert s; decide +kernel⟩, rfl, rfl, rfl, rfl,
    by decide +kernel⟩

/-- CheckValueTestAndLogRing: a block that is active and none; a log ring whose prod is due and one whose is not, one for
which an item waits and none; a cons in range, a whole ring behind, and one beyond. -/
theorem witness_CheckValueTestAndLogRing :
    let a := { up with cvTest := { active := true } }
    let b := withChan 8191 { running with log := { prod := 1, prodDirty := true }, tx := { logWait := some 0 } } linked
    let c := withRequest (req0 false 4 (.logCons 8191))
      (withChan 8191 { running with log := { prod := 64 }, ctx := { logLog2 := 6 } } linked)
    (∀ s ∈ [up, a, b, c], s.wf ∧ regLive s = true ∧ live s = true)
    ∧ a.cvTest.active = true ∧ up.cvTest.active = false
    ∧ (chan 8191 b).log.prodDue false = true ∧ (chan 8191 c).log.prodDue false = false
    ∧ ((chan 8191 b).logWaits = true ∧ (chan 8191 b).log.consOut = false) ∧ (chan 8191 c).logWaits = false
    ∧ (∀ x ∈ [(req0 false 4 (.logCons 8191), c)], Awaits 0 x.1 x.2)
    ∧ ((leBytes 4 0).length = 4 ∧ (chan 8191 c).state = .running
        ∧ (chan 8191 c).log.consBad (chan 8191 c).ctx.logLog2 0 = false
        ∧ (chan 8191 c).log.consBad (chan 8191 c).ctx.logLog2 0xFFFFFFFF = true) :=
  ⟨fun s hs => ⟨wfAll (l := [_, _, _, _]) (by decide +kernel) s hs, by revert s; decide +kernel⟩, by decide +kernel,
    by decide +kernel, by decide +kernel, by decide +kernel, by decide +kernel, by decide +kernel, awaitsAll (by decide +kernel),
    by decide +kernel⟩

/-! ### The table engine -/

/-- A command of the firmware: its fields, its index and its image. -/
def tblCmd (opcode table replica : Nat) (fan : Bool) (slot ticket index : Nat) (image : Bytes) : TblCmd :=
  { fromRing := false, index := 0, data := [], fault := false
    bytes := leBytes 4 (opcode + table * 2 ^ 8 + replica * 2 ^ 12 + b2n fan * 2 ^ 15 + slot * 2 ^ 16 + ticket * 2 ^ 20)
      ++ leBytes 4 index ++ leBytes 8 0 ++ (image ++ List.replicate 32 0).take 32 ++ List.replicate 16 0 }

/-- s with command c the next that the engine serves. -/
def serving (c : TblCmd) (s : State) : State :=
  fset TBL_CTL.en 1 (fset TBL_EVICT_CFG.evict_en 0 <| fset TBL_LEARN_CFG.mode 0 { s with engine := { s.engine with cmQ := [c] } })

/-- The engine serves command c, as a Bool. -/
def servesB (opcode : Nat) (c : TblCmd) (s : State) : Bool :=
  live s && nextCmd s == some c && c.fields.opcode == opcode && !c.fields.res0

theorem serves_of {n : Nat} {c : TblCmd} {s : State} (h : servesB n c s = true) : Serves n c s := by
  simp only [servesB, Bool.and_eq_true, beq_iff_eq, Bool.not_eq_true'] at h
  exact ⟨h.1.1.1, h.1.1.2, h.1.2, h.2⟩

/-- s with replica k as given. -/
def withReplica (k : Nat) (r : Replica) (s : State) : State := { s with replicas := mputD {} k r s.replicas }

/-- The keys of two entries, one of each width, and the entries. -/
def keyA : EmKey := .mac 1 5
def keyB : EmKey := .host 1 true 7
def entryA : EmEntry := ⟨keyA, 1, 0, false, 0, 7⟩
def entryB : EmEntry := ⟨keyB, 1, 0, true, 0, 7⟩

/-- TablesAreRead: the last entry of the VID table; keys of both widths that are held and one that is not; and a dump of the
last bucket, and of 4096 buckets. -/
theorem witness_TablesAreRead :
    let a := serving (tblCmd 3 3 4 false 0 0 4095 []) up
    let b := fun (k : EmKey) (r : Replica) => serving (tblCmd 3 0 4 false 0 0 0 (⟨k, 1, 0, false, 0, 7⟩ : EmEntry).image) (withReplica 4 r up)
    let bA := b keyA { em := [(4 * keyBucket keyA up, entryA)] }
    let bB := b keyB { em := [(4 * keyBucket keyB up, entryB)] }
    let c := fun (i n : Nat) => serving (tblCmd 9 0 4 false 0 0 i (leBytes 4 n)) up
    (∀ s ∈ [a, bA, bB, b keyA {}, c 262143 1, c 258048 4096], s.wf)
    ∧ (Serves 3 (tblCmd 3 3 4 false 0 0 4095 []) a ∧ Serves 3 (tblCmd 3 0 4 false 0 0 0 entryA.image) bA
        ∧ Serves 3 (tblCmd 3 0 4 false 0 0 0 (⟨keyB, 1, 0, false, 0, 7⟩ : EmEntry).image) bB ∧ Serves 9 (tblCmd 9 0 4 false 0 0 262143 (leBytes 4 1)) (c 262143 1)
        ∧ Serves 9 (tblCmd 9 0 4 false 0 0 258048 (leBytes 4 4096)) (c 258048 4096))
    ∧ (let f := (tblCmd 3 3 4 false 0 0 4095 []).fields
       f.table = 3 ∧ f.index = 4095 ∧ f.replica = 4 ∧ f.addr % 16 = 0 ∧ f.useLock = false)
    ∧ (let f := (tblCmd 3 0 4 false 0 0 0 entryA.image).fields
       f.table = 0 ∧ f.replica = 4 ∧ f.addr % 16 = 0 ∧ f.useLock = false ∧ parseKey f.image = some keyA
       ∧ findKey (keyBucket keyA bA) keyA (replica 4 bA) = some (4 * keyBucket keyA up, entryA)
       ∧ findKey (keyBucket keyA (b keyA {})) keyA (replica 4 (b keyA {})) = none)
    ∧ (parseKey (tblCmd 3 0 4 false 0 0 0 (⟨keyB, 1, 0, false, 0, 7⟩ : EmEntry).image).fields.image = some keyB
        ∧ findKey (keyBucket keyB bB) keyB (replica 4 bB) = some (4 * keyBucket keyB up, entryB))
    ∧ ∀ x ∈ [(262143, 1), (258048, 4096)],
        (let f := (tblCmd 9 0 4 false 0 0 x.1 (leBytes 4 x.2)).fields
         f.table = 0 ∧ f.replica = 4 ∧ f.addr % 16 = 0 ∧ bit f.index 31 = false ∧ f.index = x.1 ∧ leAt 0 4 f.image = x.2
         ∧ x.1 + x.2 ≤ 262144) :=
  ⟨wfAll (by decide +kernel), ⟨serves_of (by decide +kernel), serves_of (by decide +kernel), serves_of (by decide +kernel),
    serves_of (by decide +kernel), serves_of (by decide +kernel)⟩, by decide +kernel⟩

/-- c with the given bits of its first word set as well. -/
def flagged (n : Nat) (c : TblCmd) : TblCmd := { c with bytes := leBytes 4 (leAt 0 4 c.bytes + n) ++ c.bytes.drop 4 }

/-- An LPM entry of the longest prefix. -/
def lpmA : LpmEntry := ⟨1, true, 128, 7, 0⟩

/-- TablesAreRead, the other forms: the last entry of each indexed table; an LPM key that is held and one that is not; with
use_lock a table without locks, a lock of another ticket, another bucket, and the lock's bucket with a staged entry and with
none; and a dump of the overflow store, its last bucket and all. -/
theorem witness_TablesAreRead_forms :
    let a := fun t : Nat => tblCmd 3 t 4 false 0 0 (tableSize t - 1) []
    let l := tblCmd 3 1 4 false 0 0 0 (lpmA.bytes 0)
    let b := keyBucket keyA up
    let locked := fun (n : Nat) (st : List Staged) =>
      let l : LockSlot := { ticket := 9, held := true, all := true, bucket := n, staged := st }
      { up with engine := { up.engine with locks := setNth 15 l up.engine.locks } }
    let u := fun ticket : Nat => flagged (2 ^ 28) (tblCmd 3 0 4 false 15 ticket 0 entryA.image)
    let d := fun (i n : Nat) => tblCmd 9 0 4 false 0 0 (2 ^ 31 + i) (leBytes 4 n)
    (∀ t ∈ [2, 3, 4, 5, 6, 7, 8], Serves 3 (a t) (serving (a t) up))
    ∧ (∀ t ∈ [2, 3, 4, 5, 6, 7, 8], (a t).fields.table = t ∧ (a t).fields.index < tableSize t ∧ (a t).fields.replica = 4
        ∧ (a t).fields.addr % 16 = 0 ∧ (a t).fields.useLock = false)
    ∧ (Serves 3 l (serving l up) ∧ l.fields.table = 1 ∧ l.fields.useLock = false ∧ lpmKey l.fields.image = some lpmA
        ∧ findLpm 1 true 128 7 (replica 4 (withReplica 4 { lpm := [(65534, lpmA)] } up)) = some (65534, lpmA)
        ∧ findLpm 1 true 128 7 (replica 4 up) = none)
    ∧ (∀ c ∈ [flagged (2 ^ 28) (a 3), flagged (2 ^ 28) l], Serves 3 c (serving c up))
    ∧ ((flagged (2 ^ 28) (a 3)).fields.useLock = true ∧ (flagged (2 ^ 28) (a 3)).fields.table = 3
        ∧ (flagged (2 ^ 28) (a 3)).fields.index < tableSize 3 ∧ (flagged (2 ^ 28) l).fields.useLock = true
        ∧ (flagged (2 ^ 28) l).fields.table = 1 ∧ lpmKey (flagged (2 ^ 28) l).fields.image ≠ none)
    ∧ (∀ x ∈ [(9, b, []), (8, b, []), (9, b + 1, []), (9, b, [Staged.write entryA])],
        Serves 3 (u x.1) (serving (u x.1) (locked x.2.1 x.2.2)))
    ∧ (∀ n ∈ [8, 9], (u n).fields.table = 0 ∧ (u n).fields.useLock = true ∧ (u n).fields.slot = 15
        ∧ parseKey (u n).fields.image = some keyA)
    ∧ (lockError (u 8).fields (serving (u 8) (locked b [])) = some 7
        ∧ lockError (u 9).fields (serving (u 9) (locked b [])) = none
        ∧ keyBucket keyA (serving (u 9) (locked (b + 1) [])) ≠ (lockOf 15 (serving (u 9) (locked (b + 1) []))).bucket
        ∧ keyBucket keyA (serving (u 9) (locked b [])) = (lockOf 15 (serving (u 9) (locked b []))).bucket)
    ∧ (let view := fun st => let s := serving (u 9) (locked b st); replica 4 (stagedView (lockOf 15 s) (takeCmd (u 9) s))
       (findKey b keyA (view [.write entryA])).isSome = true ∧ findKey b keyA (view []) = none)
    ∧ (∀ x ∈ [(16380, 1), (0, 4096)], Serves 9 (d x.1 x.2) (serving (d x.1 x.2) up))
    ∧ ∀ x ∈ [(16380, 1), (0, 4096)], (d x.1 x.2).fields.table = 0 ∧ bit (d x.1 x.2).fields.index 31 = true
        ∧ (d x.1 x.2).fields.index % 2 ^ 31 = x.1 ∧ leAt 0 4 (d x.1 x.2).fields.image = x.2 ∧ x.1 % 4 = 0
        ∧ x.1 + 4 * x.2 ≤ 16384 :=
  ⟨fun t ht => serves_of (by revert t; decide +kernel), by decide +kernel, ⟨serves_of (by decide +kernel), by decide +kernel⟩,
    fun c hc => serves_of (by revert c; decide +kernel), by decide +kernel, fun x hx => serves_of (by revert x; decide +kernel),
    by decide +kernel, by decide +kernel, by decide +kernel, fun x hx => serves_of (by revert x; decide +kernel), by decide +kernel⟩

/-- A replica whose bucket of a key, and whose overflow store, are full of other entries, static or not in the bucket. -/
def fullReplica (b : Nat) (st : Bool := true) : Replica :=
  { em := ((List.range 4).map fun i => (4 * b + i, ⟨.mac 3 (BitVec.ofNat 48 i), 0, 0, st, 0, 7⟩))
      ++ (List.range ovfSize).map fun i => (ovfBase + i, ⟨.mac 3 9, 0, 0, true, 0, 7⟩) }

theorem fullReplica_overflow (b : Nat) (st : Bool) : freeOverflow 1 (fullReplica b st) = none := by
  simp only [freeOverflow, List.find?_eq_none, List.mem_map, List.mem_range, Nat.div_one, Nat.mul_one]
  rintro _ ⟨i, hi, rfl⟩ h
  simp only [placeFree, occupants, List.isEmpty_iff, List.filter_eq_nil_iff] at h
  exact h (ovfBase + i, ⟨.mac 3 9, 0, 0, true, 0, 7⟩)
    (List.mem_append_right _ (List.mem_map.mpr ⟨i, List.mem_range.mpr hi, rfl⟩)) (by simp [EmKey.width])

/-- A legal template: a VXLAN header of 50 bytes, the outer IP header at byte 14. -/
def template : Bytes := leBytes 4 (2 ^ 28 + 50 * 2 ^ 16 + 14 * 2 ^ 8) ++ List.replicate 188 0

/-- TablesAreWritten: the last entry of each indexed table; a key of each width in an empty bucket, in one whose first place
is taken, and in one that is full with the overflow store; and a DELETE of a key that is held and of one that is not. -/
theorem witness_TablesAreWritten :
    let w := fun t : Nat => { tblCmd 4 t 0 true 0 0 (tableSize t - 1) [] with data := if t = 8 then template else List.replicate (dataSize t) 0 }
    let a := fun t : Nat => serving (w t) up
    let e := fun (n : Nat) => tblCmd n 0 4 false 0 0 0 entryA.image
    let x := fun (n : Nat) (r : Replica) => serving (e n) (withReplica 4 r up)
    let b := keyBucket keyA up
    let s0 := x 4 {}
    let s1 := x 4 { em := [(4 * b, ⟨.mac 3 9, 0, 0, true, 0, 7⟩)] }
    let s2 := x 4 (fullReplica b)
    let s3 := x 5 { em := [(4 * b, entryA)] }
    let s4 := x 5 {}
    (∀ s ∈ [a 2, a 3, a 4, a 5, a 6, a 7, a 8, s0, s1, s2, s3, s4], s.wf)
    ∧ (∀ t ∈ [2, 3, 4, 5, 6, 7, 8], Serves 4 (w t) (a t)) ∧ (∀ s ∈ [s0, s1, s2], Serves 4 (e 4) s)
    ∧ (∀ s ∈ [s3, s4], Serves 5 (e 5) s)
    ∧ (∀ t ∈ [2, 3, 4, 5, 6, 7, 8], (w t).fields.table = t ∧ (w t).fields.index < tableSize t ∧ (w t).fields.addr % 16 = 0
        ∧ (w t).fields.fanout = true ∧ (w t).fields.useLock = false ∧ imageOk t (w t).fields.image = true)
    ∧ (∀ k < 5, fbit (PRS_LPM_CFG.v4_en k) (a 2) = false ∧ fbit (PRS_LPM_CFG.v6_en k) (a 2) = false)
    ∧ (∀ n ∈ [4, 5], (e n).fields.table = 0 ∧ (e n).fields.replica = 4 ∧ (e n).fields.fanout = false ∧ (e n).fields.useLock = false
        ∧ (e n).fields.condAge = false ∧ parseEm (e n).fields.image = some entryA ∧ parseKey (e n).fields.image = some keyA)
    ∧ (∀ s ∈ [s0, s1, s2, s3, s4], coordinated s = false ∧ s.engine.shadows = [] ∧ keyBucket keyA s = b ∧ bucketLocked 4 b s = false
        ∧ evictOn s = false)
    ∧ (∀ s ∈ [s0, s1, s2, s4], findKey b keyA (replica 4 s) = none)
    ∧ (bucketPlaces b keyA.width).find? (fun n => placeFree n keyA.width (replica 4 s0)) = some (4 * b)
    ∧ (bucketPlaces b keyA.width).find? (fun n => placeFree n keyA.width (replica 4 s1)) = some (4 * b + 1)
    ∧ (bucketPlaces b keyA.width).all (fun n => !placeFree n keyA.width (replica 4 s2)) = true
    ∧ freeOverflow keyA.width (replica 4 s2) = none
    ∧ findKey b keyA (replica 4 s3) = some (4 * b, entryA) :=
  ⟨wfAll (by decide +kernel),
    fun t ht => serves_of (by revert t; decide +kernel), fun s hs => serves_of (by revert s; decide +kernel),
    fun s hs => serves_of (by revert s; decide +kernel),
    by decide +kernel, by decide +kernel, by decide +kernel, by decide +kernel, by decide +kernel, by decide +kernel,
    by decide +kernel, by decide +kernel, fullReplica_overflow _ _, by decide +kernel⟩

theorem freeOverflow_first (w : Nat) (hw : w = 1) (r : Replica) (h : placeFree ovfBase w r = true) :
    freeOverflow w r = some ovfBase := by
  subst hw
  have e : List.range (ovfSize / 1) = 0 :: (List.range 16383).map Nat.succ := List.range_succ_eq_map
  simp only [freeOverflow, e, List.map_cons, Nat.zero_mul, Nat.add_zero, List.find?_cons, h]

/-- TablesAreWritten, an exact-match key in its other forms: a replacement with fanout 0 and 1, a place in the overflow
store, an eviction by either policy and one that finds only static entries; a DELETE with fanout 1 of a key that one replica
holds, and with cond_age of one that no press in use holds, that it holds at the age limit and below it. -/
theorem witness_TablesAreWritten_keys :
    let c := fun (n : Nat) (fan : Bool) => tblCmd n 0 4 fan 0 0 0 entryA.image
    let b := keyBucket keyA up
    let in4 := fun (r : Replica) (s : State) => withReplica 4 r s
    let all := fun (r : Replica) => (List.range 5).foldl (fun s k => withReplica k r s) up
    let here : Replica := { em := [(4 * b, entryA)] }
    let crowded : Replica := { em := (List.range 4).map fun i => (4 * b + i, ⟨.mac 3 (BitVec.ofNat 48 i), 0, 0, true, 0, 7⟩) }
    let evicts := fun (n : Nat) (st : Bool) => fset TBL_EVICT_CFG.policy n (fset TBL_EVICT_CFG.evict_en 1
      (serving (c 4 false) (in4 (fullReplica b st) up)))
    let aged := fun (n : Nat) (s : State) => in4 { em := [(4 * b, { entryA with age := n })] } s
    let used := fset GLB_PRESS_MAP.group0 4 (fset GLB_ROW_EN.row_en 1 up)
    let y := flagged (2 ^ 29) (c 5 false)
    let young := fun n s => serving y (fset TBL_AGE_CFG.max_age 15 (aged n s))
    (∀ x ∈ [(false, in4 here up), (true, all here), (false, in4 crowded up)], (serving (c 4 x.1) x.2).wf ∧ Serves 4 (c 4 x.1) (serving (c 4 x.1) x.2))
    ∧ (∀ n ∈ [0, 1], ∀ st ∈ [true, false], (evicts n st).wf ∧ Serves 4 (c 4 false) (evicts n st))
    ∧ (∀ x ∈ [(true, in4 here up)], (serving (c 5 x.1) x.2).wf ∧ Serves 5 (c 5 x.1) (serving (c 5 x.1) x.2))
    ∧ (∀ s ∈ [young 15 up, young 15 used, young 14 used], s.wf ∧ Serves 5 y s)
    ∧ (∀ fan ∈ [true, false], (c 4 fan).fields.targets = (if fan then [0, 1, 2, 3, 4] else [4]) ∧ (c 4 fan).fields.fanout = fan
        ∧ parseEm (c 4 fan).fields.image = some entryA)
    ∧ (∀ k ∈ [0, 1, 2, 3, 4], findKey b keyA (replica k (serving (c 4 true) (all here))) = some (4 * b, entryA)
        ∧ ∀ o ∈ occupants (4 * b) 1 (replica k (serving (c 4 true) (all here))), o.2.key = keyA)
    ∧ (findKey b keyA (replica 4 (serving (c 4 false) (in4 here up))) = some (4 * b, entryA)
        ∧ ∀ o ∈ occupants (4 * b) 1 (replica 4 (serving (c 4 false) (in4 here up))), o.2.key = keyA)
    ∧ ((bucketPlaces b 1).all (fun n => !placeFree n 1 (replica 4 (serving (c 4 false) (in4 crowded up)))) = true
        ∧ freeOverflow 1 (replica 4 (serving (c 4 false) (in4 crowded up))) = some ovfBase)
    ∧ (∀ n ∈ [0, 1], ∀ st ∈ [true, false], evictOn (evicts n st) = true ∧ evictPolicy (evicts n st) = n)
    ∧ (∀ st ∈ [true, false], replica 4 (evicts 1 st) = fullReplica b st ∧ freeOverflow 1 (fullReplica b st) = none)
    ∧ (evictable b 1 (fullReplica b true) = [] ∧ evictable b 1 (fullReplica b false) ≠ []
        ∧ (bucketPlaces b 1).all (fun n => !placeFree n 1 (fullReplica b false)) = true)
    ∧ (findKey b keyA (replica 4 (serving (c 5 true) (in4 here up))) ≠ none
        ∧ findKey b keyA (replica 0 (serving (c 5 true) (in4 here up))) = none)
    ∧ (y.fields.condAge = true ∧ usedHolders keyA (young 15 up) = [] ∧ maxAge (young 15 used) = 15
        ∧ (usedHolders keyA (young 15 used)).map (fun h => h.2.2.age) = [15]
        ∧ (usedHolders keyA (young 14 used)).map (fun h => h.2.2.age) = [14]) :=
  ⟨fun x hx => ⟨wf_of (by revert x; decide +kernel), serves_of (by revert x; decide +kernel)⟩,
    fun n hn st hst => ⟨wf_of (by revert st n; decide +kernel), serves_of (by revert st n; decide +kernel)⟩,
    fun x hx => ⟨wf_of (by revert x; decide +kernel), serves_of (by revert x; decide +kernel)⟩,
    fun s hs => ⟨wf_of (by revert s; decide +kernel), serves_of (by revert s; decide +kernel)⟩,
    by decide +kernel, by decide +kernel, by decide +kernel,
    ⟨by decide +kernel, freeOverflow_first _ rfl _ (by decide +kernel)⟩, by decide +kernel,
    fun st hst => ⟨rfl, fullReplica_overflow _ _⟩, by decide +kernel, by decide +kernel, by decide +kernel⟩

/-- TablesAreWritten, the other tables: an indexed table with fanout 0, alone and while its replica is shadowed; an LPM
prefix that is held, one that takes the last rows of its zone, and one whose zone is full; and the DELETE of a prefix that is
held and of one that is not. -/
theorem witness_TablesAreWritten_tables :
    let w := tblCmd 4 3 4 false 0 0 4095 []
    let shadowed := { up with engine := { up.engine with shadows := [(4, 0)] } }
    let x := fun (n : Nat) => tblCmd n 1 4 false 0 0 0 (lpmA.bytes 0)
    let zone := fun n : Nat => ({ zones := [(0, (65536 - n, n))] } : Replica)
    let at_ := fun (n : Nat) (r : Replica) => serving (x n) (withReplica 4 r up)
    let holds : Replica := { zone 2 with lpm := [(65534, lpmA)] }
    (∀ s ∈ [up, shadowed], (serving w s).wf ∧ Serves 4 w (serving w s) ∧ (serving w s).engine.shadows.Nodup
        ∧ (4, 4) ∉ (serving w s).engine.shadows ∧ coordinated (serving w s) = false)
    ∧ (w.fields.table = 3 ∧ w.fields.index < tableSize 3 ∧ w.fields.fanout = false ∧ w.fields.replica = 4
        ∧ imageOk 3 w.fields.image = true)
    ∧ (∀ s ∈ [at_ 4 holds, at_ 4 (zone 2), at_ 4 (zone 0)], s.wf ∧ Serves 4 (x 4) s ∧ s.engine.shadows = [])
    ∧ (∀ s ∈ [at_ 5 holds, at_ 5 {}], s.wf ∧ Serves 5 (x 5) s ∧ s.engine.shadows = [])
    ∧ (∀ n ∈ [4, 5], (x n).fields.table = 1 ∧ (x n).fields.targets = [4] ∧ (x n).fields.condAge = false
        ∧ parseLpm (x n).fields.image = some lpmA ∧ lpmKey (x n).fields.image = some lpmA)
    ∧ (∀ n ∈ [4, 5], findLpm 1 true 128 7 (replica 4 (at_ n holds)) = some (65534, lpmA))
    ∧ (findLpm 1 true 128 7 (replica 4 (at_ 4 (zone 2))) = none ∧ freePlaces 2 65534 65536 (replica 4 (at_ 4 (zone 2))) = [65534]
        ∧ zoneOf (lpmZone true 128) (replica 4 (at_ 4 (zone 2))) = (65534, 2))
    ∧ (zoneOf (lpmZone true 128) (replica 4 (at_ 4 (zone 0))) = (65536, 0) ∧ freePlaces 2 65536 65536 (replica 4 (at_ 4 (zone 0))) = [])
    ∧ findLpm 1 true 128 7 (replica 4 (at_ 5 {})) = none :=
  ⟨fun s hs => ⟨wf_of (by revert s; decide +kernel), serves_of (by revert s; decide +kernel), by revert s; decide +kernel⟩,
    by decide +kernel,
    fun s hs => ⟨wf_of (by revert s; decide +kernel), serves_of (by revert s; decide +kernel), by revert s; decide +kernel⟩,
    fun s hs => ⟨wf_of (by revert s; decide +kernel), serves_of (by revert s; decide +kernel), by revert s; decide +kernel⟩,
    by decide +kernel, by decide +kernel, by decide +kernel, by decide +kernel, by decide +kernel⟩

/-- BucketsAreLocked: a bucket that no lock holds, with and without fanout, one that is held, and one in a replica that a
copy fills; an UNLOCK of a lock with nothing staged, and of one whose change is carried out or discarded; a slot that is
held and one that is not. -/
theorem witness_BucketsAreLocked :
    let b := keyBucket keyA up
    let l : LockSlot := { ticket := 9, held := true, all := true, bucket := b }
    let locked := fun (st : List Staged) (s : State) => { s with engine := { s.engine with locks := setNth 15 { l with staged := st } s.engine.locks } }
    let c := fun fan : Bool => tblCmd 1 0 4 fan 0 0 b []
    let d := fun i : Nat => tblCmd 2 0 0 false 15 9 i []
    let a := fun fan : Bool => serving (c fan) up
    let held := serving (c true) (locked [] up)
    let fills := serving (c true) { up with engine := { up.engine with copy := some ⟨{ c true with fromRing := true }, 0, [4], 0, 0⟩ } }
    let u := fun (st : List Staged) (i : Nat) => serving (d i) (locked st up)
    (∀ s ∈ [a true, a false, held, fills, u [] 0, u [.write entryA] 0, u [.write entryA] 1],
      s.wf ∧ live s = true ∧ s.errors.count < 64)
    ∧ (∀ fan ∈ [true, false], Serves 1 (c fan) (a fan)) ∧ (∀ s ∈ [held, fills], Serves 1 (c true) s)
    ∧ (∀ st ∈ [[], [Staged.write entryA]], ∀ i ∈ [0, 1], Serves 2 (d i) (u st i))
    ∧ ((c false).fields.table = 0 ∧ (c false).fields.index < 262144 ∧ (c false).fields.replica < 5 ∧ coordinated (a false) = false)
    ∧ (∀ fan ∈ [true, false], copyInto (c fan).fields (a fan) = false
        ∧ ((c fan).fields.targets.any fun k => bucketLocked k b (a fan)) = false ∧ ∃ j < 16, (lockOf j (a fan)).held = false)
    ∧ ((c true).fields.targets.any fun k => bucketLocked k b held) = true ∧ copyInto (c true).fields fills = true
    ∧ ((d 0).fields.table = 0 ∧ (lockOf 15 (u [] 0)).ticket.toNat = (d 0).fields.ticket ∧ (d 0).fields.slot = 15
        ∧ (lockOf 15 (u [] 0)).held = true ∧ (lockOf 15 (u [] 0)).staged = [] ∧ (d 1).fields.index % 2 = 1)
    ∧ (let s := u [.write entryA] 0
       (d 0).fields.index % 2 = 0 ∧ (lockOf 15 s).staged ≠ [] ∧ (lockOf 15 s).all = true
       ∧ ∃ t, runAllStaged (lockOf 15 s) 0 (lockOf 15 s).staged
           (takeVintage true (setLock 15 ((lockOf 15 s).release false) (takeCmd (d 0) s))) = .ok t)
    ∧ (lockOf 15 held).held = true ∧ (lockOf 15 (a true)).held = false :=
  ⟨fun s hs => ⟨wfAll (l := [_, _, _, _, _, _, _]) (by decide +kernel) s hs, by revert s; decide +kernel⟩,
    fun f hf => serves_of (by revert f; decide +kernel), fun s hs => serves_of (by revert s; decide +kernel),
    fun st hst i hi => serves_of (by revert i st; decide +kernel),
    by decide +kernel, by decide +kernel, by decide +kernel, by decide +kernel, by decide +kernel,
    ⟨by decide +kernel, by decide +kernel, by decide +kernel, ⟨_, rfl⟩⟩, by decide +kernel⟩

/-- Zones that fill the LPM store: the first takes 64256 rows and every other 8. -/
def zones : SMap (Nat × Nat) := (List.range 162).map fun z => (z, if z = 0 then (0, 64248) else (64248 + 8 * (z - 1), 8))

/-- TableJobsRun: moves up and down at the first and at the last boundary; a move, a copy and a sweep that run; a copy and a
sweep that start; and the tick of the ages with none due and with one. -/
theorem witness_TableJobsRun :
    let m := fun (z : Nat) (d : Word) => tblCmd 6 2 0 true 0 0 z (leBytes 4 d.toNat)
    let zoned := (List.range 5).foldl (fun s k => withReplica k { zones := zones } s) up
    let cp := tblCmd 7 0 0 false 0 0 4 []
    let sw := tblCmd 8 0 0 true 0 0 0 []
    let on := fset TBL_LEARN_CFG.mode 1
    let runs := fun (e : Engine) => on { up with engine := e }
    let mj : TblJob := ⟨m 0 2, 0, [0, 1, 2, 3, 4], 0, 2⟩
    let cj : TblJob := ⟨cp, 0, [4], 0, 0⟩
    let sj : TblJob := ⟨sw, 0, [4], 0, 0⟩
    let tick := fun p : Bool => fset TBL_AGE_CFG.age_en 1 (fset TBL_AGE_CFG.host_sweep 1 { up with engine := { agePending := p } })
    (∀ s ∈ [serving (m 0 2) zoned, serving (m 0 0xFFFFFFFE) zoned, serving (m 160 1) zoned, on (serving cp up), serving sw up,
        runs { move := some mj }, runs { copy := some cj }, runs { sweep := some sj }, tick true, tick false], s.wf ∧ live s = true)
    ∧ (∀ x ∈ [(0, (2 : Word)), (0, 0xFFFFFFFE), (160, 1)], Serves 6 (m x.1 x.2) (serving (m x.1 x.2) zoned)
        ∧ (m x.1 x.2).fields.table = 2 ∧ (m x.1 x.2).fields.index = x.1 ∧ (m x.1 x.2).fields.fanout = true
        ∧ (m x.1 x.2).fields.useLock = false ∧ moveCount (m x.1 x.2).fields ≠ 0 ∧ (moveCount (m x.1 x.2).fields).natAbs ≤ 4096
        ∧ (x.1 ≤ 128 → (moveCount (m x.1 x.2).fields).natAbs % 2 = 0)
        ∧ ∀ k < 5, zonesValid (replica k (serving (m x.1 x.2) zoned)) = true
            ∧ moveShort x.1 (moveCount (m x.1 x.2).fields) (replica k (serving (m x.1 x.2) zoned)) = 0)
    ∧ (Serves 7 cp (on (serving cp up)) ∧ cp.fields.replica = 0 ∧ cp.fields.index = 4 ∧ coordinated (on (serving cp up)) = true
        ∧ ∀ l ∈ (on (serving cp up)).engine.locks, l.held = false)
    ∧ (Serves 8 sw (serving sw up) ∧ sw.fields.table = 0)
    ∧ (∀ s ∈ [on (serving cp up), serving sw up], s.engine.sweep = none ∧ s.engine.copy = none)
    ∧ (mj.cmd.fields.fanout = true ∧ mj.targets = [0, 1, 2, 3, 4] ∧ cj.targets = [4] ∧ cj.cmd.fields.index = 4)
    ∧ coordinated (runs { sweep := some sj }) = true
    ∧ (∀ p ∈ [true, false], fbit TBL_AGE_CFG.age_en (tick p) = true ∧ (tick p).engine.agePending = p
        ∧ fbit TBL_AGE_CFG.host_sweep (tick p) = true) :=
  ⟨fun s hs => ⟨wfAll (l := [_, _, _, _, _, _, _, _, _, _]) (by decide +kernel) s hs, by revert s; decide +kernel⟩,
    fun x hx => ⟨serves_of (by revert x; decide +kernel), by revert x; decide +kernel⟩,
    ⟨serves_of (by decide +kernel), by decide +kernel⟩, ⟨serves_of (by decide +kernel), by decide +kernel⟩, by decide +kernel,
    by decide +kernel, by decide +kernel, by decide +kernel⟩

/-- TableAndLearnRings: a ring that is served; a prod with a next command, at the ring's size and beyond it; the next
command; a learn ring whose prod is due and one whose is not; a cons in range and one out of range; and the changes of
mode that are refused and made, with two and with three presses in use. -/
theorem witness_TableAndLearnRings :
    let on := fset TBL_CTL.en 1 (fset TBL_CTL.cmd_ring_en 1 linked)
    let a := withRequest (req0 false 4 .cmdHeader) on
    let b := withRequest (req0 false 64 .cmdRead) { on with engine := { prod := 1, cmdOut := true } }
    let c := { up with engine := { learn := { prod := 1, prodDirty := true } } }
    let d := withRequest (req0 false 4 .learnCons) linked
    let cmd : TblCmd := { fromRing := true, index := 0, bytes := List.replicate 64 0, data := [], fault := false }
    let two := fset GLB_ROW_EN.row_en (1 + 2 ^ 31) up
    let three := fset GLB_ROW_EN.row_en (1 + 2 ^ 8 + 2 ^ 31) up
    let alone := fset TBL_LEARN_CFG.mode 0 up
    (∀ s ∈ [on, a, b, c, up, d, two, three, alone], s.wf)
    ∧ (regLive on = true ∧ ringServed on = true ∧ on.engine.headOut = false)
    ∧ (∀ x ∈ [(req0 false 4 .cmdHeader, a), (req0 false 64 .cmdRead, b), (req0 false 4 .learnCons, d)], Awaits 0 x.1 x.2)
    ∧ (ringServed a = true ∧ a.engine.headAgain = false ∧ a.engine.cmdOut = false ∧ a.engine.dataOut = false ∧ a.engine.fetched = none
        ∧ used 64 a.engine.done ≤ 2 ^ cmdLog2 a ∧ used a.engine.prod a.engine.done ≤ used 64 a.engine.done ∧ a.engine.fetch ≠ 64
        ∧ 2 ^ cmdLog2 a < used 65 a.engine.done)
    ∧ (ringServed b = true ∧ b.engine.dataOut = false ∧ b.engine.fetched = none ∧ b.engine.prod = b.engine.fetch + 1 ∧ cmd.wants = 0)
    ∧ (live c = true ∧ c.engine.learn.prodDue false = true) ∧ (live up = true ∧ up.engine.learn.prodDue false = false)
    ∧ ((leBytes 4 0).length = 4 ∧ d.engine.learn.consBad (learnLog2 d) 0 = false ∧ d.engine.learn.consBad (learnLog2 d) 1 = true)
    ∧ (live three = true ∧ 3 ≤ pressesInUse three ∧ coordinated three = true ∧ three.racking.state = 0)
    ∧ (live two = true ∧ pressesInUse two = 2 ∧ coordinated two = true ∧ two.racking.state = 0)
    ∧ (live alone = true ∧ coordinated alone = false ∧ alone.racking.state = 0) :=
  ⟨wfAll (by decide +kernel), by decide +kernel, awaitsAll (by decide +kernel), by decide +kernel, by decide +kernel, by decide +kernel,
    by decide +kernel, by decide +kernel, by decide +kernel, by decide +kernel, by decide +kernel⟩

/-! ### Fabric, functions and events -/

/-- s with the fabric ports in service and no port that faults at a first timeout. -/
def withPorts (s : State) : State :=
  fset FAB_CTL.fault_thresh 0 (fset (FAB_PORT_CFG.en 0) 1 (fset (FAB_PORT_CFG.en 15) 1 s))

/-- RequestsTimeOut: a read and a write that may be reissued, and ones that were; a quarantined tag of a read and of a
write, on the last port, and none; a port that faults, one whose fp_ierr is low, and one whose fp_ierr is high. -/
theorem witness_RequestsTimeOut :
    let a := withRequest (req0 false 4 (.txProd 0)) (withPorts (withChan 0 running linked))
    let b := withRequest (req0 true 4 .learnProd) (withPorts linked)
    let old := fun w p => { req0 w 4 p with reissued := true }
    let c := withRequest (old false .learnCons) (withPorts linked)
    let d := withRequest (old true .learnProd) (withPorts linked)
    let mark := fun w => (⟨0, 15, w, 0, 0, if w then .learnProd else .learnCons⟩ : Quarantine)
    let q := fun w => { linked with fabric := { linked.fabric with quarantine := [mark w] } }
    let e := { linked with fabric := { linked.fabric with ierr := [15] } }
    (∀ s ∈ [a, b, c, d, q true, q false, e, linked], s.wf ∧ auxPort s = true ∧ s.errors.count < 64)
    ∧ (∀ x ∈ [(req0 false 4 (.txProd 0), a), (req0 true 4 .learnProd, b), (old false .learnCons, c), (old true .learnProd, d)],
        Awaits 0 x.1 x.2)
    ∧ (∀ x ∈ [(req0 false 4 (.txProd 0), a), (req0 true 4 .learnProd, b)], fget FAB_CTL.fault_thresh x.2 = 0
        ∧ canReissue x.1 0 x.2 = true ∧ x.2.power.drain = none ∧ (chan 0 a).state = .running)
    ∧ (∀ x ∈ [(old false .learnCons, c), (old true .learnProd, d)], fget FAB_CTL.fault_thresh x.2 = 0 ∧ canReissue x.1 0 x.2 = false)
    ∧ (∀ w ∈ [true, false], quarantined 0 (q w) = some (mark w) ∧ (mark w).write = w ∧ (func 0 (q w)).qState = 0
        ∧ ∀ x ∈ (q w).fabric.quarantine, x.req = 0 → x = mark w)
    ∧ quarantined 0 linked = none
    ∧ (15 ∉ linked.fabric.ierr ∧ 15 ∉ linked.fabric.faulted ∧ portReqs 15 linked = [] ∧ regLive linked = true)
    ∧ (15 ∈ e.fabric.ierr ∧ regLive e = true) :=
  ⟨fun s hs => ⟨wfAll (l := [_, _, _, _, _, _, _, _]) (by decide +kernel) s hs, by revert s; decide +kernel⟩,
    awaitsAll (by decide +kernel), by decide +kernel, by decide +kernel, by decide +kernel, by decide +kernel, by decide +kernel,
    by decide +kernel⟩

/-- FunctionsAreQuiesced: a function with the interface and one without; one with channels in each state it quiesces; the
host link up and down, and a loss that waits in the queue; a quiesce whose cause lasts; a link that was lost; and a
RESETTING channel before and during its write-back, while its function's quiesce runs, and with the write awaited. -/
theorem witness_FunctionsAreQuiesced :
    let f := 0x901
    let on := fun (x : Func) (s : State) => fset FAB_FUNC_SEL.function f (withFunc f x s)
    let ch := fun st : ChState => withChan 8191 { running with state := st, ctx := { running.ctx with func := f } } linked
    let a := fun st => on { present := true, bme := true } (ch st)
    let b := { up with fabric := { up.fabric with hostUp := false } }
    let c := on { present := true, qState := 1 } linked
    let d := on { present := true, qState := 2, linkLost := true } (ch .quiesced)
    let e := withChan 8191 { running with state := .resetting } linked
    let back := withChan 8191 { running with state := .resetting, writeBack := true } linked
    let ends := withFunc f { present := true, qState := 1 }
      (withChan 8191 { running with state := .resetting, ctx := { running.ctx with func := f } } linked)
    let wr := req0 true 48 (.writeBack 8191)
    let acks := withRequest wr (withChan 8191 { running with state := .resetting, writeBack := true, expired := true } linked)
    let lost := { linked with pending := [.hostLinkChange false] }
    (∀ s ∈ [back, ends, acks, lost], s.wf ∧ auxPort s = true ∧ live s = true)
    ∧ Awaits 0 wr acks ∧ (wr.write = true ∧ (chan 8191 acks).state = .resetting ∧ (chan 8191 acks).writeBack = true
        ∧ (chan 8191 acks).expired = true ∧ (func (chan 8191 acks).ctx.func acks).qState = 0)
    ∧ ((chan 8191 back).state = .resetting ∧ (chan 8191 back).writeBack = true ∧ (func (chan 8191 back).ctx.func back).qState ≠ 1)
    ∧ ((chan 8191 ends).state = .resetting ∧ (func (chan 8191 ends).ctx.func ends).qState = 1)
    ∧ (linkChange linked = none ∧ (∀ st ∈ [ChState.running, .stopping, .fenced], linkChange (a st) = none) ∧ linkChange lost = some false
        ∧ lost.fabric.hostUp = true ∧ (func 0 lost).present = true ∧ (func 0 lost).adapterMem = false)
    ∧ (∀ s ∈ [linked, a .running, a .stopping, a .fenced, b, c, d, e], s.wf ∧ auxPort s = true ∧ regLive s = true ∧ live s = true)
    ∧ ((func f linked).qState = 0 ∧ (func f linked).flr = false ∧ (func f linked).bme = false ∧ (func f linked).intx = false)
    ∧ (∀ st ∈ [ChState.running, .stopping, .fenced], (func f (a st)).qState = 0 ∧ (func f (a st)).bme = true ∧ (func f (a st)).flr = false
        ∧ (chan 8191 (a st)).ctx.func = f ∧ (chan 8191 (a st)).writable = true)
    ∧ (bit 0x10 2 = false ∧ bit 0x10 1 = false ∧ bit 0x1F 1 = true ∧ bit 0x1F 2 = true)
    ∧ (linked.fabric.hostUp = true ∧ (func 0 linked).present = true ∧ (func 0 linked).adapterMem = false)
    ∧ b.fabric.hostUp = false ∧ (∀ m, (func m b).qState ≠ 2)
    ∧ ((func f c).qState = 1 ∧ quiesceOver f c = false) ∧ (func f linked).qState ≠ 1
    ∧ (fget FAB_FUNC_SEL.function d = f ∧ (func f d).linkLost = true ∧ funcChans f d = [8191] ∧ (chan 8191 d).state = .quiesced)
    ∧ (fget FAB_FUNC_SEL.function c = f ∧ (func f c).linkLost = false)
    ∧ ((chan 8191 e).state = .resetting ∧ (chan 8191 e).writeBack = false ∧ mayIssue (chan 8191 e).ctx.func e = true)
    ∧ (chan 8191 linked).state ≠ .resetting :=
  ⟨fun s hs => ⟨wfAll (l := [_, _, _, _]) (by decide +kernel) s hs, by revert s; decide +kernel⟩,
    awaitsAll (l := [(_, _)]) (by decide +kernel) _ (List.mem_singleton.mpr rfl), by decide +kernel, by decide +kernel,
    by decide +kernel, by decide +kernel, fun s hs => ⟨wfAll (l := [_, _, _, _, _, _, _, _]) (by decide +kernel) s hs, by revert s; decide +kernel⟩,
    by decide +kernel, by decide +kernel, by decide +kernel, by decide +kernel, by decide +kernel, fun m h => (by cases h),
    by decide +kernel⟩

/-- EventsAreEmitted: an event that leaves as a message, as an INTx assert, and that folds; a deassert; one of a function
that has gone; none; an acknowledge of a pending interrupt, with a folding event of its cycle, and of none; and an event of
a ring, and of the sample ring, that a write it announces keeps. -/
theorem witness_EventsAreEmitted :
    let ev : Event := ⟨.force, 0xFFF, 2047⟩
    let de : Event := ⟨.deassert, 0xFFF, 0⟩
    let at_ := fun (e : Event) (x : Func) => fset EVT_CTL.en 1 (withFunc 0xFFF x { up with events := { waiting := [e] } })
    let a := at_ ev { present := true, bme := true, msgEn := true }
    let b := at_ ev { present := true }
    let c := at_ ev { present := true, intx := true }
    let d := at_ de { present := true }
    let g := at_ ev {}
    let h := fset EVT_CTL.en 1 (withFunc 0xFFF { present := true, intx := true } up)
    let evR : Event := ⟨.ring 4095, 0xFFF, 1⟩
    let evS : Event := ⟨.block 4, 0xFFF, 1⟩
    let r := withRing 4095 { cover := some 1, unacked := [0] } (at_ evR { present := true })
    let k := { at_ evS { present := true } with pmu := { up.pmu with ring := { cover := some 1, unacked := [0] } } }
    ((∀ s ∈ [r, k], s.wf) ∧ evR ∈ r.events.waiting ∧ evS ∈ k.events.waiting
        ∧ (ring 4095 r).cover = some 1 ∧ k.pmu.ring.cover = some 1 ∧ 0 ∈ (ring 4095 r).unacked ∧ 0 ∈ k.pmu.ring.unacked
        ∧ 2 ^ 31 ≤ ((0 : Word) - 1).toNat)
    ∧ (∀ s ∈ [a, b, c, d, g, h], s.wf ∧ auxPort s = true ∧ regLive s = true ∧ fbit EVT_CTL.en s = true)
    ∧ (∀ s ∈ [a, b, c, g], nextEvent s = some ev) ∧ nextEvent d = some de ∧ nextEvent h = none
    ∧ (∀ s ∈ [a, b, c, d], (func 0xFFF s).present = true ∧ (func 0xFFF s).flr = false) ∧ (func 0xFFF g).present = false
    ∧ ev.src ≠ .deassert ∧ de.src = .deassert
    ∧ (func 0xFFF a).msgEn = true ∧ ((func 0xFFF b).msgEn = false ∧ (func 0xFFF b).intx = false)
    ∧ ((func 0xFFF c).msgEn = false ∧ (func 0xFFF c).intx = true ∧ foldingEvent 0xFFF c = some ev)
    ∧ ((func 0xFFF h).intx = true ∧ foldingEvent 0xFFF h = none) ∧ (func 0xFFF b).intx = false :=
  ⟨⟨wfAll (by decide +kernel), by decide +kernel⟩, fun s hs => ⟨wfAll (l := [_, _, _, _, _, _]) (by decide +kernel) s hs, by revert s; decide +kernel⟩, by decide +kernel⟩

/-! ### Power, reset, dormancy and cages -/

/-- PowerOnResetAndSupplies: power-on reset with the points kept in VDDS and a retention book that reads clean, with each
error, with a valid image, and with neither; its assertion with the points kept and lost, in a halt and outside; VDD
lost and VAUX lost and restored. -/
theorem witness_PowerOnResetAndSupplies :
    let por := fun (kept image : Bool) => { State.reset with
      power := { vddsKept := kept }, aux := { State.reset.aux with imageValid := image } }
    let on := fun (kept halted : Bool) => { up with
      power := { up.power with vddsKept := kept, halted := halted }, aux := { up.aux with vdd := true } }
    let dark := { up with aux := { up.aux with vaux := false } }
    (∀ s ∈ [por true false, por true true, por false true, por false false, on true false, on true true, on false false, dark], s.wf)
    ∧ (∀ k i, (por k i).power.por = true ∧ (por k i).power.vddsKept = k ∧ (por k i).aux.imageValid = i)
    ∧ (∀ k h, (on k h).power.por = false ∧ (on k h).power.vddsKept = k ∧ (on k h).power.halted = h ∧ (on k h).aux.vaux = true
        ∧ (on k h).aux.vdd = true)
    ∧ (auxPort (on true false) = true ∧ (on true false).errors.count < 64 ∧ (por true true).aux.rclk = false)
    ∧ dark.aux.vaux = false :=
  ⟨wfAll (by decide +kernel), by decide +kernel⟩

/-- A frame of one byte that waits for its buffer to be written. -/
def assigned1 : Assigned := ⟨0, 0, 0, 1, [(0, 1)], [0], 1, false, false, {}, .none, 0⟩

/-- DrainsEndInHaltOrReset: a block that drains for neither reason, one that drains for each, one asleep, one in a soft
reset and one in a cutover; a drain that a launched chain, an assigned frame or a write of its own keeps; and one that is
over, with VAUX and without; a write of the reset and an end of it behind a change of PTP time; and a power fail in an entry
and in a wake. -/
theorem witness_DrainsEndInHaltOrReset :
    let pow := fun (f : Power → Power) => { up with power := f up.power }
    let dr := fun c => pow fun p => { p with drain := some c }
    let k := chain1 .launched []
    let a := withChan 8191 { running with tx := { running.tx with chains := [k] } } (dr .powerFail)
    let b := withChan 8191 { running with rx := { running.rx with assigned := [assigned1] } } (dr .powerFail)
    let c := withRequest (req0 true 16 (.writeBack 0)) (dr .powerFail)
    let d := { dr .powerFail with aux := { up.aux with vaux := false } }
    let e := { up with racking := { up.racking with state := 2 } }
    let t := { up with time := { next := [.incr 0x10000000] } }
    let u := { dr (.softReset false) with time := { next := [.incr 0x10000000] } }
    let busy := pow fun p => { p with resetBusy := true }
    let sleeps := pow fun p => { p with dorm := 3 }
    (∀ s ∈ [t, u, (pow fun p => { p with dorm := 1 }), (pow fun p => { p with dorm := 4 })], s.wf ∧ auxPort s = true)
    ∧ (portTurn up = up ∧ portTurn e = e ∧ portTurn busy = busy ∧ portTurn sleeps = sleeps)
    ∧ (auxPort (portTurn t) = true ∧ (portTurn t).power.resetBusy = false ∧ (portTurn t).power.dorm = 0
        ∧ (portTurn t).racking.state = 0 ∧ (portTurn t).power.drain = none ∧ u.power.drain = some (.softReset false) ∧ drained u = true
        ∧ u.aux.vaux = true ∧ u.time.next ≠ [])
    ∧ (∀ s ∈ [pow fun p => { p with dorm := 1 }, pow fun p => { p with dorm := 4 }], s.power.dorm ≠ 3 ∧ s.power.drain = none)
    ∧ (∀ s ∈ [up, dr .powerFail, dr (.softReset false), pow fun p => { p with dorm := 3 }, pow fun p => { p with resetBusy := true },
        a, b, c, d, e], s.wf ∧ auxPort s = true)
    ∧ (up.power.resetBusy = false ∧ up.power.dorm = 0 ∧ up.racking.state = 0 ∧ up.power.drain = none ∧ e.racking.state = 2
        ∧ e.power.resetBusy = false ∧ e.power.dorm = 0)
    ∧ (∃ k ∈ (chan 8191 a).tx.chains, k.stage = .launched) ∧ ((chan 8191 b).rx.assigned ≠ [] ∧ (chan 8191 b).state ≠ .quiesced)
    ∧ (∃ r ∈ c.fabric.reqs, r.purpose.ofDrain = true ∧ r.discard = false ∧ r.port ≠ none)
    ∧ (drained (dr .powerFail) = true ∧ drained (dr (.softReset false)) = true ∧ up.aux.vaux = true ∧ drained a = false)
    ∧ (drained d = true ∧ d.aux.vaux = false ∧ d.errors.count < 64) :=
  ⟨fun s hs => ⟨wfAll (l := [_, _, _, _]) (by decide +kernel) s hs, by revert s; decide +kernel⟩, ⟨rfl, rfl, rfl, rfl⟩,
    by decide +kernel, by decide +kernel, fun s hs => ⟨wfAll (l := [_, _, _, _, _, _, _, _, _, _]) (by decide +kernel) s hs, by revert s; decide +kernel⟩,
    by decide +kernel⟩

/-- s asleep, with the wake sources on, VDDS in its operating range and a time limit. -/
def asleep : State :=
  fset AUX_WAKE_CFG.host_en 1 (fset AUX_WAKE_CFG.timer_en 1 (fset AUX_WAKE_CFG.pattern_en 1 (fset GLB_DORM_CTL.timer_ms 1
    { up with power := { up.power with dorm := 3 }, aux := { up.aux with rclk := true, vdds := .operating } })))

/-- DormancyAndWake: an entry that nothing refuses, and one that each thing refuses; the end of an entry; a wake from an
entry, from sleep with VDDS and without, and one within the cycle of another, of the host and of the timer; a sentinel port's frame that passes and one
that does not, with room and without, looped and while the block wakes; and a capture that matches the last slot and one
that matches none. -/
theorem witness_DormancyAndWake :
    let host := fset AUX_WAKE_CFG.host_en 1 up
    let off := fset AUX_WAKE_CFG.host_en 0 up
    let c := withChan 8191 running host
    let entering := { asleep with power := { asleep.power with dorm := 1 } }
    let late := { asleep with aux := { asleep.aux with vdds := .retention } }
    let waking := { asleep with power := { asleep.power with dorm := 4 } }
    let twice := { waking with aux := { waking.aux with woke := some { at_ := 0, asleep := true } } }
    let x := arrival (frame64 [1, 0, 0, 0, 0, 9] 0x0800 [])
    let sent := fun (l : List Bytes) (s : State) => fset AUX_SENTINEL_CFG.en 128 (onPort 255 {}
      { s with aux := { s.aux with sentinels := setNth 7 { port := 255, captures := l } s.aux.sentinels } })
    let p := sent [] asleep
    let full := sent [[], [], [], []] asleep
    let looped := fset (PRT_MAC_CFG.loopback 255) 1 (sent [] asleep)
    let w := sent [] waking
    let m := fset (AUX_WAKE_PAT_CTL.en 31) 1 (fset (AUX_WAKE_PAT_CTL.len 31) 1 (fset (AUX_WAKE_PAT_CTL.sent_mask 31) 128
      (sent [[1]] asleep)))
    (∀ s ∈ [host, c, off, asleep, entering, late, waking, twice, p, full, looped, w, m], s.wf ∧ auxPort s = true ∧ s.aux.vaux = true)
    ∧ (dormRefusal (dormFields 0 host) = none ∧ dormRefusal (dormFields 0 c) = some 1 ∧ dormRefusal (dormFields 0 off) = some 5)
    ∧ (live entering = true ∧ entering.power.dorm = 1 ∧ canWake entering = true ∧ fbit AUX_WAKE_CFG.host_en entering = true)
    ∧ (canWake asleep = true ∧ asleep.power.dorm = 3 ∧ asleep.aux.vdds = .operating ∧ canWake late = true ∧ late.aux.vdds ≠ .operating)
    ∧ (canWake twice = false ∧ fbit AUX_WAKE_CFG.host_en twice = true ∧ ∃ w, twice.aux.woke = some w ∧ w.at_ = twice.time.dclk ∧ w.asleep = true)
    ∧ (twice.aux.rclk = true ∧ fbit AUX_WAKE_CFG.timer_en twice = true ∧ fget GLB_DORM_CTL.timer_ms twice ≠ 0)
    ∧ (sentinelPass 255 (arrival (withFcs ([1, 0, 0, 0, 0, 9] ++ List.replicate 118 0))) p = true
        ∧ 128 ≤ (arrival (withFcs ([1, 0, 0, 0, 0, 9] ++ List.replicate 118 0))).bytes.length
        ∧ (arrival (withFcs ([1, 0, 0, 0, 0, 9] ++ List.replicate 117 0))).bytes.length = 127)
    ∧ (fbit AUX_WAKE_CFG.host_en off = false)
    ∧ (asleep.aux.rclk = true ∧ fbit AUX_WAKE_CFG.timer_en asleep = true ∧ fget GLB_DORM_CTL.timer_ms asleep ≠ 0)
    ∧ waking.power.dorm = 4
    ∧ (∀ s ∈ [p, full, looped, w], sentinelOf 255 s = some 7 ∧ evaluates 255 s = true)
    ∧ (∀ s ∈ [p, full], s.power.dorm = 3 ∧ fbit (PRT_MAC_CFG.loopback 255) s = false)
    ∧ ((nth {} 7 p.aux.sentinels).captures = [] ∧ (nth {} 7 full.aux.sentinels).captures.length = 4)
    ∧ (sentinelPass 255 x p = true ∧ sentinelPass 255 { x with miiError := true } p = false)
    ∧ fbit (PRT_MAC_CFG.loopback 255) looped = true
    ∧ ((nth {} 7 m.aux.sentinels).captures = [[1]] ∧ matchSlot 7 [1] m = some 31 ∧ matchSlot 7 [1] full = none
        ∧ m.aux.rclk = true ∧ canWake m = true ∧ m.power.dorm = 3 ∧ m.aux.vdds = .operating ∧ fbit AUX_WAKE_CFG.pattern_en m = true) :=
  ⟨fun s hs => ⟨wfAll (l := [_, _, _, _, _, _, _, _, _, _, _, _, _]) (by decide +kernel) s hs, by revert s; decide +kernel⟩,
    by decide +kernel⟩

/-- PressWindowsEnd: a press of the last number that throttles, with a low window after which it steps down, and with one
that triggers a step up; one that is in a racking; one with a step up under way; and a slow window. -/
theorem witness_PressWindowsEnd :
    let s := fset GLB_THROTTLE_CFG.en 1 (fset GLB_THROTTLE_CFG.down_pct 40 (fset GLB_THROTTLE_CFG.up_pct 80 up))
    let a := withPress 4 { winDealt := 0, downRun := 7 } s
    let b := withPress 4 { winDealt := 64000, div := 1 } s
    let c := { s with racking := { s.racking with state := 1, source := 4, target := 3 } }
    let d := withPress 4 { stepUp := true, div := 2 } s
    let e := withPress 4 { winCycles := 16000, winWaiting := 16000, winDelivered := 0 } (fset GLB_SLOW_CFG.en 0 up)
    (∀ s ∈ [a, b, c, d, e, up], s.wf ∧ live s = true)
    ∧ (throttles 4 a = true ∧ windowLow 4 a = true ∧ (press 4 a).div < 2 ∧ (press 4 a).stepUp = false
        ∧ max 1 (fget GLB_THROTTLE_CFG.down_win a) ≤ (press 4 a).downRun + 1
        ∧ (press 4 a).winDealt * 100 < clamp 1 100 (fget GLB_THROTTLE_CFG.up_pct a) * windowSlots 4 a)
    ∧ (throttles 4 b = true ∧ clamp 1 100 (fget GLB_THROTTLE_CFG.up_pct b) * windowSlots 4 b ≤ (press 4 b).winDealt * 100
        ∧ (press 4 b).div ≠ 0)
    ∧ throttles 4 c = false ∧ inRacking 4 c = true
    ∧ ((press 4 d).stepUp = true ∧ (press 4 d).div ≠ 0) ∧ (press 4 up).stepUp = false
    ∧ (inRacking 4 e = false ∧ fbit GLB_SLOW_CFG.en e = false ∧ windowSlow 4 e = true ∧ windowSlow 4 up = false) :=
  ⟨fun s hs => ⟨wfAll (l := [_, _, _, _, _, _]) (by decide +kernel) s hs, by revert s; decide +kernel⟩, by decide +kernel⟩

/-- CagesFollowTheirSignals: the last cage empty, and present in each state, with VAUX and RCLK; its button already
pressed; RCLK absent, with a fault latched and with a presence latched; and VAUX absent. -/
theorem witness_CagesFollowTheirSignals :
    let with_ := fun (x : Cage) (s : State) => { s with aux := { s.aux with rclk := true, cages := setNth 31 x s.aux.cages } }
    let on := fun n => with_ { present := true, state := n } up
    let b := fset (AUX_CAGE_EVT.button 31) 1 (on 1)
    let dark := fun (x : Cage) => { State.reset with aux := { State.reset.aux with cages := setNth 31 x State.reset.aux.cages } }
    let f := dark { present := true, state := 3, lateFault := true }
    let p := dark { latePres := some true }
    let v := { up with aux := { up.aux with vaux := false } }
    (∀ s ∈ [with_ {} up, on 1, on 2, on 3, on 4, b, f, p, v], s.wf)
    ∧ (∀ n ∈ [1, 2, 3, 4], (on n).aux.vaux = true ∧ (on n).aux.rclk = true ∧ (cage 31 (on n)).present = true ∧ (cage 31 (on n)).state = n
        ∧ fbit (AUX_CAGE_EVT.button 31) (on n) = false ∧ canWake (on n) = false ∧ glbPort (on n) = true ∧ (on n).aux.woke = none)
    ∧ ((cage 31 (with_ {} up)).present = false ∧ (cage 31 (with_ {} up)).state = 0)
    ∧ (fbit (AUX_CAGE_EVT.button 31) b = true ∧ b.aux.rclk = true)
    ∧ (f.aux.vaux = true ∧ f.aux.rclk = false ∧ f.power.por = true ∧ (cage 31 f).lateFault = true ∧ (cage 31 f).latePres = none
        ∧ (cage 31 f).state = 3)
    ∧ (p.aux.vaux = true ∧ p.aux.rclk = false ∧ p.power.por = true ∧ (cage 31 p).latePres = some true)
    ∧ v.aux.vaux = false :=
  ⟨wfAll (by decide +kernel), by decide +kernel⟩

/-! ### Faults, racking, management and monitoring -/

/-- RowsAreRacked: a request that nothing refuses, for the last press with rows, and one for the reserve; a preparation
whose reserve is current and one whose reserve is not, for a steward and for a fault; and a cutover, alone and with a
soft reset that waits for it, and with a chain that waits for the source's tables. -/
theorem witness_RowsAreRacked :
    let rack := fun (st cause : Nat) => { up with racking := { up.racking with state := st, source := 3, target := 4, cause := cause } }
    let a := fset TBL_LEARN_CFG.mode 1 (rack 1 0)
    let b := fset TBL_LEARN_CFG.mode 1 { rack 1 2 with engine := { up.engine with vintages := [0, 0, 0, 0, 1] } }
    let r := { rack 2 0 with power := { up.power with resetAfterRack := some true } }
    let waits := fun st => withChan 8191 { running with tx := { chains := [chain1 (.unitWait 3) []] } } (rack st 0)
    (∀ st ∈ [1, 2], (waits st).wf ∧ live (waits st) = true ∧ (waits st).racking.state = st ∧ (waits st).racking.source = 3
        ∧ ∃ x ∈ (chan 8191 (waits st)).tx.chains, x.stage = .unitWait 3)
    ∧ (∀ s ∈ [up, rack 1 0, a, b, rack 2 0, r], s.wf ∧ live s = true)
    ∧ (rackRefusal 3 up = none ∧ rackRefusal 4 up = some 1)
    ∧ (a.racking.state = 1 ∧ reserveCurrent 3 a = true ∧ a.racking.cause ≠ 2)
    ∧ (b.racking.state = 1 ∧ reserveCurrent 3 b = false ∧ b.racking.cause = 2 ∧ b.errors.count < 64) ∧ up.racking.state ≠ 1
    ∧ ((rack 2 0).racking.state = 2 ∧ (rack 2 0).racking.source < 5 ∧ (rack 2 0).racking.target < 5
        ∧ (rack 2 0).racking.source ≠ (rack 2 0).racking.target ∧ (rack 2 0).power.resetAfterRack = none)
    ∧ (r.racking.state = 2 ∧ r.power.resetAfterRack = some true) :=
  ⟨fun st hst => ⟨wf_of (by revert st; decide +kernel), by revert st; decide +kernel⟩, fun s hs => ⟨wfAll (l := [_, _, _, _, _, _]) (by decide +kernel) s hs, by revert s; decide +kernel⟩, by decide +kernel⟩

/-- FaultsSparingAndSelfTest: a bank that a free spare can take, and one when a copy runs; a retention macro in its copy;
a press in its self-test; a fault of a press outside a racking, with rack_on_fault and without, and of the target, in
preparation and cutover, and of the source; and the last programmable counter. -/
theorem witness_FaultsSparingAndSelfTest :
    let c := { up with cellar := { up.cellar with copyBank := some 63 } }
    let m := { up with book := { up.book with copying := true } }
    let p := withPress 4 { selfTest := true } up
    let off := fset GLB_ESCALATE_CFG.rack_on_fault 0 up
    let on := fset GLB_ESCALATE_CFG.rack_on_fault 1 up
    let rack := fun st => { up with racking := { up.racking with state := st, source := 3, target := 4 } }
    (∀ s ∈ [up, c, m, p, off, on, rack 1, rack 2], s.wf ∧ live s = true ∧ glbPort s = true ∧ s.errors.count < 64)
    ∧ (up.cellar.copyBank = none ∧ freeSpare up = some 0 ∧ c.cellar.copyBank ≠ none)
    ∧ (m.book.copying = true ∧ up.book.copying = false) ∧ ((press 4 p).selfTest = true ∧ (press 4 up).selfTest = false)
    ∧ (off.racking.state = 0 ∧ fbit GLB_ESCALATE_CFG.rack_on_fault off = false)
    ∧ (on.racking.state = 0 ∧ fbit GLB_ESCALATE_CFG.rack_on_fault on = true ∧ rackRefusal 3 on = none)
    ∧ (∀ st ∈ [1, 2], (rack st).racking.state = st ∧ (rack st).racking.target = 4 ∧ (rack st).racking.source = 3)
    ∧ (735 < 736 ∧ fixedCounter 735 = false) :=
  ⟨fun s hs => ⟨wfAll (l := [_, _, _, _, _, _, _, _]) (by decide +kernel) s hs, by revert s; decide +kernel⟩, by decide +kernel⟩

/-- The shortest firmware image. -/
def image64 : Bytes := leBytes 4 0x5A434D31 ++ leBytes 4 64 ++ List.replicate 56 0

/-- s with a cellarmaster in the given state that was given that image's length and authenticator. -/
def withCm (state : Nat) (s : State) : State :=
  { s with cm := { s.cm with state := state, previous := 3, loadLen := 64, digest := Sha.mac [] image64 } }

/-- FirmwareLifeCycle: an activation with an open session, in each state that allows it and one that does not; an image
that is verified and loaded, right, wrong, of a length out of range, and with a read that is answered with an error; a
watchdog that restarts, and one that halts; an uncorrectable word of code in a halt and outside; a restart and a halt with
failover; and a slow-path frame that is discarded, cannot be read, and goes to a channel and to a port. -/
theorem witness_FirmwareLifeCycle :
    let op := fun n => { withCm n up with mgmt := { up.mgmt with
      sessions := setNth 3 { state := .open } up.mgmt.sessions } }
    let im := fun n => withRequest (req0 false 64 .fwImage) (withCm n (fset MGT_CORE_CTL.failover 0 linked))
    let bad := image64.set 63 1
    let short := fun n => let s := im n; { s with cm := { s.cm with loadLen := 63 } }
    let off := fset GLB_ESCALATE_CFG.cm_restart 0 (fset MGT_WDOG_CFG.en 1 (withCm 3 (fset MGT_CORE_CTL.failover 0 up)))
    let on := fset GLB_ESCALATE_CFG.cm_restart 1 (fset MGT_WDOG_CFG.en 1 (withCm 3 up))
    let failsOver := fset MGT_CORE_CTL.failover 1 (withCm 3 up)
    let e : SlowEntry := ⟨0, List.replicate 64 0, 0, 4, 1, {}, false, false⟩
    let q := fun s => withFrame (held (List.replicate 64 0)) { withCm 3 s with cm := { (withCm 3 s).cm with slowQ := [e] } }
    let c := q (withChan 8191 running linked)
    let x := fset MGT_CORE_CTL.failover 1 (fset (PRS_CFG.exc_channel 4) 8191 c)
    let p := onPort 255 { queues := [(0, [{ item with frame := some 0 }])] } (q linked)
    let full := { withCm 3 linked with cellar := { linked.cellar with txWaiting := [(0, 0)] } }
    (∀ n ∈ [1, 2], (short n).wf ∧ live (short n) = true ∧ (short n).cm.state = n ∧ lenOk (short n).cm.loadLen = false
        ∧ (∃ q ∈ (im n).fabric.reqs, q.purpose = .fwImage) ∧ (short n).errors.count < 64
        ∧ fbit MGT_CORE_CTL.failover (short n) = false)
    ∧ (∀ n ∈ [1, 2], Awaits 0 (req0 false 64 .fwImage) (im n))
    ∧ (∀ s ∈ [op 0, op 1, im 1, im 2, off, on, failsOver, withCm 5 up, up, c, x, p, full], s.wf ∧ live s = true ∧ regLive s = true
        ∧ s.errors.count < 64)
    ∧ ((session 3 (op 0)).state = .open ∧ (op 0).cm.state = 0 ∧ (op 1).cm.state = 1 ∧ image64.length = 64)
    ∧ (∀ n ∈ [1, 2], (im n).cm.state = n ∧ (∀ r ∈ (im n).fabric.reqs, r.port ≠ none ∧ r.discard = false ∧ (func r.func (im n)).qState = 0)
        ∧ lenOk (im n).cm.loadLen = true ∧ image64.length = (im n).cm.loadLen ∧ bad.length = (im n).cm.loadLen
        ∧ headerOk image64 (im n) = true ∧ imageMatches image64 (im n) = true ∧ headerOk bad (im n) = false
        ∧ fbit MGT_CORE_CTL.failover (im n) = false)
    ∧ (cmRuns on = true ∧ fbit MGT_WDOG_CFG.en on = true ∧ fbit GLB_ESCALATE_CFG.cm_restart on = true ∧ on.cm.codeBad = false
        ∧ (recentRestarts on).length < 2 ∧ on.cm.restarting = false)
    ∧ (cmRuns off = true ∧ fbit MGT_WDOG_CFG.en off = true ∧ fbit GLB_ESCALATE_CFG.cm_restart off = false
        ∧ fbit MGT_CORE_CTL.failover off = false)
    ∧ ((withCm 5 up).cm.state = 5 ∧ up.cm.state = 0 ∧ cmRuns up = false ∧ fbit MGT_CORE_CTL.failover failsOver = true)
    ∧ (∀ s ∈ [c, x, p], cmRuns s = true ∧ s.cm.slowQ[0]? = some e ∧ s.cm.slowQ[1]? = none ∧ frame 0 s = some (held (List.replicate 64 0)))
    ∧ ((readCells { bad := some ⟨0, 0⟩ } c).2 = false ∧ (readCells {} c).2 = true ∧ (chan 8191 c).state = .running
        ∧ fget CEL_WAIT_LIMIT.limit_us c ≠ 0)
    ∧ (x.cm.slowQ = [e] ∧ fbit MGT_CORE_CTL.failover x = true
        ∧ (chan (fget (PRS_CFG.exc_channel e.press) x) x).state = .running)
    ∧ (expandPorts [{ port := 255, tc := 0, bytes := e.bytes, unmodified := true, oneStep := .off }] p
          = [{ port := 255, tc := 0, bytes := e.bytes, unmodified := true, oneStep := .off }]
        ∧ e.bytes.length ≤ maxFrame 255 p ∧ fwdQueue 255 0 p ≠ [])
    ∧ (cmRuns full = true ∧ full.cellar.txWaiting ≠ []) ∧ (c.cellar.txWaiting = [] ∧ cellsFor (padded []).length ≤ txFree c) :=
  ⟨fun n hn => ⟨wf_of (by revert n; decide +kernel), by revert n; decide +kernel⟩,
    fun n hn => awaitsAll (l := [(_, _)]) (by revert n; decide +kernel) _ (List.mem_singleton.mpr rfl), fun s hs => ⟨wfAll (l := [_, _, _, _, _, _, _, _, _, _, _, _, _]) (by decide +kernel) s hs, by revert s; decide +kernel⟩,
    by decide +kernel⟩

/-- s with session 3 as given, slot 7 loaded, and the message handed over by the mailbox. -/
def withSession (x : Session) (msg : Bytes) (s : State) : State :=
  { s with
    mgmt := { s.mgmt with sessions := setNth 3 x s.mgmt.sessions, mboxBusy := some msg }
    aux := { s.aux with keys := setNth 7 { keySlot 7 s with state := 1 } s.aux.keys } }

/-- SessionsAreOpenedAndUsed: a message in a frame that the firmware does not take; a malformed message; an open request
for a slot that is loaded, one that is not and one with no session free; a right and a wrong proof, the third and the
fourth; a command with the next counter, the last one again and one with a wrong mac; and a close. -/
theorem witness_SessionsAreOpenedAndUsed :
    let ok := fun (l : List Byte) => l ++ List.replicate (24 - l.length) 0
    let mac := fun (m : Bytes) => m ++ Sha.mac [] m
    let free := withSession {} (ok [1, 0, 7, 0]) up
    let gone := withSession {} (ok [1, 0, 0, 0]) up
    let busy := { free with mgmt := { free.mgmt with sessions := List.replicate 4 { state := .open } } }
    let odd := withSession {} [] up
    let ch := fun (m : Bytes) => withSession { state := .challenged, slot := 7 } m up
    let proof := ch ([3, 3, 7, 0, 0, 0, 0, 0] ++ (sessMac { state := .challenged, slot := 7 } 3 1 (ch [])).take 16)
    let wrong := ch (ok [3, 3, 7, 0])
    let locks := { wrong with aux := { wrong.aux with keys := setNth 7 { keySlot 7 wrong with wrong := 3 } wrong.aux.keys } }
    let op : Session := { state := .open, slot := 7 }
    let m := mac [5, 3, 7, 0, 1, 0, 0, 0, 3, 0, 0, 0]
    let cmd := withSession op m up
    let again := withSession { op with counter := 1, lastMac := m.drop 12 } m up
    let forged := withSession op (m.take 12 ++ List.replicate 16 0) up
    let close := withSession op (mac [7, 3, 7, 0, 0, 0, 0, 0]) up
    (∀ s ∈ [up, free, gone, busy, odd, proof, wrong, locks, cmd, again, forged, close], s.wf ∧ live s = true)
    ∧ cmRuns up = false ∧ wellFormed [] = false
    ∧ (∀ s ∈ [free, gone, busy, proof, wrong, locks, cmd, again, forged, close], ∃ m, incoming .mailbox s = some m ∧ wellFormed m = true)
    ∧ incoming .mailbox odd = some []
    ∧ (freeSession free = some 0 ∧ (keySlot 7 free).state = 1 ∧ (keySlot 7 free).lockout = false)
    ∧ (freeSession gone = some 0 ∧ (keySlot 0 gone).state ≠ 1) ∧ freeSession busy = none
    ∧ (∀ s ∈ [proof, wrong, locks], (session 3 s).state = .challenged ∧ (session 3 s).inband = bindOf .mailbox)
    ∧ ((incoming .mailbox proof).map (slice 8 16) = some ((sessMac (session 3 proof) 3 1 proof).take 16))
    ∧ ((incoming .mailbox wrong).map (slice 8 16) ≠ some ((sessMac (session 3 wrong) 3 1 wrong).take 16)
        ∧ (keySlot 7 wrong).wrong < 3 ∧ 3 ≤ (keySlot 7 locks).wrong)
    ∧ (∀ s ∈ [cmd, again, forged, close], (session 3 s).state = .open ∧ (session 3 s).inband = bindOf .mailbox)
    ∧ (macOk (session 3 cmd) m = true ∧ leAt 4 4 m = (session 3 cmd).counter.toNat + 1 ∧ nth 0 8 m ≠ 6)
    ∧ (macOk (session 3 again) m = true ∧ leAt 4 4 m = (session 3 again).counter.toNat
        ∧ slice (m.length - 16) 16 m = (session 3 again).lastMac)
    ∧ (incoming .mailbox forged).map (macOk (session 3 forged)) = some false
    ∧ (incoming .mailbox close).map (macOk (session 3 close)) = some true :=
  ⟨fun s hs => ⟨wfAll (l := [_, _, _, _, _, _, _, _, _, _, _, _]) (by decide +kernel) s hs, by revert s; decide +kernel⟩,
    rfl, rfl, by
      intro s hs
      have h : (incoming .mailbox s).map wellFormed = some true := by revert s; decide +kernel
      exact Option.map_eq_some_iff.mp h, by decide +kernel⟩

/-- MailboxAndKeys: a mailbox with no message and with one, with a response of 128 bytes and with none; a key port that is
open and one that is closed; an empty last slot with eight words, and one that is loaded; and a last session in each
state. -/
theorem witness_MailboxAndKeys :
    let mb := { up with mgmt := { up.mgmt with mboxBusy := some [1], mboxRsp := some (List.replicate 128 0) } }
    let words := (List.range 8).map fun i => (i, (0 : Word))
    let slot := fun (x : KeySlot) => { up with aux := { up.aux with keys := setNth 7 x up.aux.keys } }
    let shut := { up with aux := { up.aux with portOpen := false } }
    let se := fun st => { up with mgmt := { up.mgmt with sessions := setNth 3 { state := st } up.mgmt.sessions } }
    (∀ s ∈ [up, mb, slot { words := words }, slot { state := 1 }, shut, se .challenged, se .open, se .free], s.wf ∧ live s = true
        ∧ regLive s = true ∧ s.aux.vaux = true)
    ∧ (up.mgmt.mboxBusy = none ∧ mb.mgmt.mboxBusy ≠ none ∧ up.mgmt.mboxRsp = none)
    ∧ ((mb.mgmt.mboxRsp.map (·.length)) = some 128 ∧ 16 * 7 + 16 ≤ 128)
    ∧ (keyPort_open up = true ∧ keyPort_open shut = false)
    ∧ ((keySlot 7 (slot { words := words })).state = 0 ∧ (keySlot 7 (slot { words := words })).words.length = 8
        ∧ keyPort_open (slot { words := words }) = true)
    ∧ ((keySlot 7 (slot { state := 1 })).state ≠ 0 ∧ keyPort_open (slot { state := 1 }) = true)
    ∧ (∀ st ∈ [SessState.challenged, .open, .free], (session 3 (se st)).state = st) :=
  ⟨fun s hs => ⟨wfAll (l := [_, _, _, _, _, _, _, _]) (by decide +kernel) s hs, by revert s; decide +kernel⟩, by decide +kernel⟩

/-- SnapshotsAndSamples: a snapshot with none in progress and with one, by command and by interval; its header, its entries
but the last, and the last; a sample ring with a prod to write and with none; a cons in range and out of it; a pair write
of the last programmable counter; and a trigger behind a change of PTP time. -/
theorem witness_SnapshotsAndSamples :
    let snap := fun (n : Nat) (p : Purpose) => withRequest (req0 true 64 p) { linked with pmu := { linked.pmu with
      snapBusy := true, snapLeft := n, snapBody := List.replicate 64 0 } }
    let int := fset PMU_CTL.snap_int_ms 1 up
    let ring := { up with pmu := { up.pmu with ring := { prodDirty := true } } }
    let cons := withRequest (req0 false 4 .sampleCons) linked
    let val := fset PMU_SEL.counter 735 { up with pairHeld := [(PMU_VAL_LO.reg.off, 1)] }
    let late := { up with time := { next := [.incr 0x10000000] } }
    (late.wf ∧ live (entered .snapshotTrigger late) = true ∧ regLive (entered .snapshotTrigger late) = true
        ∧ (entered .snapshotTrigger late).pmu.snapBusy = false)
    ∧ AllIssued val ∧ portTurn val = val ∧ portTurn up = up ∧ portTurn (snap 0 .snapHeader) = snap 0 .snapHeader
    ∧ (∀ s ∈ [up, snap 0 .snapHeader, snap 1 .snapEntries, snap 2 .snapEntries, int, ring, cons, val], s.wf ∧ live s = true
        ∧ regLive s = true)
    ∧ (∀ x ∈ [(req0 true 64 .snapHeader, snap 0 .snapHeader), (req0 true 64 .snapEntries, snap 1 .snapEntries),
        (req0 true 64 .snapEntries, snap 2 .snapEntries), (req0 false 4 .sampleCons, cons)], Awaits 0 x.1 x.2)
    ∧ (up.pmu.snapBusy = false ∧ (snap 0 .snapHeader).pmu.snapBusy = true ∧ fget PMU_CTL.snap_int_ms up = 0
        ∧ fget PMU_CTL.snap_int_ms int ≠ 0)
    ∧ ((snap 1 .snapEntries).pmu.snapLeft ≤ 1 ∧ 1 < (snap 2 .snapEntries).pmu.snapLeft)
    ∧ (ring.pmu.ring.prodDue false = true ∧ up.pmu.ring.prodDue false = false)
    ∧ (cons.pmu.ring.consBad (sampleLog2 cons) 0 = false ∧ cons.pmu.ring.consBad (sampleLog2 cons) 1 = true)
    ∧ (mget PMU_VAL_LO.reg.off val.pairHeld = some 1 ∧ selCounter val = 735 ∧ fixedCounter (selCounter val) = false) :=
  ⟨⟨wf_of (by decide +kernel), by decide +kernel⟩, by unfold AllIssued; decide +kernel, rfl, rfl, rfl, fun s hs => ⟨wfAll (l := [_, _, _, _, _, _, _, _]) (by decide +kernel) s hs, by revert s; decide +kernel⟩,
    awaitsAll (by decide +kernel), by decide +kernel⟩

/-! ### Forms of the commands -/

/-- Each bound of WellFormed admits its last value and refuses the next one. -/
theorem test_frames_have_a_byte :
    Instr.wf (.frameReceive 0 (arrival [0])) = true ∧ Instr.wf (.frameReceive 0 (arrival [])) = false
    ∧ Instr.wf (.sentinelFrame 0 (arrival [])) = false := by decide

theorem test_posted_commands_have_64_bytes :
    (∀ p, (Instr.lock p).wf = postOk p ∧ (Instr.unlock p).wf = postOk p ∧ (Instr.tblRead p).wf = postOk p
      ∧ (Instr.tblWrite p).wf = postOk p ∧ (Instr.tblDelete p).wf = postOk p ∧ (Instr.zoneMove p).wf = postOk p
      ∧ (Instr.replicaCopy p).wf = postOk p ∧ (Instr.ageSweep p).wf = postOk p ∧ (Instr.dump p).wf = postOk p)
    ∧ postOk none = true ∧ postOk (some (List.replicate 63 0)) = false ∧ postOk (some (List.replicate 64 0)) = true
    ∧ postOk (some (List.replicate 65 0)) = false ∧ postOk (some (List.replicate 192 0)) = false :=
  ⟨fun _ => ⟨rfl, rfl, rfl, rfl, rfl, rfl, rfl, rfl, rfl⟩, by decide +kernel⟩

theorem test_other_bounds_refuse :
    (Instr.counterReset [⟨735, 1⟩]).wf = true ∧ (Instr.counterReset [⟨736, 1⟩]).wf = false
    ∧ (Instr.activateFw 0 (List.replicate 16 0)).wf = true ∧ (Instr.activateFw 0 []).wf = false
    ∧ (Instr.rackCutoverEnd 160).wf = true ∧ (Instr.rackCutoverEnd 161).wf = false := by decide

theorem test_images_and_messages_have_their_lengths :
    (∀ b : Bytes, b.length = 2 ^ 20 → (Instr.fwVerifyDone (.data b)).wf = false ∧ (Instr.fwLoadDone (.data b)).wf = false)
    ∧ (∀ b : Bytes, b.length = 16385 → (Instr.openReq (.inband 0 0 b)).wf = false ∧ (Instr.proof (.inband 0 0 b)).wf = false
      ∧ (Instr.command (.inband 0 0 b)).wf = false ∧ (Instr.close (.inband 0 0 b)).wf = false)
    ∧ (Instr.openReq .mailbox).wf = true ∧ (Instr.fwLoadDone (.error 0)).wf = true := by
  simp +contextual [Instr.wf, ImageResp.imageOk, MsgPath.ok]

/-- No row of the table has bits, so no word spells a command. -/
theorem test_no_word_spells_a_command : decodeTableWord 32 0 = none ∧ State.reset.withFetchWord 32 0 = State.reset :=
  ⟨rfl, rfl⟩

/-! ### The spec's worked examples -/

/-- spec/10, R323: the check results over the nine ASCII bytes "123456789". -/
theorem test_check_results :
    (List.range 4).map (fun n => crcRun (cvCode n) (cvCode n).init (leBytes 9 0x393837363534333231) ^^^ (cvCode n).xorout)
      = [0xCBF43926, 0xE3069283, 0x62EC59E3F1A4F00A, 0xD0DB] := by decide +kernel

/-- spec/10, example "CRC-32C over two blocks crossing a frame": the folded tag of block A. -/
theorem test_folded_tag : foldTag 32 0x0000001234560000 = 0x34560012 := by decide

/-- spec/02, example "a transmit ring wrapping its indices": 32 used, then 256. -/
theorem test_indices_wrap : used 0x00000010 0xFFFFFFF0 = 32 ∧ used 0x000000F0 0xFFFFFFF0 = 256 := by decide

/-- spec/04, example "calendar for a mixed row": ROW_CAL[7] has 0xE, port 6, as its entry 63. -/
theorem test_mixed_row_calendar :
    let cal := generated (6 + 5 * 8 + 4 * 8 ^ 2 + 3 * 8 ^ 3 + 2 * 8 ^ 4 + 8 ^ 5 + 8 ^ 6)
    cal.getLast? = some 0xE ∧ (List.range 64).filter (fun i => nth 0 i cal == 0xB) = [7, 23, 39, 55] := by decide +kernel

/-- spec/08, example "a policer trace with 9,000-byte frames". -/
theorem test_policer_trace :
    let p : Policer := { cir := 1000000, pir := 2000000, cbs := 10000, pbs := 20000, tc := 10000 * 2 ^ 20, tp := 20000 * 2 ^ 20 }
    let f := fun (t b : Nat) (x : List Colour × Policer) => let r := x.2.meter t b; (x.1 ++ [r.1], r.2)
    let r := f 160000 9000 (f 64000 1500 (f 6400 9000 (f 3200 9000 (f 0 9000 ([], p)))))
    r.1 = [.green, .yellow, .red, .green, .green] ∧ (r.2.tc, r.2.tp) = (1000 * 2 ^ 20, 11000 * 2 ^ 20) := by decide +kernel

/-- spec/09, example "a base time in the past": the list starts 49,383 cycles after its base. -/
theorem test_gate_start :
    startTime (86400000000000 * 2 ^ 28) (200000 * tick28) (86412345678100 * 2 ^ 28) = 86412345750000 * 2 ^ 28 := by decide +kernel

/-- spec/16, example "finding and decoding addresses". -/
theorem test_addresses :
    (PRT_GATE_CFG.reg 197).off = 0x261C28 ∧ (PRT_LPI_STAT.reg 197).off = 0x261C40 ∧ (PRS_POL_CTL.reg 3).off = 0x130214
    ∧ (CEL_PROF_HIGH.reg 8 3).off = 0x70534 ∧ findSpec 0x263C40 = none := by decide +kernel

end Sys2Proof.Tests
end

section
/-!
What power-on reset leaves: the accessors at State.reset, from which the obligation on the reset state is assembled.
-/

namespace Sys2Proof.Machine

/-! ### The accessors at reset -/

/-- No register has been written at reset, so each holds the reset value of its row of the register index. -/
@[simp] theorem regW_reset (r : Reg) : regW r State.reset = r.rst := rfl

@[simp] theorem fget_reset (f : Fld) : fget f State.reset = f.read f.reg.rst := rfl

@[simp] theorem chan_reset (c : Nat) : chan c State.reset = {} := rfl

@[simp] theorem row_reset (r : Nat) : row r State.reset = {} := rfl

/-- A list of equal values reads as that value at every index where the value beyond its end is the same one. -/
@[simp] theorem nth_replicate_self {α : Type} (d : α) (n i : Nat) : nth d i (List.replicate n d) = d := by
  rw [nth, List.getElem?_replicate]
  split
  · rfl
  · rfl

@[simp] theorem cage_reset (c : Nat) : cage c State.reset = {} := nth_replicate_self (α := Cage) {} 32 c

/-! ### The press map and the identity -/

/-- R14: the groups of rows belong to presses 0 to 3, and press 4 is the reserve press. -/
theorem pressMap_reset :
    fget GLB_PRESS_MAP.group0 State.reset = 0 ∧ fget GLB_PRESS_MAP.group1 State.reset = 1
      ∧ fget GLB_PRESS_MAP.group2 State.reset = 2 ∧ fget GLB_PRESS_MAP.group3 State.reset = 3
      ∧ reservePress State.reset = 4 := by
  simp only [reservePress, fget_reset]
  decide

/-- A read of an address at which no field reports state held elsewhere shows the stored word. -/
theorem viewed_of_liveFields_nil {a : Nat} {x : RegSpec} {s : State} (h : liveFields a s = []) :
    viewed a x s = regW (regAt a x) s := by
  rw [viewed, h]
  rfl

theorem liveFields_GLB_IDENT (s : State) : liveFields GLB_IDENT.reg.off s = [] := rfl

theorem liveFields_GLB_ISSUE (s : State) : liveFields GLB_ISSUE.reg.off s = [] := rfl

/-! ### The obligation -/

/-- Settles O3: State.reset lists nothing, so each accessor reads its default; the press map and the identity are the
reset values of their registers. -/
theorem resetState : Obligations.ResetState := by
  obtain ⟨group0, group1, group2, group3, reserve⟩ := pressMap_reset
  have rowsOff : ∀ r, rowEnabled r State.reset = false := fun r => by rw [rowEnabled, row_reset]; rfl
  have cagesEmpty : ∀ c, (cage c State.reset).state = 0 ∧ (cage c State.reset).present = false := fun c => by
    rw [cage_reset]; exact ⟨rfl, rfl⟩
  have channelDisabled : (chan 0 State.reset).state = .disabled := by rw [chan_reset]
  have ident := viewed_of_liveFields_nil (x := ⟨GLB_IDENT.reg, 1, 4, 0, 0, 0, 0, .p⟩) (liveFields_GLB_IDENT State.reset)
  have issue := viewed_of_liveFields_nil (x := ⟨GLB_ISSUE.reg, 1, 4, 0, 0, 0, 0, .p⟩) (liveFields_GLB_ISSUE State.reset)
  exact ⟨rfl, chan_reset, channelDisabled, rfl, rfl, rfl, rfl, rfl, group0, group1, group2, group3, reserve, rowsOff,
    cagesEmpty, ident.trans (regW_reset _), issue.trans (regW_reset _)⟩

end Sys2Proof.Machine
end

section
/-!
A producer index of the receive side, read while a frame waits with a limit_us of 0 (R191): the channel takes the index,
and the frame leaves the cellar.
-/

namespace Sys2Proof.Machine

/-! ### The counterexample -/

/-- A frame of the shared pool, in one cell. -/
def sharedFrame : Frame := { bytes := List.replicate 64 0, port := some 255, pool := .shared, cells := 1, refs := 1 }

/-- The reference by which the frame waits for a channel: it waited in pause mode and so has placed its receive hold. -/
def waitingRef : RxRef :=
  { frame := 0, kind := .normal, bytes := sharedFrame.bytes, tc := 0, l3err := false, l4err := false, held := true }

/-- A read of rx_prod of channel 0 that fabric port 0 has issued. -/
def rxProdRead : Req :=
  { id := 0, write := false, func := 0, addr := 4, len := 4, data := [], purpose := .rxProd 0, port := some 0,
    reissued := false, left := none, discard := false }

/-- Limit_us is 0, a frame waits for buffers of a RUNNING channel that has posted none, and a read of its rx_prod is
outstanding. The profile of the frame is in drop mode by now: the frame came while software had it in pause mode, and a
write of CEL_PROF_MODE does not look at the frames that wait. -/
def frameWaitsWithoutLimit : State :=
  fset CEL_WAIT_LIMIT.limit_us 0 { State.reset with
    power := { por := false, ready := true, initBusy := false }
    chans := [(0, { state := .running, ctx := { rxLog2 := 6 }, rx := { idxOut := true, queue := [waitingRef] } })]
    cellar := { frames := [(0, sharedFrame)], nextFrame := 1, charges := [(255 * 8, { shared := 1, holds := 1 })] }
    fabric := { State.reset.fabric with reqs := [rxProdRead], nextId := 1 } }

/-- INDEX_BLOCK_READ_COMPLETE with the index that the channel already holds. -/
def sameIndexRead : Instr := .indexBlockReadComplete 0 (.data (leBytes 4 0))

/-- The frames that the cellar holds after a step that goes on. -/
def framesAfter : Host.Outcome State Fault Refusal → Option (SMap Frame)
  | .next t => some t.cellar.frames
  | _ => none

theorem frameWaitsWithoutLimit_wf : frameWaitsWithoutLimit.wf := by
  unfold State.wf canonical Fabric.wf Events.wf Time.wf Power.wf ErrQueue.wf
  decide +kernel

theorem frameWaitsWithoutLimit_awaits : Awaits 0 rxProdRead frameWaitsWithoutLimit := by
  unfold Awaits
  decide +kernel

/-- R191: the read posts no buffer, so the wait of the frame is over, and its cells are freed. -/
theorem framesAfter_sameIndexRead : framesAfter (exec sameIndexRead frameWaitsWithoutLimit) = some [] := by
  decide +kernel

/-! ### The obligation -/

/-- Refutes O18: where a receive index has been taken and limit_us is 0, the frames that wait are looked at again (R191).
In `frameWaitsWithoutLimit` the index 0 is in range and taken, but the frame that waits leaves the cellar, a part that the
statement leaves as it was. -/
theorem not_producerIndexIsChecked : ¬ Obligations.ProducerIndexIsChecked := by
  intro h
  have receive := (h 0 0 rxProdRead (leBytes 4 0) _ frameWaitsWithoutLimit_wf frameWaitsWithoutLimit_awaits rfl rfl rfl).2 rfl
  obtain ⟨taken, -, -⟩ := receive
  obtain ⟨t, goes, changes, -⟩ := taken (by decide +kernel) (by decide +kernel)
  have unchanged : t.cellar = frameWaitsWithoutLimit.cellar := changes .cellar (by simp)
  have gone : framesAfter (exec sameIndexRead frameWaitsWithoutLimit) = some t.cellar.frames := congrArg framesAfter goes
  rw [framesAfter_sameIndexRead, unchanged] at gone
  exact absurd gone (by decide +kernel)

end Sys2Proof.Machine
end

section
/-!
The policer window (R293): the press after a selection and after a commit, and the policers that frames of the cycle of the
commit use.
-/

namespace Sys2Proof.Machine

variable {k : Nat} {data : Word} {s : State}

/-! ### A selection -/

/-- The field of the 14 low bits reads a word that is cut to them as the word's remainder. -/
theorem bits_and_low14 (w : Word) : bits (w &&& 0x3FFF).toNat 13 0 = w.toNat % 2 ^ 14 := by
  have keeps : (w &&& 0x3FFF).toNat = w.toNat % 2 ^ 14 := by
    rw [BitVec.toNat_and]
    exact Nat.and_two_pow_sub_one_eq_mod w.toNat 14
  rw [bits, keeps, Nat.pow_zero, Nat.div_one, Nat.mod_mod]

theorem polSel_selectPolicer (h : msorted s.regs = true) : polSel k (selectPolicer k data s) = data.toNat % 2 ^ 14 := by
  have word : polSel k (selectPolicer k data s) = (PRS_POL_SEL.policer k).read (data &&& 0x3FFF) :=
    fget_setReg s (PRS_POL_SEL.policer k) _ h
  exact word.trans (bits_and_low14 data)

theorem press_selectPolicer (h : msorted s.presses = true) :
    press k (selectPolicer k data s) = { press k s with polHeld := none } :=
  press_modPress (setReg (PRS_POL_SEL.reg k) (data &&& 0x3FFF) s) _ _ h

theorem regsLeft_selectPolicer : regsLeft [(PRS_POL_SEL.reg k).off] s (selectPolicer k data s) :=
  fun a other _ => mget_setReg_ne _ _ s a (List.ne_of_not_mem_cons other)

/-! ### A commit -/

/-- The policer that a commit puts in place of the selected one: the held rates and sizes, its own fields, both buckets
full, and the time of the commit. -/
def committedPolicer (k : Nat) (data : Word) (s : State) : Policer :=
  let (cir, pir, cbs, pbs) := polHeld k s
  let p : Policer := { cir := cir.toNat, pir := pir.toNat, cbs := cbs.toNat, pbs := pbs.toNat,
                       ctl := data &&& 0xFFFFC000, last := s.time.dclk }
  { p with tc := p.cbsOn * 2 ^ 20, tp := p.pbsOn * 2 ^ 20 }

theorem press_setPolicer {n : Nat} {p : Policer} (h : msorted s.presses = true) :
    press k (setPolicer k n p s) = { press k s with policers := mputD {} n p (press k s).policers } :=
  press_modPress s _ _ h

theorem press_commitPolicer (h : msorted s.presses = true) :
    press k (commitPolicer k data s) =
      { press k s with
        policers := mputD {} (polSel k s) (committedPolicer k data s) (press k s).policers
        polHeld := none
        polOld := mput (polSel k s) (policerNow k (polSel k s) s) (press k s).polOld } := by
  have sorted : msorted (setPolicer k (polSel k s) (committedPolicer k data s) s).presses = true := msorted_mputD h
  exact (press_modPress _ _ _ sorted).trans (by rw [press_setPolicer h])

/-- The selected policer is kept for the cycle of the commit as it was; every other is neither kept nor changed. -/
theorem policerNow_commitPolicer (n : Nat) (h : msorted s.presses = true) :
    policerNow k n (commitPolicer k data s) = policerNow k n s := by
  rw [policerNow, policer, press_commitPolicer h]
  by_cases selected : n = polSel k s
  · rw [selected, mget_mput_self, Option.getD_some]
  · rw [mget_mput_ne selected, mgetD_mputD_ne selected, policerNow, policer]

/-! ### The obligation -/

/-- Settles O38: each command is its operation on the press and, for a selection, on one register. -/
theorem policerIsCommitted : Obligations.PolicerIsCommitted := by
  intro k data s hs reached
  obtain ⟨regsSorted, -, -, -, -, -, -, ⟨pressesSorted, -⟩, -⟩ := id hs
  have selects : exec (.policerSelect k data) s = .next (selectPolicer k.val data s) := if_pos reached
  have commits : exec (.policerCommit k data) s = .next (commitPolicer k.val data s) := if_pos reached
  have committed := press_commitPolicer (k := k.val) (data := data) pressesSorted
  constructor
  · exact .of_next selects hs (keep_selectPolicer Keep.refl Covers.refl) fun _ =>
      ⟨polSel_selectPolicer regsSorted, press_selectPolicer pressesSorted, regsLeft_selectPolicer⟩
  · exact .of_next commits hs (keep_commitPolicer Keep.refl Covers.refl) fun _ =>
      ⟨by rw [committed],
        ⟨committedPolicer k.val data s, by rw [committed], rfl, rfl, rfl, rfl, rfl, rfl, rfl, rfl⟩,
        fun n => policerNow_commitPolicer n pressesSorted, by rw [committed], by rw [committed]⟩

end Sys2Proof.Machine
end
